-- ==== Sys2Proof/Word.lean ====
section
/-! DEFINITION. The machine's words (spec/00_scope.md R4): bytes, 32-bit registers, 64-bit pairs and scalars. -/
namespace Sys2Proof

/-- One byte of memory. -/
abbrev Byte := BitVec 8
/-- One thread register or vector lane (32 bits). -/
abbrev Word := BitVec 32
/-- A register pair, a scalar, a hardware register or an address (64 bits). -/
abbrev Dword := BitVec 64

/-- Bits [hi:lo] of a natural number, both ends included (R4). -/
def bits (x hi lo : Nat) : Nat := (x >>> lo) % 2 ^ (hi + 1 - lo)

/-- Bit k of a natural number. -/
def bit (x k : Nat) : Bool := (x >>> k) % 2 == 1

/-- 1 for true, 0 for false. -/
def b2n (b : Bool) : Nat := if b then 1 else 0

end Sys2Proof
end

