-- ==== Sys2Proof/Machine/Sha3.lean ====
section
/-! DEFINITION. SHA3-512, which R10 and R463 name: the sponge and its step mappings, with their constants computed as the standard defines them. -/
namespace Sys2Proof.Machine

/-- One step of the register that gives the bits of the round constants: x^8 + x^6 + x^5 + x^4 + 1. -/
def rcStep (r : Nat) : Nat := if r < 128 then 2 * r else (2 * r) ^^^ 0x171
/-- A round constant from the register, with the register after it: bit 2^j − 1 takes the j-th output. -/
def rcWord : Nat → Nat → Nat → Nat × Nat
  | 0, _, r => (0, r)
  | n + 1, j, r => let w := rcWord n (j + 1) (rcStep r); (r % 2 * 2 ^ (2 ^ j - 1) + w.1, w.2)

/-- The lane at a place of the 5 × 5 state, rows one after the other. -/
def spongeLane (a : List Dword) (x y : Nat) : Dword := a.getD (5 * y + x) 0
/-- θ: each lane takes the parity of the column before it and, turned by one bit, of the one after it. -/
def spongeTheta (a : List Dword) : List Dword :=
  let par := fun (x : Nat) => (List.range 5).foldl (fun p y => p ^^^ spongeLane a (x % 5) y) 0
  let mix := (List.range 5).map fun x => par (x + 4) ^^^ (par (x + 1)).rotateLeft 1
  (List.range 5).flatMap fun y => List.zipWith (· ^^^ ·) ((a.drop (5 * y)).take 5) mix
/-- ρ and π as one walk of n steps from a place: the lane there is turned by the triangular number of its step and goes to the next place. -/
def spongeWalk (a : List Dword) : Nat → Nat → Nat → Nat → List Dword → List Dword
  | 0, _, _, _, out => out
  | n + 1, t, x, y, out =>
    let y' := (2 * x + 3 * y) % 5
    spongeWalk a n (t + 1) y y' (out.set (5 * y' + y) ((spongeLane a x y).rotateLeft ((t + 1) * (t + 2) / 2 % 64)))
/-- χ on a row. -/
def spongeChi : List Dword → List Dword
  | [p, q, r, s, t] => [p ^^^ (r &&& ~~~q), q ^^^ (s &&& ~~~r), r ^^^ (t &&& ~~~s), s ^^^ (p &&& ~~~t), t ^^^ (q &&& ~~~p)]
  | row => row
/-- n rounds, with the register of the round constants. -/
def spongeRounds : Nat → Nat → List Dword → List Dword
  | 0, _, a => a
  | n + 1, r, a =>
    let k := rcWord 7 0 r
    let moved := spongeWalk (spongeTheta a) 24 0 1 0 (spongeTheta a)
    let rows := (List.range 5).flatMap fun y => spongeChi ((moved.drop (5 * y)).take 5)
    spongeRounds n k.2 (rows.modify 0 fun z => z ^^^ BitVec.ofNat 64 k.1)

/-- The number of a block of bytes. -/
def bytesNat : List Byte → Nat
  | [] => 0
  | b :: bs => b.toNat + 256 * bytesNat bs
/-- Absorb n blocks of 72 bytes, each into the first nine lanes. -/
def spongeAbsorb : Nat → List Byte → List Dword → List Dword
  | 0, _, a => a
  | n + 1, m, a =>
    let w := bytesNat (m.take 72)
    spongeAbsorb n (m.drop 72) (spongeRounds 24 1 (a.mapIdx fun k z => if k < 9 then z ^^^ BitVec.ofNat 64 (w / 2 ^ (64 * k)) else z))

/-- SHA3-512 of a message: 64 bytes. The message takes the suffix 01 and the padding 10*1. -/
def sha3_512 (m : List Byte) : List Byte :=
  let n := m.length / 72 + 1
  let tail := 6 + 2 ^ (8 * (72 * n - m.length) - 1)
  let a := spongeAbsorb n (m ++ (List.range (72 * n - m.length)).map fun k => BitVec.ofNat 8 (tail / 2 ^ (8 * k))) (List.replicate 25 0)
  (a.take 8).flatMap fun z => (List.range 8).map fun k => z.extractLsb' (8 * k) 8

end Sys2Proof.Machine
end

