-- ==== Sys2Proof/Config.lean ====
section
/-! DEFINITION. What is fixed for the machine (R1, R2) and the free values of the spec: constants without a body,
so that no proof can see what they are. -/
namespace Sys2Proof.Config

/-- Cores of the device (R1). -/
def cores : Nat := 128
/-- Warp slots of a core (R55). -/
def warpSlots : Nat := 64
/-- Task slots of a core (R55). -/
def taskSlots : Nat := 8
/-- Pool rows of a core (R55). -/
def poolRows : Nat := 768
/-- KiB of dedicated accumulator store of a core (R55). -/
def accKiB : Nat := 512
/-- L2 slices (R1). -/
def slices : Nat := 256
/-- FEAT[0] (R89): TILEREV 1, THRREV 1, LOCKCLK, SPARSE24, NBV1, EXTCRC. -/
def feat0 : Nat := 0x0101000F
/-- FEAT[1] (R89): only 0xC0 is implemented. -/
def feat1 : Nat := 1
/-- MAGIC of a Faeth executable (R10). -/
def magic : Nat := 0x48544146

/-- FREE VALUE. Which of several agents that can move takes the next step, by step count (log 2). -/
opaque pick : Nat → Nat
/-- FREE VALUE. Bytes whose contents the spec leaves unspecified (R27's device-owned bytes), by count (log 13). -/
opaque freeByte : Nat → BitVec 8
/-- FREE VALUE. A choice between two outcomes that the spec allows (R279), by count (log 13). -/
opaque freeBool : Nat → Bool
/-- FREE VALUE. A 64-bit value that the spec does not state, by count (log 13). -/
opaque freeDword : Nat → BitVec 64
/-- FREE VALUE. The public key, the signature and the security version that a firmware image carries (R463), whose layout the spec
does not give (log 14). -/
opaque imageKey : List (BitVec 8) → List (BitVec 8)
@[inherit_doc imageKey] opaque imageSig : List (BitVec 8) → List (BitVec 8)
@[inherit_doc imageKey] opaque imageVersion : List (BitVec 8) → Nat
/-- FREE VALUE. ML-DSA-87 verification of a firmware image's signature (R463): key, digest, signature (log 14). -/
opaque mldsaVerify : List (BitVec 8) → List (BitVec 8) → List (BitVec 8) → Bool
/-- FREE VALUE. The device identity key derived from the device secret and the firmware digest (R464; log 14). -/
opaque deriveKey : List (BitVec 8) → List (BitVec 8) → List (BitVec 8)
/-- FREE VALUE. The signature of a measurement report under the identity key (R464; log 14). -/
opaque mldsaSign : List (BitVec 8) → List (BitVec 8) → List (BitVec 8)
/-- FREE VALUE. Whether the root port refuses a PCIe AtomicOp (R276), by count (log 13). -/
opaque atomicRefused : Nat → Bool
/-- FREE VALUE. The ATS answer for a host page (R452): whether the access is allowed, by context and address (log 13). -/
opaque atsAllows : Nat → Nat → Bool
/-- FREE VALUE. What the module flash and the fuses hold before the first boot: the firmware image, the key digest, the least security version, the
device secret, and the boot ROM's version (R463, R464; log 14). -/
opaque flash : List (BitVec 8)
@[inherit_doc flash] opaque fuseKeyDigest : List (BitVec 8)
@[inherit_doc flash] opaque fuseMinVersion : Nat
@[inherit_doc flash] opaque fuseSecret : List (BitVec 8)
@[inherit_doc flash] opaque romVersion : Nat

end Sys2Proof.Config
end

