-- ==== Sys2Proof/Syntax.lean ====
section
/-! DEFINITION. The steps of spec/opcode_table.json as one inductive, and the operand types they use. Register fields keep
their numbers (R77, R102); every other code of an encoding is a name. -/
namespace Sys2Proof

/-- A thread register field v0-v255 (R77). -/
abbrev VReg := BitVec 8
/-- A predicate field p0-p7 (R77). -/
abbrev PReg := BitVec 3
/-- A tile scalar s0-s31 (R102). -/
abbrev SReg := BitVec 5
/-- A tile handle t0-t15 (R102). -/
abbrev THandle := BitVec 4

/-- The lookahead and guard of a thread word (R75): LA, PN, PG. -/
structure Hdr where
  la : BitVec 4
  pn : Bool
  pg : BitVec 3
  deriving DecidableEq, Repr

/-- The guard of a tile slot (R99): always, or stage predicate sg i. -/
inductive SGuard | always | sg (i : BitVec 3)
  deriving DecidableEq, Repr

/-- Saturation of IADD and ISUB (R158). -/
inductive Sat | wrap | signed | unsigned
  deriving DecidableEq, Repr
/-- Rounding directions (R140). -/
inductive Rm | rn | rz | ru | rd
  deriving DecidableEq, Repr
/-- Comparison conditions (R159, R163, R107). -/
inductive Cond | eq | ne | lt | le | gt | ge
  deriving DecidableEq, Repr
/-- Predicate combination (R159). -/
inductive Bop | and | or | xor
  deriving DecidableEq, Repr
/-- Access sizes (R80). -/
inductive Sz | b8 | b16 | b32 | b64 | b128
  deriving DecidableEq, Repr
/-- Scopes (R80). -/
inductive Scope | blk | quad | die | dev | sys | job
  deriving DecidableEq, Repr
/-- Float formats of the thread set's conversions (R165). -/
inductive FFmt | fp32 | fp16 | bf16
  deriving DecidableEq, Repr
/-- Integer formats of the thread set's conversions (R165). -/
inductive IFmt | i32 | u32 | i8 | u8
  deriving DecidableEq, Repr
/-- Element formats (R22). -/
inductive Fmt | fp32 | fp16 | bf16 | tf8 | tf6 | int8 | int32 | uint8 | e8 | bsw
  deriving DecidableEq, Repr
/-- A format selector (R103): a format, or the format-table entry in force. -/
inductive FSel | fmt (f : Fmt) | table
  deriving DecidableEq, Repr
/-- LXCH modes (R172). -/
inductive LxMode | abs | lo | hi | flip
  deriving DecidableEq, Repr
/-- PJOIN modes (R173). -/
inductive PjMode | any | all | same
  deriving DecidableEq, Repr
/-- WSCAN and WRED operations (R174). -/
inductive WsOp | add | min | max
  deriving DecidableEq, Repr
/-- WSCAN and WRED types (R174). -/
inductive WsTy | i32 | u32 | f32
  deriving DecidableEq, Repr
/-- Atomic operations (R262). -/
inductive AOp | add | min | max | and | or | xor | exch | inc | dec
  deriving DecidableEq, Repr
/-- Atomic types (R262). -/
inductive ATy | unsigned | signed | fp32
  deriving DecidableEq, Repr
/-- Engine classes (R102). -/
inductive Eng | copy | matrix | gather | xform | remote
  deriving DecidableEq, Repr
/-- POLL conditions (R344). -/
inductive PollCond | eq | ne | geu | ltu | any | none
  deriving DecidableEq, Repr
/-- DBAR levels (R332). -/
inductive Level | blk | quad | die | dev | job
  deriving DecidableEq, Repr
/-- CCTL operations (R285). -/
inductive CctlOp | ivl | wb | ivall | l2wb
  deriving DecidableEq, Repr
/-- CRCW sizes (R181). -/
inductive CrcSz | w | b | h
  deriving DecidableEq, Repr
/-- Cache hints (R261). -/
inductive Hint | dflt | cg | cs
  deriving DecidableEq, Repr
/-- SCMP conditions (R104). -/
inductive SCond | eq | ne | lt | le | ltu | leu
  deriving DecidableEq, Repr
/-- VRED and VSCAN operations (R107). -/
inductive VrOp | add | max | min
  deriving DecidableEq, Repr
/-- An operand location (R102): ring qn or tile tn. -/
inductive Loc | ring (n : BitVec 4) | tile (n : BitVec 4)
  deriving DecidableEq, Repr
/-- A vector operand (R106). -/
inductive VOp | w (n : BitVec 4) | pt (n : BitVec 2) | ix (n : BitVec 2) | lit (x : BitVec 32) | wz
  deriving DecidableEq, Repr

/-- The FLG field (R261). -/
structure Flg where
  acq : Bool
  rel : Bool
  ch : Hint
  sx : Bool
  deriving DecidableEq, Repr
/-- The fields of a plain FM access (R80). -/
structure MemF where
  cls : BitVec 4
  sz : Sz
  scope : Scope
  off : BitVec 14
  deriving DecidableEq, Repr
/-- The fields of an atomic (R80, R262). -/
structure AtomF where
  cls : BitVec 4
  sz : Sz
  scope : Scope
  op : AOp
  ty : ATy
  acq : Bool
  rel : Bool
  deriving DecidableEq, Repr
/-- The fields of POLL (R344). -/
structure PollF where
  cls : BitVec 4
  sz : Sz
  scope : Scope
  cond : PollCond
  acq : Bool
  bo : BitVec 2
  deriving DecidableEq, Repr
/-- CMOD of a copy command (R291). -/
structure CMod where
  side : Bool
  bar : Bool
  ver : Bool
  xf : Option Fmt
  pl : BitVec 4
  mid : Bool
  dside : Bool
  tens2 : BitVec 10
  deriving DecidableEq, Repr
/-- The common fields of a C command (R109): tensor, location, first scalar, class, REL. -/
structure CFld where
  tens : BitVec 10
  loc : Loc
  sc : SReg
  cls : BitVec 4
  rel : Bool
  deriving DecidableEq, Repr

/-- A thread: core, task slot, block-warp, home lane. -/
structure TRef where
  core : Nat
  slot : Nat
  warp : Nat
  lane : Nat
  deriving DecidableEq, Repr

/-- A flit of the fabric (R417, R421, R455), as one device sees it arrive. -/
inductive Flit where
  /-- roadblock: wave, job, origin index, RB_CAUSE, RB_AUX, RB_ADDR (R417) -/
  | roadblock (wave job origin : Nat) (cause aux addr : BitVec 64)
  /-- resume of a wave (R424) -/
  | resume (wave job : Nat)
  /-- a remote request (R277): source device, source tag, job, class, kind, address, data, size -/
  | request (src tag job cls : Nat) (kind : Nat) (va : BitVec 64) (data : Nat) (sz : Sz) (am : AtomF) (sx : Bool)
  /-- a reply or acknowledgement (R269): tag, cause code (0: none), data -/
  | reply (tag cause : Nat) (data : Nat)
  /-- a job-level DBAR arrival of a device's grid (R341): job, JTAG, id, device -/
  | dbar (job jtag id dev : Nat)
  deriving DecidableEq, Repr

/-- Every step of spec/opcode_table.json, one constructor a row. -/
inductive Instr where
  -- integer and logic (R158-R160)
  | iadd (h : Hdr) (d a b : VReg) (sat : Sat)
  | iaddi (h : Hdr) (d a : VReg) (imm : BitVec 32)
  | isub (h : Hdr) (d a b : VReg) (sat : Sat)
  | imul (h : Hdr) (d a b : VReg)
  | imuli (h : Hdr) (d a : VReg) (imm : BitVec 32)
  | imulh (h : Hdr) (d a b : VReg) (u : Bool)
  | imad (h : Hdr) (d a b c : VReg)
  | imadw (h : Hdr) (d a b c : VReg) (u : Bool)
  | imin (h : Hdr) (d a b : VReg) (u : Bool)
  | imax (h : Hdr) (d a b : VReg) (u : Bool)
  | iabs (h : Hdr) (d a : VReg) (sat : Bool)
  | ineg (h : Hdr) (d a : VReg) (sat : Bool)
  | tlog (h : Hdr) (d a b c : VReg) (tt : BitVec 8)
  | tlogi (h : Hdr) (d a : VReg) (imm : BitVec 24) (tt : BitVec 4)
  | shl (h : Hdr) (d a b : VReg)
  | shli (h : Hdr) (d a : VReg) (amt : BitVec 5)
  | shr (h : Hdr) (d a b : VReg)
  | shri (h : Hdr) (d a : VReg) (amt : BitVec 5)
  | sar (h : Hdr) (d a b : VReg)
  | sari (h : Hdr) (d a : VReg) (amt : BitVec 5)
  | fshf (h : Hdr) (d a b c : VReg) (r : Bool)
  | popc (h : Hdr) (d a : VReg)
  | clz (h : Hdr) (d a : VReg)
  | brev (h : Hdr) (d a : VReg)
  | bfx (h : Hdr) (d a b : VReg) (sx : Bool)
  | bfi (h : Hdr) (d a b c : VReg)
  | isetp (h : Hdr) (p : PReg) (a b : VReg) (pc : PReg) (cond : Cond) (u : Bool) (bop : Bop)
  | isetpi (h : Hdr) (p : PReg) (a : VReg) (imm : BitVec 24) (cond : Cond) (u : Bool)
  | iadd64 (h : Hdr) (d a b : VReg)
  | lea64 (h : Hdr) (d a b : VReg) (sx : Bool) (sh : BitVec 3)
  | iclamp (h : Hdr) (d a b c : VReg) (u : Bool)
  | idot4 (h : Hdr) (d a b c : VReg) (ua ub sat : Bool)
  -- floating point and conversion (R161-R166)
  | fadd (h : Hdr) (d a b : VReg) (rm : Rm) (nb : Bool)
  | faddi (h : Hdr) (d a : VReg) (imm : BitVec 32)
  | fmul (h : Hdr) (d a b : VReg) (rm : Rm)
  | fmuli (h : Hdr) (d a : VReg) (imm : BitVec 32)
  | ffma (h : Hdr) (d a b c : VReg) (rm : Rm) (np nc : Bool)
  | fmin (h : Hdr) (d a b : VReg)
  | fmax (h : Hdr) (d a b : VReg)
  | fsetp (h : Hdr) (p : PReg) (a b : VReg) (pc : PReg) (cond : Cond) (u : Bool) (bop : Bop)
  | frcp (h : Hdr) (d a : VReg)
  | frsq (h : Hdr) (d a : VReg)
  | fex2 (h : Hdr) (d a : VReg)
  | flg2 (h : Hdr) (d a : VReg)
  | fsin (h : Hdr) (d a : VReg)
  | fcos (h : Hdr) (d a : VReg)
  | frnd (h : Hdr) (d a : VReg) (rm : Rm)
  | fclass (h : Hdr) (d a : VReg)
  | hadd2 (h : Hdr) (d a b : VReg) (rm : Rm) (bf : Bool)
  | hmul2 (h : Hdr) (d a b : VReg) (rm : Rm) (bf : Bool)
  | hfma2 (h : Hdr) (d a b c : VReg) (rm : Rm) (bf : Bool)
  | hsetp2 (h : Hdr) (p : PReg) (a b : VReg) (pc : PReg) (cond : Cond) (u : Bool) (bop : Bop) (bf any : Bool)
  | cvtif (h : Hdr) (d a : VReg) (rm : Rm) (src : IFmt) (dst : FFmt)
  | cvtfi (h : Hdr) (d a : VReg) (rm : Rm) (src : FFmt) (dst : IFmt)
  | cvtff (h : Hdr) (d a : VReg) (rm : Rm) (src dst : FFmt)
  | cvtt (h : Hdr) (d a : VReg) (s : BitVec 6) (tf6 dec : Bool)
  | fscale (h : Hdr) (d a b : VReg) (rm : Rm)
  -- movement, predicates, special values (R167-R168)
  | mov (h : Hdr) (d a : VReg)
  | movi (h : Hdr) (d : VReg) (imm : BitVec 32)
  | sel (h : Hdr) (d a b : VReg) (pc : PReg)
  | s2v (h : Hdr) (d : VReg) (sel : BitVec 16)
  -- cross-lane (R169-R175)
  | lxch (h : Hdr) (d a b c : VReg) (mode : LxMode) (wl : BitVec 3)
  | pjoin (h : Hdr) (p pa : PReg) (b : VReg) (mode : PjMode)
  | pmask (h : Hdr) (d : VReg) (pa : PReg) (b : VReg)
  | leqm (h : Hdr) (d a b : VReg)
  | wscan (h : Hdr) (d a b : VReg) (op : WsOp) (excl : Bool) (ty : WsTy)
  | wred (h : Hdr) (d a b : VReg) (op : WsOp) (ty : WsTy)
  | plop (h : Hdr) (p pa pb pc : PReg) (tt : BitVec 8)
  | p2v (h : Hdr) (d : VReg)
  | v2p (h : Hdr) (a : VReg) (m : BitVec 7)
  | wsync (h : Hdr) (a : VReg)
  -- memory, atomics, remote (R260-R286)
  | ld (h : Hdr) (d a : VReg) (f : Flg) (m : MemF)
  | st (h : Hdr) (a b : VReg) (f : Flg) (m : MemF)
  | lds (h : Hdr) (d a : VReg) (f : Flg) (m : MemF)
  | sts (h : Hdr) (a b : VReg) (f : Flg) (m : MemF)
  | atom (h : Hdr) (d a b : VReg) (m : AtomF)
  | atoms (h : Hdr) (d a b : VReg) (m : AtomF)
  | red (h : Hdr) (a b : VReg) (m : AtomF)
  | acas (h : Hdr) (d a b : VReg) (m : AtomF)
  | rld (h : Hdr) (d a : VReg) (f : Flg) (m : MemF)
  | rst (h : Hdr) (a b : VReg) (f : Flg) (m : MemF)
  | ratom (h : Hdr) (d a b : VReg) (m : AtomF)
  | spop (h : Hdr) (d : VReg) (sx : Bool) (sz : Sz) (ring : BitVec 4)
  | pref (h : Hdr) (a : VReg) (l1 : Bool) (off : BitVec 14)
  | cctl (h : Hdr) (a : VReg) (op : CctlOp) (cls : BitVec 4) (off : BitVec 14)
  | xkick (h : Hdr) (d a : VReg) (cls : BitVec 4) (rel : Bool) (ring : BitVec 3)
  -- synchronisation (R332-R364)
  | binit (h : Hdr) (a b : VReg) (scope : Scope)
  | barv (h : Hdr) (d a : VReg) (w : Bool)
  | btx (h : Hdr) (a b : VReg)
  | bwait (h : Hdr) (a b : VReg)
  | btest (h : Hdr) (d a b : VReg)
  | dbar (h : Hdr) (level : Level) (id : BitVec 4)
  | fence (h : Hdr) (scope : Scope) (mask : BitVec 16)
  | waitc (h : Hdr) (eng : Eng) (n : BitVec 6)
  | poll (h : Hdr) (d a b : VReg) (m : PollF)
  | gate (h : Hdr) (a : VReg) (mask : BitVec 16)
  | qmap (h : Hdr) (d a : VReg) (prod : Bool) (b : BitVec 2)
  | qpush (h : Hdr) (d a : VReg) (cls : BitVec 4) (rel : Bool) (b : BitVec 2)
  | qclose (h : Hdr) (d : VReg) (b : BitVec 2)
  | role (h : Hdr) (r : BitVec 2)
  | trnew (h : Hdr) (d a b : VReg) (decl : BitVec 8)
  | trres (h : Hdr) (d a b : VReg)
  | trst (h : Hdr) (a b c : VReg) (off : BitVec 12) (sz : Sz)
  | trcommit (h : Hdr) (d a b c : VReg)
  | trlen (h : Hdr) (d a : VReg)
  | trwait (h : Hdr) (d a b : VReg)
  | trfork (h : Hdr) (d a b : VReg) (decl : BitVec 8)
  | trrel (h : Hdr) (d a : VReg)
  | launch (h : Hdr) (d a : VReg) (q : BitVec 6)
  | mile (h : Hdr) (a : VReg) (sz : Bool) (id : BitVec 8)
  -- control (R177-R179, R387-R389, R181)
  | bra (h : Hdr) (off : BitVec 32)
  | brx (h : Hdr) (a : VReg)
  | call (h : Hdr) (off : BitVec 32)
  | callx (h : Hdr) (a : VReg)
  | ret (h : Hdr) (a : VReg)
  | exit (h : Hdr)
  | snooze (h : Hdr) (n : BitVec 16)
  | nop (h : Hdr)
  | trap (h : Hdr) (code : BitVec 16)
  | bkpt (h : Hdr) (code : BitVec 16)
  | sysr (h : Hdr) (d : VReg) (hi : Bool) (num : BitVec 15)
  | sysw (h : Hdr) (a : VReg) (hi : Bool) (num : BitVec 15)
  | eret (h : Hdr)
  | crcw (h : Hdr) (d a b : VReg) (sz : CrcSz)
  -- decode outcomes that are rows of the table (R84, R88)
  | reservedOpcode (w : BitVec 64)
  | extEmulate (w : BitVec 64)
  -- thread-side events
  | snoozeExpire (t : TRef)
  | queueTake (t : TRef)
  | pollRetry (t : TRef)
  | spopPerform (core slot ring : Nat)
  | longResultWrite (t : TRef)
  -- S slot (R104, R185-R196, R215)
  | snop
  | sadd (g : SGuard) (d a b : SReg)
  | saddi (g : SGuard) (d a : SReg) (imm : BitVec 16)
  | ssub (g : SGuard) (d a b : SReg)
  | smul (g : SGuard) (d a b : SReg)
  | sand (g : SGuard) (d a b : SReg)
  | sor (g : SGuard) (d a b : SReg)
  | sxor (g : SGuard) (d a b : SReg)
  | sshl (g : SGuard) (d a b : SReg)
  | sshr (g : SGuard) (d a b : SReg)
  | ssar (g : SGuard) (d a b : SReg)
  | smov (g : SGuard) (d a : SReg)
  | smovi (g : SGuard) (d : SReg) (imm : BitVec 26)
  | smoviLong (g : SGuard) (d : SReg) (imm : BitVec 64)
  | scmp (g : SGuard) (d a b : SReg) (cond : SCond)
  | ssel (g : SGuard) (d a b c : SReg)
  | sld (g : SGuard) (d a : SReg) (off : BitVec 16)
  | sst (g : SGuard) (d a : SReg) (off : BitVec 16)
  | sbr (g : SGuard) (a : SReg) (off : BitVec 16)
  | sjmp (g : SGuard) (off : BitVec 26)
  | scall (g : SGuard) (d : SReg) (off : BitVec 26)
  | sret (g : SGuard) (a : SReg)
  | loop (g : SGuard) (lc : BitVec 3) (a : SReg) (stages : BitVec 4)
  | lbr (g : SGuard) (lc : BitVec 3) (off : BitVec 16)
  | pcfg (g : SGuard) (pt : BitVec 2) (a : SReg) (off : BitVec 16)
  | fmtw (g : SGuard) (e : BitVec 4) (a : SReg)
  | fmtwSel (g : SGuard) (lc : BitVec 3)
  | waite (g : SGuard) (eng : Eng) (n : BitVec 6)
  | sfence (g : SGuard) (scope : Scope) (mask : BitVec 16)
  | sysrd (g : SGuard) (d : SReg) (num : BitVec 16)
  | trapt (g : SGuard) (code : BitVec 16)
  | rgate (g : SGuard) (mask : BitVec 16)
  -- M slot (R105, R198-R204)
  | mnop
  | mnest (g : SGuard) (lvl : BitVec 3) (e a b c : SReg)
  | msrc (g : SGuard) (a b : Loc) (fa fb : FSel) (md : Option Loc)
  | macc (g : SGuard) (row : BitVec 11) (z : Bool)
  | mgo (g : SGuard) (rel : Bool)
  | mret (g : SGuard) (loc : Loc) (fmt : FSel) (rel : Bool)
  -- V slot (R106-R107, R205-R212)
  | vnop
  | vmov (g : SGuard) (d a : VOp)
  | vadd (g : SGuard) (d a b : VOp) (f : FSel)
  | vsub (g : SGuard) (d a b : VOp) (f : FSel)
  | vmul (g : SGuard) (d a b : VOp) (f : FSel)
  | vfma (g : SGuard) (d a b c : VOp) (f : FSel)
  | vmax (g : SGuard) (d a b : VOp) (f : FSel)
  | vmin (g : SGuard) (d a b : VOp) (f : FSel)
  | vexpd (g : SGuard) (d a b : VOp) (f : FSel)
  | vrcp (g : SGuard) (d a : VOp) (f : FSel)
  | vcvt (g : SGuard) (d a : VOp) (fd fs : FSel) (rm : Rm)
  | vred (g : SGuard) (d a : VOp) (op : VrOp) (f : FSel)
  | vscan (g : SGuard) (d a : VOp) (op : VrOp) (excl : Bool) (f : FSel)
  | vcmp (g : SGuard) (d a b : VOp) (cond : Cond) (f : FSel)
  | vmsk (g : SGuard) (d a : VOp) (s : SReg) (f : FSel)
  | vsel (g : SGuard) (d a b c : VOp) (f : FSel)
  | vtopk (g : SGuard) (d a : VOp) (k : BitVec 7) (nv : BitVec 2) (f : FSel)
  | vldix (g : SGuard) (ix : BitVec 2) (a : VOp) (f : FSel)
  | vsacc (g : SGuard) (d a b : VOp) (f : FSel)
  -- T slot (R108, R213)
  | tnop
  | trn (g : SGuard) (d s : THandle)
  | trnc (g : SGuard) (d s : THandle) (f : FSel)
  -- C slot (R109, R290-R301)
  | cnop
  | cld (g : SGuard) (c : CFld) (m : CMod)
  | cst (g : SGuard) (c : CFld) (m : CMod)
  | cgat (g : SGuard) (c : CFld) (ix : BitVec 2) (first nm1 : BitVec 6) (bar : Bool)
  | cpre (g : SGuard) (c : CFld) (m : CMod)
  | cmc (g : SGuard) (c : CFld) (m : CMod)
  | csum (g : SGuard) (c : CFld) (m : CMod)
  | cring (g : SGuard) (ring : BitVec 4) (sc : SReg)
  -- X slot (R110, R214)
  | xnop
  | xs2t (g : SGuard) (w : BitVec 4) (s : SReg)
  | xt2s (g : SGuard) (s : SReg) (w : BitVec 4)
  -- tile-side and engine events
  | bundleDecodeTrap (b : BitVec 256)
  | tileResultLand (core slot : Nat)
  | portVectorArrive (core slot port : Nat)
  | tileStallFreeze (core slot : Nat)
  | passStart (quad : Nat)
  | passRetire (quad : Nat)
  | mretPerform (core slot : Nat)
  | copyCmdStart (core : Nat)
  | ringReserve (core slot ring : Nat)
  | ringArrive (core slot ring : Nat)
  | chunkCounted (core id : Nat)
  | copyCmdComplete (core id : Nat)
  | xformRequestStart (ctx ring : Nat)
  | xformComplete (ctx ring : Nat)
  | remotePerform (n : Nat)
  | remoteReply (tag cause data : Nat)
  -- translation, faults, L2
  | pageWalk (quarter ctx : Nat) (va : BitVec 64)
  | faultReport (ctx : Nat)
  | l2Evict (line : Nat)
  | impreciseDelivery (t : TRef)
  | convergenceStall (core slot : Nat)
  -- launch queues and admission (R32-R48)
  | lqDoorbell (ctx q : Nat) (v : BitVec 64)
  | lqEnable (ctx q : Nat) (v : BitVec 64)
  | lqReset (ctx q : Nat)
  | lqResetComplete (ctx q : Nat)
  | launchRecordRead (ctx q : Nat)
  | opLaunch (ctx q : Nat)
  | opRegister (ctx q : Nat)
  | opUnregister (ctx q : Nat)
  | opMarker (ctx q : Nat)
  | admissionRetry (ctx q : Nat)
  | stagingClaimReady (grid : Nat)
  -- dispatcher (R55-R74, R404-R410, R438-R442)
  | placeBlock (grid : Nat)
  | rowSpill (core : Nat)
  | milestoneCommit (core slot : Nat)
  | parkBlock (core slot : Nat)
  | sliceEnd (core slot : Nat)
  | preempt (core slot : Nat)
  | restoreBlock (grid blk : Nat)
  | blockEnd (core slot : Nat)
  | gridRetire (grid : Nat)
  | gridAbort (grid : Nat)
  | dbarFabricArrival (job jtag id dev : Nat)
  -- fault buffer, replay, invalidation (R255-R259)
  | fbheadWrite (ctx : Nat) (v : BitVec 64)
  | fbEnable (ctx : Nat) (v : BitVec 64)
  | replayAll (ctx : Nat) (v : BitVec 64)
  | fbcancel (ctx : Nat) (v : BitVec 64)
  | tlbInvalidateRange (ctx : Nat)
  | tlbInvalidateContext (ctx : Nat)
  | tlbInvalidateDone (ctx : Nat)
  | xrEnable (ctx ring : Nat) (v : BitVec 64)
  | fspill (ctx : Nat) (v : BitVec 64)
  -- debug (R411-R429)
  | sliceWatchLatch
  | roadblockFlit (link wave job origin : Nat) (cause aux addr : BitVec 64)
  | heldFlit (link : Nat) (f : Flit)
  | resume (ctx wave : Nat)
  | resumeFlit (link wave job : Nat)
  | step (ctx : Nat)
  | trigger (ctx : Nat)
  | traceSample (core : Nat)
  | dumpRequest (ctx : Nat)
  -- host and device boundary (R445-R466)
  | audheadWrite (v : BitVec 64)
  | profheadWrite (ctx : Nat) (v : BitVec 64)
  | hostBarAccess (fn : Nat) (write : Bool) (addr : Nat) (data : List Byte)
  | vfpartWrite (f : Nat) (v : BitVec 64)
  | vfpartMoveDone (f : Nat)
  | atsInvalidate (pa len : Nat)
  | atsInvalidateComplete
  | linkDown (l : Nat)
  | linkTrained (l lat : Nat) (degraded : Bool)
  | flitReceive (l : Nat) (f : Flit) (crcOk : Bool)
  | supplyDroop (domain : Nat)
  | clkctlWrite (v : BitVec 64)
  | clockChange
  | lockLost
  | ckptHalt
  | ckptContinue
  | ckptRestore
  | ckptDiscard
  | checkpointCut
  | checkpointComplete (us : Nat)
  | mainPowerLoss
  | hostReset
  | boot
  | recoveryImageWrite (img : List Byte)
  | spdmMeasurement (index : Nat)
  | softError (level : Nat) (corrected : Bool) (pa : Nat)
  | serrcntClear (k : Nat)
  | registerWrite (fn off : Nat) (v : BitVec 64)
  | droopPassed (domain : Nat)
  | powerLimit
  | restoreComplete
  deriving DecidableEq, Repr

end Sys2Proof
end

