-- ==== Sys2Proof/WellFormed.lean ====
section
/-! DEFINITION. Which terms of Instr an encoding can stand for (R77-R84, R102-R111, R260-R263, R290-R292, R332): the
register fields of each instruction with their kinds, its lookahead class, and the check of every field. -/
namespace Sys2Proof

/-- A register field of a thread instruction (R77, R83): first register, registers covered, destination or source. -/
structure RField where
  reg : VReg
  n : Nat
  dst : Bool
  deriving DecidableEq, Repr

/-- A predicate field (R77, R83). -/
structure PField where
  p : PReg
  dst : Bool
  deriving DecidableEq, Repr

/-- Bytes of an access size (R80). -/
def Sz.bytes : Sz → Nat | .b8 => 1 | .b16 => 2 | .b32 => 4 | .b64 => 8 | .b128 => 16
/-- Registers of a field of kind by SZ (R263). -/
def Sz.regs : Sz → Nat | .b8 => 1 | .b16 => 1 | .b32 => 1 | .b64 => 2 | .b128 => 4

/-- A source field. -/
def rs (r : VReg) (n : Nat) : RField := ⟨r, n, false⟩
/-- A destination field. -/
def rd (r : VReg) (n : Nat) : RField := ⟨r, n, true⟩

/-- A result field by SZ: v255 is legal at every size, and discards the result (R263; R77's list of pairs leaves it out: log 135). -/
def rz (r : VReg) (z : Sz) : RField := if r == 255#8 then rd r 1 else rd r z.regs

/-- The register fields of a thread instruction, destination first, then SA, SB, SC (R83, R260, R332). CALL and CALLX
name v250:v251 (R177). -/
def Instr.fields : Instr → List RField
  | .iadd _ d a b _ => [rd d 1, rs a 1, rs b 1]
  | .iaddi _ d a _ => [rd d 1, rs a 1]
  | .isub _ d a b _ => [rd d 1, rs a 1, rs b 1]
  | .imul _ d a b => [rd d 1, rs a 1, rs b 1]
  | .imuli _ d a _ => [rd d 1, rs a 1]
  | .imulh _ d a b _ => [rd d 1, rs a 1, rs b 1]
  | .imad _ d a b c => [rd d 1, rs a 1, rs b 1, rs c 1]
  | .imadw _ d a b c _ => [rd d 2, rs a 1, rs b 1, rs c 2]
  | .imin _ d a b _ => [rd d 1, rs a 1, rs b 1]
  | .imax _ d a b _ => [rd d 1, rs a 1, rs b 1]
  | .iabs _ d a _ => [rd d 1, rs a 1]
  | .ineg _ d a _ => [rd d 1, rs a 1]
  | .tlog _ d a b c _ => [rd d 1, rs a 1, rs b 1, rs c 1]
  | .tlogi _ d a _ _ => [rd d 1, rs a 1]
  | .shl _ d a b => [rd d 1, rs a 1, rs b 1]
  | .shli _ d a _ => [rd d 1, rs a 1]
  | .shr _ d a b => [rd d 1, rs a 1, rs b 1]
  | .shri _ d a _ => [rd d 1, rs a 1]
  | .sar _ d a b => [rd d 1, rs a 1, rs b 1]
  | .sari _ d a _ => [rd d 1, rs a 1]
  | .fshf _ d a b c _ => [rd d 1, rs a 1, rs b 1, rs c 1]
  | .popc _ d a => [rd d 1, rs a 1]
  | .clz _ d a => [rd d 1, rs a 1]
  | .brev _ d a => [rd d 1, rs a 1]
  | .bfx _ d a b _ => [rd d 1, rs a 1, rs b 1]
  | .bfi _ d a b c => [rd d 1, rs a 1, rs b 1, rs c 1]
  | .isetp _ _ a b _ _ _ _ => [rs a 1, rs b 1]
  | .isetpi _ _ a _ _ _ => [rs a 1]
  | .iadd64 _ d a b => [rd d 2, rs a 2, rs b 2]
  | .lea64 _ d a b _ _ => [rd d 2, rs a 2, rs b 1]
  | .iclamp _ d a b c _ => [rd d 1, rs a 1, rs b 1, rs c 1]
  | .idot4 _ d a b c _ _ _ => [rd d 1, rs a 1, rs b 1, rs c 1]
  | .fadd _ d a b _ _ => [rd d 1, rs a 1, rs b 1]
  | .faddi _ d a _ => [rd d 1, rs a 1]
  | .fmul _ d a b _ => [rd d 1, rs a 1, rs b 1]
  | .fmuli _ d a _ => [rd d 1, rs a 1]
  | .ffma _ d a b c _ _ _ => [rd d 1, rs a 1, rs b 1, rs c 1]
  | .fmin _ d a b => [rd d 1, rs a 1, rs b 1]
  | .fmax _ d a b => [rd d 1, rs a 1, rs b 1]
  | .fsetp _ _ a b _ _ _ _ => [rs a 1, rs b 1]
  | .frcp _ d a => [rd d 1, rs a 1]
  | .frsq _ d a => [rd d 1, rs a 1]
  | .fex2 _ d a => [rd d 1, rs a 1]
  | .flg2 _ d a => [rd d 1, rs a 1]
  | .fsin _ d a => [rd d 1, rs a 1]
  | .fcos _ d a => [rd d 1, rs a 1]
  | .frnd _ d a _ => [rd d 1, rs a 1]
  | .fclass _ d a => [rd d 1, rs a 1]
  | .hadd2 _ d a b _ _ => [rd d 1, rs a 1, rs b 1]
  | .hmul2 _ d a b _ _ => [rd d 1, rs a 1, rs b 1]
  | .hfma2 _ d a b c _ _ => [rd d 1, rs a 1, rs b 1, rs c 1]
  | .hsetp2 _ _ a b _ _ _ _ _ _ => [rs a 1, rs b 1]
  | .cvtif _ d a _ _ _ => [rd d 1, rs a 1]
  | .cvtfi _ d a _ _ _ => [rd d 1, rs a 1]
  | .cvtff _ d a _ _ _ => [rd d 1, rs a 1]
  | .cvtt _ d a _ _ _ => [rd d 1, rs a 1]
  | .fscale _ d a b _ => [rd d 1, rs a 1, rs b 1]
  | .mov _ d a => [rd d 1, rs a 1]
  | .movi _ d _ => [rd d 1]
  | .sel _ d a b _ => [rd d 1, rs a 1, rs b 1]
  | .s2v _ d _ => [rd d 1]
  | .lxch _ d a b c _ _ => [rd d 1, rs a 1, rs b 1, rs c 1]
  | .pjoin _ _ _ b _ => [rs b 1]
  | .pmask _ d _ b => [rd d 1, rs b 1]
  | .leqm _ d a b => [rd d 1, rs a 1, rs b 1]
  | .wscan _ d a b _ _ _ => [rd d 1, rs a 1, rs b 1]
  | .wred _ d a b _ _ => [rd d 1, rs a 1, rs b 1]
  | .p2v _ d => [rd d 1]
  | .v2p _ a _ => [rs a 1]
  | .wsync _ a => [rs a 1]
  | .ld _ d a _ m => [rz d m.sz, rs a 2]
  | .st _ a b _ m => [rs a 2, rs b m.sz.regs]
  | .lds _ d a _ m => [rz d m.sz, rs a 1]
  | .sts _ a b _ m => [rs a 1, rs b m.sz.regs]
  | .atom _ d a b m => [rz d m.sz, rs a 2, rs b m.sz.regs]
  | .atoms _ d a b m => [rz d m.sz, rs a 1, rs b m.sz.regs]
  | .red _ a b m => [rs a 2, rs b m.sz.regs]
  | .acas _ d a b m => [rz d m.sz, rs a 2, rs b (2 * m.sz.regs)]
  | .rld _ d a _ m => [rz d m.sz, rs a 4]
  | .rst _ a b _ m => [rs a 4, rs b m.sz.regs]
  | .ratom _ d a b m => [rz d m.sz, rs a 4, rs b m.sz.regs]
  | .spop _ d _ sz _ => [rz d sz]
  | .pref _ a _ _ => [rs a 2]
  | .cctl _ a _ _ _ => [rs a 2]
  | .xkick _ d a _ _ _ => [rd d 1, rs a 2]
  | .binit _ a b _ => [rs a 2, rs b 1]
  | .barv _ d a _ => [rd d 1, rs a 2]
  | .btx _ a b => [rs a 2, rs b 2]
  | .bwait _ a b => [rs a 2, rs b 1]
  | .btest _ d a b => [rd d 1, rs a 2, rs b 1]
  | .poll _ d a b m => [rz d m.sz, rs a 2, rs b m.sz.regs]
  | .gate _ a _ => [rs a 1]
  | .qmap _ d a prod _ => if prod then [rs a 2] else [rd d 1, rs a 2]
  | .qpush _ d a _ _ _ => [rd d 1, rs a 1]
  | .qclose _ d _ => [rd d 1]
  | .trnew _ d a b _ => [rd d 1, rs a 2, rs b 2]
  | .trres _ d a b => [rd d 2, rs a 2, rs b 1]
  | .trst _ a b c _ sz => [rs a 2, rs b 2, rs c sz.regs]
  | .trcommit _ d a b c => [rd d 2, rs a 2, rs b 2, rs c 1]
  | .trlen _ d a => [rd d 2, rs a 2]
  | .trwait _ d a b => [rd d 2, rs a 2, rs b 2]
  | .trfork _ d a b _ => [rs d 4, rs a 2, rs b 2]
  | .trrel _ d a => [rd d 1, rs a 2]
  | .launch _ d a _ => [rd d 2, rs a 2]
  | .mile _ a sz _ => if sz then [rs a 1] else []
  | .brx _ a => [rs a 2]
  | .call _ _ => [rd 250 2]
  | .callx _ a => [rd 250 2, rs a 2]
  | .ret _ a => [rs a 2]
  | .sysr _ d _ _ => [rd d 1]
  | .sysw _ a _ _ => [rs a 1]
  | .crcw _ d a b _ => [rd d 1, rs a 1, rs b 1]
  | _ => []

/-- The predicate fields of a thread instruction, the guard apart (R83). -/
def Instr.preds : Instr → List PField
  | .isetp _ p _ _ pc _ _ _ => [⟨p, true⟩, ⟨pc, false⟩]
  | .isetpi _ p _ _ _ _ => [⟨p, true⟩]
  | .fsetp _ p _ _ pc _ _ _ => [⟨p, true⟩, ⟨pc, false⟩]
  | .hsetp2 _ p _ _ pc _ _ _ _ _ => [⟨p, true⟩, ⟨pc, false⟩]
  | .sel _ _ _ _ pc => [⟨pc, false⟩]
  | .pjoin _ p pa _ _ => [⟨p, true⟩, ⟨pa, false⟩]
  | .pmask _ _ pa _ => [⟨pa, false⟩]
  | .plop _ p pa pb pc _ => [⟨p, true⟩, ⟨pa, false⟩, ⟨pb, false⟩, ⟨pc, false⟩]
  | _ => []

/-- The lookahead and guard of a thread instruction (R75). -/
def Instr.hdr : Instr → Option Hdr
  | .iadd h _ _ _ _ => some h
  | .iaddi h _ _ _ => some h
  | .isub h _ _ _ _ => some h
  | .imul h _ _ _ => some h
  | .imuli h _ _ _ => some h
  | .imulh h _ _ _ _ => some h
  | .imad h _ _ _ _ => some h
  | .imadw h _ _ _ _ _ => some h
  | .imin h _ _ _ _ => some h
  | .imax h _ _ _ _ => some h
  | .iabs h _ _ _ => some h
  | .ineg h _ _ _ => some h
  | .tlog h _ _ _ _ _ => some h
  | .tlogi h _ _ _ _ => some h
  | .shl h _ _ _ => some h
  | .shli h _ _ _ => some h
  | .shr h _ _ _ => some h
  | .shri h _ _ _ => some h
  | .sar h _ _ _ => some h
  | .sari h _ _ _ => some h
  | .fshf h _ _ _ _ _ => some h
  | .popc h _ _ => some h
  | .clz h _ _ => some h
  | .brev h _ _ => some h
  | .bfx h _ _ _ _ => some h
  | .bfi h _ _ _ _ => some h
  | .isetp h _ _ _ _ _ _ _ => some h
  | .isetpi h _ _ _ _ _ => some h
  | .iadd64 h _ _ _ => some h
  | .lea64 h _ _ _ _ _ => some h
  | .iclamp h _ _ _ _ _ => some h
  | .idot4 h _ _ _ _ _ _ _ => some h
  | .fadd h _ _ _ _ _ => some h
  | .faddi h _ _ _ => some h
  | .fmul h _ _ _ _ => some h
  | .fmuli h _ _ _ => some h
  | .ffma h _ _ _ _ _ _ _ => some h
  | .fmin h _ _ _ => some h
  | .fmax h _ _ _ => some h
  | .fsetp h _ _ _ _ _ _ _ => some h
  | .frcp h _ _ => some h
  | .frsq h _ _ => some h
  | .fex2 h _ _ => some h
  | .flg2 h _ _ => some h
  | .fsin h _ _ => some h
  | .fcos h _ _ => some h
  | .frnd h _ _ _ => some h
  | .fclass h _ _ => some h
  | .hadd2 h _ _ _ _ _ => some h
  | .hmul2 h _ _ _ _ _ => some h
  | .hfma2 h _ _ _ _ _ _ => some h
  | .hsetp2 h _ _ _ _ _ _ _ _ _ => some h
  | .cvtif h _ _ _ _ _ => some h
  | .cvtfi h _ _ _ _ _ => some h
  | .cvtff h _ _ _ _ _ => some h
  | .cvtt h _ _ _ _ _ => some h
  | .fscale h _ _ _ _ => some h
  | .mov h _ _ => some h
  | .movi h _ _ => some h
  | .sel h _ _ _ _ => some h
  | .s2v h _ _ => some h
  | .lxch h _ _ _ _ _ _ => some h
  | .pjoin h _ _ _ _ => some h
  | .pmask h _ _ _ => some h
  | .leqm h _ _ _ => some h
  | .wscan h _ _ _ _ _ _ => some h
  | .wred h _ _ _ _ _ => some h
  | .plop h _ _ _ _ _ => some h
  | .p2v h _ => some h
  | .v2p h _ _ => some h
  | .wsync h _ => some h
  | .ld h _ _ _ _ => some h
  | .st h _ _ _ _ => some h
  | .lds h _ _ _ _ => some h
  | .sts h _ _ _ _ => some h
  | .atom h _ _ _ _ => some h
  | .atoms h _ _ _ _ => some h
  | .red h _ _ _ => some h
  | .acas h _ _ _ _ => some h
  | .rld h _ _ _ _ => some h
  | .rst h _ _ _ _ => some h
  | .ratom h _ _ _ _ => some h
  | .spop h _ _ _ _ => some h
  | .pref h _ _ _ => some h
  | .cctl h _ _ _ _ => some h
  | .xkick h _ _ _ _ _ => some h
  | .binit h _ _ _ => some h
  | .barv h _ _ _ => some h
  | .btx h _ _ => some h
  | .bwait h _ _ => some h
  | .btest h _ _ _ => some h
  | .dbar h _ _ => some h
  | .fence h _ _ => some h
  | .waitc h _ _ => some h
  | .poll h _ _ _ _ => some h
  | .gate h _ _ => some h
  | .qmap h _ _ _ _ => some h
  | .qpush h _ _ _ _ _ => some h
  | .qclose h _ _ => some h
  | .role h _ => some h
  | .trnew h _ _ _ _ => some h
  | .trres h _ _ _ => some h
  | .trst h _ _ _ _ _ => some h
  | .trcommit h _ _ _ _ => some h
  | .trlen h _ _ => some h
  | .trwait h _ _ _ => some h
  | .trfork h _ _ _ _ => some h
  | .trrel h _ _ => some h
  | .launch h _ _ _ => some h
  | .mile h _ _ _ => some h
  | .bra h _ => some h
  | .brx h _ => some h
  | .call h _ => some h
  | .callx h _ => some h
  | .ret h _ => some h
  | .exit h => some h
  | .snooze h _ => some h
  | .nop h => some h
  | .trap h _ => some h
  | .bkpt h _ => some h
  | .sysr h _ _ _ => some h
  | .sysw h _ _ _ => some h
  | .eret h => some h
  | .crcw h _ _ _ _ => some h
  | _ => none

/-- Lookahead classes (R82). -/
inductive LaClass | short | long | closing
  deriving DecidableEq, Repr

/-- The lookahead class of an instruction (R82); steps that are no thread opcode count as short. -/
def Instr.laClass : Instr → LaClass
  | .frcp _ _ _ => .long
  | .frsq _ _ _ => .long
  | .fex2 _ _ _ => .long
  | .flg2 _ _ _ => .long
  | .fsin _ _ _ => .long
  | .fcos _ _ _ => .long
  | .wscan _ _ _ _ _ _ _ => .long
  | .wred _ _ _ _ _ _ => .long
  | .wsync _ _ => .closing
  | .ld _ _ _ _ _ => .long
  | .st _ _ _ _ _ => .long
  | .lds _ _ _ _ _ => .long
  | .sts _ _ _ _ _ => .long
  | .atom _ _ _ _ _ => .long
  | .atoms _ _ _ _ _ => .long
  | .red _ _ _ _ => .long
  | .acas _ _ _ _ _ => .long
  | .rld _ _ _ _ _ => .long
  | .rst _ _ _ _ _ => .long
  | .ratom _ _ _ _ _ => .long
  | .spop _ _ _ _ _ => .long
  | .pref _ _ _ _ => .long
  | .cctl _ _ _ _ _ => .long
  | .xkick _ _ _ _ _ _ => .long
  | .binit _ _ _ _ => .long
  | .barv _ _ _ _ => .long
  | .btx _ _ _ => .long
  | .bwait _ _ _ => .closing
  | .btest _ _ _ _ => .long
  | .dbar _ _ _ => .closing
  | .fence _ _ _ => .closing
  | .waitc _ _ _ => .closing
  | .poll _ _ _ _ _ => .closing
  | .gate _ _ _ => .closing
  | .qpush _ _ _ _ _ _ => .long
  | .qclose _ _ _ => .long
  | .role _ _ => .closing
  | .trnew _ _ _ _ _ => .long
  | .trres _ _ _ _ => .long
  | .trst _ _ _ _ _ _ => .long
  | .trcommit _ _ _ _ _ => .long
  | .trlen _ _ _ => .long
  | .trwait _ _ _ _ => .closing
  | .trfork _ _ _ _ _ => .long
  | .trrel _ _ _ => .long
  | .launch _ _ _ _ => .long
  | .mile _ _ _ _ => .closing
  | .brx _ _ => .closing
  | .call _ _ => .closing
  | .callx _ _ => .closing
  | .ret _ _ => .closing
  | .exit _ => .closing
  | .trap _ _ => .closing
  | .bkpt _ _ => .closing
  | .sysr _ _ _ _ => .closing
  | .sysw _ _ _ _ => .closing
  | .eret _ => .closing
  | _ => .short

/-- A V2 or V4 field is aligned and within v0-v253 or v0-v251 (R77). -/
def RField.ok (f : RField) : Bool :=
  match f.n with
  | 2 => f.reg.toNat % 2 == 0 && decide (f.reg.toNat ≤ 252)
  | 4 => f.reg.toNat % 4 == 0 && decide (f.reg.toNat ≤ 248)
  | _ => true

/-- Check 2 and the LA part of check 4 of R84. -/
def Instr.hdrOk (i : Instr) : Bool :=
  match i.hdr with
  | none => true
  | some h => !(h.pn && h.pg == 7#3) && (h.la == 0#4 || i.laClass == .long)

/-- A number that SYSR and SYSW accept (R390, R411). -/
def sysDefined (n : Nat) : Bool :=
  n == 0x10 || n == 0x11 || n == 0x18 || n == 0x20 || (0x30 ≤ n && n ≤ 0x32) || (0x40 ≤ n && n ≤ 0x47) ||
  (0x120 ≤ n && n ≤ 0x13F) || (0x200 ≤ n && n ≤ 0x217) || (0x220 ≤ n && n ≤ 0x225) || n == 0x240 || n == 0x241 ||
  (0x250 ≤ n && n ≤ 0x262) || (0x400 ≤ n && n ≤ 0x41F)

/-- A number that SYSRD accepts (R195). -/
def sysrdDefined (n : Nat) : Bool :=
  sysDefined n || (0x100 ≤ n && n ≤ 0x105) || n == 0x108 || n == 0x110

/-- An atomic size and type that R260 and R262 accept. -/
def AtomF.ok (m : AtomF) : Bool :=
  (m.sz == .b32 || m.sz == .b64) && m.scope != .job &&
  match m.ty with
  | .unsigned => true
  | .signed => m.op == .min || m.op == .max
  | .fp32 => (m.op == .add || m.op == .min || m.op == .max) && m.sz == .b32

/-- SX stands only on an 8-bit or 16-bit access (R261, R281). -/
def sxOk (sx : Bool) (sz : Sz) : Bool := !sx || sz == .b8 || sz == .b16

/-- A destination vector operand (R106). -/
def VOp.isDst : VOp → Bool | .w _ => true | .pt _ => true | .wz => true | _ => false
/-- A source vector operand without a literal (R106). -/
def VOp.isSrc : VOp → Bool | .w _ => true | .pt _ => true | .wz => true | _ => false
/-- A VB operand of an opcode that takes a literal (R100). -/
def VOp.isSrcB : VOp → Bool | .ix _ => false | _ => true
/-- FP32, INT32 or the format table (R107; log 15). -/
def FSel.fi : FSel → Bool | .fmt .fp32 => true | .fmt .int32 => true | .table => true | _ => false
/-- FP32 or the format table (R107; log 15). -/
def FSel.fp : FSel → Bool | .fmt .fp32 => true | .table => true | _ => false
/-- INT32 or the format table (R107; log 15). -/
def FSel.it : FSel → Bool | .fmt .int32 => true | .table => true | _ => false
/-- A destination format of R206, R203 and R213. -/
def FSel.conv : FSel → Bool | .fmt .e8 => false | .fmt .bsw => false | _ => true
/-- A source format of R206. -/
def FSel.src : FSel → Bool | .fmt .bsw => false | _ => true

/-- Operation classes of the matrix engine (R150). -/
inductive MClass | f8 | i8 | f16 | f32
  deriving DecidableEq, Repr

/-- The class of a pair of formats, none where R150 has no such pair. -/
def pairClass (a b : Fmt) : Option MClass :=
  match a, b with
  | .fp32, .fp32 => some .f32
  | .int8, .int8 => some .i8 | .int8, .uint8 => some .i8 | .uint8, .int8 => some .i8 | .uint8, .uint8 => some .i8
  | .tf8, .tf8 => some .f8 | .tf8, .tf6 => some .f8 | .tf6, .tf8 => some .f8 | .tf6, .tf6 => some .f8
  | .fp16, .fp16 => some .f16 | .fp16, .bf16 => some .f16 | .bf16, .fp16 => some .f16 | .bf16, .bf16 => some .f16
  | .fp16, .tf8 => some .f16 | .fp16, .tf6 => some .f16 | .bf16, .tf8 => some .f16 | .bf16, .tf6 => some .f16
  | .tf8, .fp16 => some .f16 | .tf8, .bf16 => some .f16 | .tf6, .fp16 => some .f16 | .tf6, .bf16 => some .f16
  | _, _ => none

/-- A format that stands in some pair of R150. -/
def Fmt.operand : Fmt → Bool | .int32 => false | .e8 => false | .bsw => false | _ => true

/-- MSRC's explicit formats and sparsity (R200). -/
def msrcOk (fa fb : FSel) (sp : Bool) : Bool :=
  match fa, fb with
  | .fmt a, .fmt b =>
    match pairClass a b with
    | none => false
    | some c => !(sp && c == .f32)
  | .fmt a, .table => a.operand && !(sp && a == .fp32)
  | .table, .fmt b => b.operand && !(sp && b == .fp32)
  | .table, .table => true

/-- Ring locations (R102). -/
def Loc.isRing : Loc → Bool | .ring _ => true | .tile _ => false

/-- XF, PL and MID (R291): a bit-sliced target of W planes, at most W fetched. -/
def CMod.xfOk (m : CMod) : Bool :=
  match m.xf with
  | none => m.pl == 0#4 && !m.mid
  | some .tf6 => decide (m.pl.toNat + 1 ≤ 6)
  | some .tf8 => decide (m.pl.toNat + 1 ≤ 8)
  | some .int8 => decide (m.pl.toNat + 1 ≤ 8)
  | some .uint8 => decide (m.pl.toNat + 1 ≤ 8)
  | some _ => false

/-- Scalars of a coordinate group after its base ones (R292), one per flag set. -/
def CMod.extra (m : CMod) : Nat := b2n m.side + b2n m.dside + b2n m.bar + b2n m.ver

/-- The group of n scalars from c stays within s31 (R292). -/
def groupOk (c : SReg) (n : Nat) : Bool := decide (c.toNat + n ≤ 32)

/-- No flag of CMC alone is set. -/
def CMod.shortForm (m : CMod) : Bool := !m.dside && m.tens2 == 0#10

/-- LOC is unused (R290). -/
def CFld.noLoc (c : CFld) : Bool := c.loc == .ring 0#4

/-- The opcode of a 64-bit word (R75). -/
def opcOf (w : BitVec 64) : Nat := (w.extractLsb' 56 8).toNat

/-- A reserved opcode (R82). -/
def opcReserved (o : Nat) : Bool :=
  (0x39 ≤ o && o ≤ 0x3F) || (0x4E ≤ o && o ≤ 0x5F) || (0x6F ≤ o && o ≤ 0x7F) || (0x98 ≤ o && o ≤ 0x9F) ||
  (0xAD ≤ o && o ≤ 0xBF) || (0xE0 ≤ o && o ≤ 0xFF)

/-- An extension opcode that FEAT[1] shows as unimplemented (R88, R89). -/
def opcExt (o : Nat) : Bool := 0xC0 ≤ o && o ≤ 0xDF && !bit Config.feat1 (o - 0xC0)

/-- The fields of each instruction beyond register kinds and lookahead. -/
def Instr.fieldsOk : Instr → Bool
  | .s2v _ _ n => decide (n.toNat ≤ 0x1B)
  | .lxch _ _ _ _ _ _ wl => decide (wl.toNat ≤ 5)
  | .ld _ _ _ f m => !f.rel && sxOk f.sx m.sz && m.scope != .job
  | .st _ _ _ f m => !f.acq && !f.sx && m.scope != .job
  | .lds _ _ _ f m => !f.acq && !f.rel && f.ch == .dflt && sxOk f.sx m.sz && m.scope == .blk
  | .sts _ _ _ f m => !f.acq && !f.rel && f.ch == .dflt && !f.sx && m.scope == .blk
  | .atom _ _ _ _ m => m.ok
  | .atoms _ _ _ _ m => m.ok && m.scope == .blk && !m.acq && !m.rel
  | .red _ _ _ m => m.ok && !m.acq
  | .acas _ _ _ _ m => m.ok && m.op == .add && m.ty == .unsigned
  | .rld _ _ _ f m => !f.rel && f.ch == .dflt && sxOk f.sx m.sz && m.scope == .blk
  | .rst _ _ _ f m => !f.acq && !f.sx && f.ch == .dflt && m.scope == .blk
  | .ratom _ _ _ _ m => m.ok && m.scope == .blk
  | .spop _ _ sx sz _ => sxOk sx sz
  | .binit _ _ _ sc => sc != .job
  | .poll _ _ _ _ m => (m.sz == .b32 || m.sz == .b64) && m.scope != .job
  | .qmap _ d _ prod _ => !prod || d == 0#8
  | .trst _ _ _ _ _ sz => sz == .b32 || sz == .b64 || sz == .b128
  | .mile _ a sz id => (sz || a == 0#8) && id != 0#8
  | .sysr _ _ _ n => sysDefined n.toNat
  | .sysw _ _ _ n => sysDefined n.toNat
  | .reservedOpcode w => opcReserved (opcOf w)
  | .extEmulate w => opcExt (opcOf w) && !(w.extractLsb' 48 4 == 0xF#4)
  | .sld _ _ _ off => off.extractLsb' 0 3 == 0#3
  | .sst _ _ _ off => off.extractLsb' 0 3 == 0#3
  | .pcfg _ _ _ off => off.extractLsb' 0 6 == 0#6
  | .loop _ lc _ n => decide (lc.toNat ≤ 5) && decide (n.toNat ≤ 8)
  | .lbr _ lc _ => decide (lc.toNat ≤ 5)
  | .fmtwSel _ lc => decide (lc.toNat ≤ 5)
  | .sysrd _ _ n => sysrdDefined n.toNat
  | .mnest _ l _ _ _ _ => decide (l.toNat ≤ 5)
  | .msrc _ _ _ fa fb md => msrcOk fa fb md.isSome
  | .mret _ _ f _ => f.conv
  | .vmov _ d a => d.isDst && a.isSrc
  | .vadd _ d a b f => d.isDst && a.isSrc && b.isSrcB && f.fi
  | .vsub _ d a b f => d.isDst && a.isSrc && b.isSrcB && f.fi
  | .vmul _ d a b f => d.isDst && a.isSrc && b.isSrcB && f.fi
  | .vfma _ d a b c f => d.isDst && a.isSrc && b.isSrcB && c.isSrc && f.fp
  | .vmax _ d a b f => d.isDst && a.isSrc && b.isSrcB && f.fi
  | .vmin _ d a b f => d.isDst && a.isSrc && b.isSrcB && f.fi
  | .vexpd _ d a b f => d.isDst && a.isSrc && b.isSrc && f.fp
  | .vrcp _ d a f => d.isDst && a.isSrc && f.fp
  | .vcvt _ d a fd fs _ => d.isDst && a.isSrc && fd.conv && fs.src
  | .vred _ d a _ f => d.isDst && a.isSrc && f.fi
  | .vscan _ d a _ _ f => d.isDst && a.isSrc && f.fi
  | .vcmp _ d a b _ f => d.isDst && a.isSrc && b.isSrcB && f.fi
  | .vmsk _ d a _ f => d.isDst && a.isSrc && f.fp
  | .vsel _ d a b c f => d.isDst && a.isSrc && b.isSrcB && c.isSrc && f.fi
  | .vtopk _ d a k nv f => d.isDst && decide (1 ≤ k.toNat) && decide (k.toNat ≤ 64) && f.fp &&
      match a with
      | .w n => decide (n.toNat + nv.toNat ≤ 15)
      | .pt _ => true
      | _ => false
  | .vldix _ _ a f => a.isSrc && f.it
  | .vsacc _ d a b f => d.isDst && a.isSrc && b.isSrc && f.fp
  | .trnc _ _ _ f => f.conv
  | .cld _ c m => m.xfOk && m.shortForm && groupOk c.sc (5 + m.extra)
  | .cst _ c m => !m.ver && m.xf == none && m.pl == 0#4 && !m.mid && m.shortForm && !c.loc.isRing && groupOk c.sc (5 + m.extra)
  | .cgat _ c _ first nm1 bar => c.loc.isRing && decide (first.toNat + nm1.toNat ≤ 63) && groupOk c.sc (5 + b2n bar)
  | .cpre _ c m => m.xfOk && !m.side && !m.bar && !m.ver && !m.mid && m.shortForm && c.noLoc && groupOk c.sc 5
  | .cmc _ c m => m.xfOk && c.noLoc && groupOk c.sc (8 + m.extra)
  | .csum _ c m => !m.bar && !m.ver && m.xf == none && m.pl == 0#4 && !m.mid && m.shortForm && c.noLoc &&
      groupOk c.sc (6 + m.extra)
  | _ => true

/-- An instruction that some encoding stands for. -/
def Instr.wf (i : Instr) : Bool := i.hdrOk && i.fields.all RField.ok && i.fieldsOk

end Sys2Proof
end

