-- ==== Sys2Proof/Decode.lean ====
section
/-! DEFINITION. The decoder of thread words, slots and bundles, total on every word (R75-R84, R93-R111), and the encoder. -/
namespace Sys2Proof

/-- Why a word or a slot is no instruction (R84, R111). -/
inductive DecodeErr
  /-- an unassigned tile opcode (R101): ILLEGAL_OPCODE. -/
  | illegalOpcode
  /-- a field outside its kind: ILLEGAL_ENCODING. -/
  | illegalEncoding
  deriving DecidableEq, Repr

/-- The fixed fields of a thread word (R75). -/
structure TWord where
  opc : BitVec 8
  hdr : Hdr
  dst : BitVec 8
  sa : BitVec 8
  low : BitVec 32
  deriving DecidableEq, Repr

/-- Bit k of a word. -/
def fb {n : Nat} (w : BitVec n) (k : Nat) : Bool := w.extractLsb' k 1 == 1#1
/-- A flag as one bit. -/
def bv (b : Bool) : BitVec 1 := BitVec.ofBool b

/-- The fields of a 64-bit word (R75). -/
def TWord.ofBits (w : BitVec 64) : TWord :=
  ⟨w.extractLsb' 56 8, ⟨w.extractLsb' 52 4, fb w 51, w.extractLsb' 48 3⟩, w.extractLsb' 40 8, w.extractLsb' 32 8, w.extractLsb' 0 32⟩
/-- The 64-bit word of the fields (R75). -/
def TWord.word (t : TWord) : BitVec 64 :=
  t.opc ++ t.hdr.la ++ bv t.hdr.pn ++ t.hdr.pg ++ t.dst ++ t.sa ++ t.low

/-- The code of Sat (R158). -/
def Sat.code : Sat → BitVec 2
  | .wrap => 0#2 | .signed => 1#2 | .unsigned => 2#2
/-- The Sat of a code, none for a reserved one (R158). -/
def Sat.ofCode (c : BitVec 2) : Option Sat :=
  match c.toNat with
  | 0 => some .wrap | 1 => some .signed | 2 => some .unsigned | _ => none

/-- The code of Rm (R140). -/
def Rm.code : Rm → BitVec 2
  | .rn => 0#2 | .rz => 1#2 | .ru => 2#2 | .rd => 3#2
/-- The Rm of a code, none for a reserved one (R140). -/
def Rm.ofCode (c : BitVec 2) : Option Rm :=
  match c.toNat with
  | 0 => some .rn | 1 => some .rz | 2 => some .ru | 3 => some .rd | _ => none

/-- The code of Cond (R159). -/
def Cond.code : Cond → BitVec 3
  | .eq => 0#3 | .ne => 1#3 | .lt => 2#3 | .le => 3#3 | .gt => 4#3 | .ge => 5#3
/-- The Cond of a code, none for a reserved one (R159). -/
def Cond.ofCode (c : BitVec 3) : Option Cond :=
  match c.toNat with
  | 0 => some .eq | 1 => some .ne | 2 => some .lt | 3 => some .le | 4 => some .gt | 5 => some .ge | _ => none

/-- The code of Bop (R159). -/
def Bop.code : Bop → BitVec 2
  | .and => 0#2 | .or => 1#2 | .xor => 2#2
/-- The Bop of a code, none for a reserved one (R159). -/
def Bop.ofCode (c : BitVec 2) : Option Bop :=
  match c.toNat with
  | 0 => some .and | 1 => some .or | 2 => some .xor | _ => none

/-- The code of Sz (R80). -/
def Sz.code : Sz → BitVec 3
  | .b8 => 0#3 | .b16 => 1#3 | .b32 => 2#3 | .b64 => 3#3 | .b128 => 4#3
/-- The Sz of a code, none for a reserved one (R80). -/
def Sz.ofCode (c : BitVec 3) : Option Sz :=
  match c.toNat with
  | 0 => some .b8 | 1 => some .b16 | 2 => some .b32 | 3 => some .b64 | 4 => some .b128 | _ => none

/-- The code of Scope (R80). -/
def Scope.code : Scope → BitVec 3
  | .blk => 0#3 | .quad => 1#3 | .die => 2#3 | .dev => 3#3 | .sys => 4#3 | .job => 5#3
/-- The Scope of a code, none for a reserved one (R80). -/
def Scope.ofCode (c : BitVec 3) : Option Scope :=
  match c.toNat with
  | 0 => some .blk | 1 => some .quad | 2 => some .die | 3 => some .dev | 4 => some .sys | 5 => some .job | _ => none

/-- The code of FFmt (R165). -/
def FFmt.code : FFmt → BitVec 2
  | .fp32 => 0#2 | .fp16 => 1#2 | .bf16 => 2#2
/-- The FFmt of a code, none for a reserved one (R165). -/
def FFmt.ofCode (c : BitVec 2) : Option FFmt :=
  match c.toNat with
  | 0 => some .fp32 | 1 => some .fp16 | 2 => some .bf16 | _ => none

/-- The code of IFmt (R165). -/
def IFmt.code : IFmt → BitVec 3
  | .i32 => 0#3 | .u32 => 1#3 | .i8 => 2#3 | .u8 => 3#3
/-- The IFmt of a code, none for a reserved one (R165). -/
def IFmt.ofCode (c : BitVec 3) : Option IFmt :=
  match c.toNat with
  | 0 => some .i32 | 1 => some .u32 | 2 => some .i8 | 3 => some .u8 | _ => none

/-- The code of LxMode (R172). -/
def LxMode.code : LxMode → BitVec 2
  | .abs => 0#2 | .lo => 1#2 | .hi => 2#2 | .flip => 3#2
/-- The LxMode of a code, none for a reserved one (R172). -/
def LxMode.ofCode (c : BitVec 2) : Option LxMode :=
  match c.toNat with
  | 0 => some .abs | 1 => some .lo | 2 => some .hi | 3 => some .flip | _ => none

/-- The code of PjMode (R173). -/
def PjMode.code : PjMode → BitVec 2
  | .any => 0#2 | .all => 1#2 | .same => 2#2
/-- The PjMode of a code, none for a reserved one (R173). -/
def PjMode.ofCode (c : BitVec 2) : Option PjMode :=
  match c.toNat with
  | 0 => some .any | 1 => some .all | 2 => some .same | _ => none

/-- The code of WsOp (R174). -/
def WsOp.code : WsOp → BitVec 2
  | .add => 0#2 | .min => 1#2 | .max => 2#2
/-- The WsOp of a code, none for a reserved one (R174). -/
def WsOp.ofCode (c : BitVec 2) : Option WsOp :=
  match c.toNat with
  | 0 => some .add | 1 => some .min | 2 => some .max | _ => none

/-- The code of WsTy (R174). -/
def WsTy.code : WsTy → BitVec 2
  | .i32 => 0#2 | .u32 => 1#2 | .f32 => 2#2
/-- The WsTy of a code, none for a reserved one (R174). -/
def WsTy.ofCode (c : BitVec 2) : Option WsTy :=
  match c.toNat with
  | 0 => some .i32 | 1 => some .u32 | 2 => some .f32 | _ => none

/-- The code of AOp (R262). -/
def AOp.code : AOp → BitVec 4
  | .add => 0#4 | .min => 1#4 | .max => 2#4 | .and => 3#4 | .or => 4#4 | .xor => 5#4 | .exch => 6#4 | .inc => 7#4 | .dec => 8#4
/-- The AOp of a code, none for a reserved one (R262). -/
def AOp.ofCode (c : BitVec 4) : Option AOp :=
  match c.toNat with
  | 0 => some .add | 1 => some .min | 2 => some .max | 3 => some .and | 4 => some .or | 5 => some .xor | 6 => some .exch | 7 => some .inc | 8 => some .dec | _ => none

/-- The code of ATy (R262). -/
def ATy.code : ATy → BitVec 2
  | .unsigned => 0#2 | .signed => 1#2 | .fp32 => 2#2
/-- The ATy of a code, none for a reserved one (R262). -/
def ATy.ofCode (c : BitVec 2) : Option ATy :=
  match c.toNat with
  | 0 => some .unsigned | 1 => some .signed | 2 => some .fp32 | _ => none

/-- The code of Eng (R102). -/
def Eng.code : Eng → BitVec 3
  | .copy => 0#3 | .matrix => 1#3 | .gather => 2#3 | .xform => 3#3 | .remote => 4#3
/-- The Eng of a code, none for a reserved one (R102). -/
def Eng.ofCode (c : BitVec 3) : Option Eng :=
  match c.toNat with
  | 0 => some .copy | 1 => some .matrix | 2 => some .gather | 3 => some .xform | 4 => some .remote | _ => none

/-- The code of PollCond (R344). -/
def PollCond.code : PollCond → BitVec 3
  | .eq => 0#3 | .ne => 1#3 | .geu => 2#3 | .ltu => 3#3 | .any => 4#3 | .none => 5#3
/-- The PollCond of a code, none for a reserved one (R344). -/
def PollCond.ofCode (c : BitVec 3) : Option PollCond :=
  match c.toNat with
  | 0 => some .eq | 1 => some .ne | 2 => some .geu | 3 => some .ltu | 4 => some .any | 5 => some .none | _ => none

/-- The code of Level (R332). -/
def Level.code : Level → BitVec 3
  | .blk => 0#3 | .quad => 1#3 | .die => 2#3 | .dev => 3#3 | .job => 4#3
/-- The Level of a code, none for a reserved one (R332). -/
def Level.ofCode (c : BitVec 3) : Option Level :=
  match c.toNat with
  | 0 => some .blk | 1 => some .quad | 2 => some .die | 3 => some .dev | 4 => some .job | _ => none

/-- The code of CrcSz (R181). -/
def CrcSz.code : CrcSz → BitVec 2
  | .w => 0#2 | .b => 1#2 | .h => 2#2
/-- The CrcSz of a code, none for a reserved one (R181). -/
def CrcSz.ofCode (c : BitVec 2) : Option CrcSz :=
  match c.toNat with
  | 0 => some .w | 1 => some .b | 2 => some .h | _ => none

/-- The code of Hint (R261). -/
def Hint.code : Hint → BitVec 2
  | .dflt => 0#2 | .cg => 1#2 | .cs => 2#2
/-- The Hint of a code, none for a reserved one (R261). -/
def Hint.ofCode (c : BitVec 2) : Option Hint :=
  match c.toNat with
  | 0 => some .dflt | 1 => some .cg | 2 => some .cs | _ => none

/-- The code of CctlOp (R285). -/
def CctlOp.code : CctlOp → BitVec 8
  | .ivl => 0#8 | .wb => 1#8 | .ivall => 2#8 | .l2wb => 3#8
/-- The CctlOp of a code, none for a reserved one (R285). -/
def CctlOp.ofCode (c : BitVec 8) : Option CctlOp :=
  match c.toNat with
  | 0 => some .ivl | 1 => some .wb | 2 => some .ivall | 3 => some .l2wb | _ => none

/-- The code of Fmt (R22). -/
def Fmt.code : Fmt → BitVec 4
  | .fp32 => 0#4 | .fp16 => 1#4 | .bf16 => 2#4 | .tf8 => 3#4 | .tf6 => 4#4 | .int8 => 5#4 | .int32 => 6#4 | .uint8 => 7#4 | .e8 => 8#4 | .bsw => 9#4
/-- The Fmt of a code, none for a reserved one (R22). -/
def Fmt.ofCode (c : BitVec 4) : Option Fmt :=
  match c.toNat with
  | 0 => some .fp32 | 1 => some .fp16 | 2 => some .bf16 | 3 => some .tf8 | 4 => some .tf6 | 5 => some .int8 | 6 => some .int32 | 7 => some .uint8 | 8 => some .e8 | 9 => some .bsw | _ => none

/-- The code of SCond (R104). -/
def SCond.code : SCond → BitVec 3
  | .eq => 0#3 | .ne => 1#3 | .lt => 2#3 | .le => 3#3 | .ltu => 4#3 | .leu => 5#3
/-- The SCond of a code, none for a reserved one (R104). -/
def SCond.ofCode (c : BitVec 3) : Option SCond :=
  match c.toNat with
  | 0 => some .eq | 1 => some .ne | 2 => some .lt | 3 => some .le | 4 => some .ltu | 5 => some .leu | _ => none

/-- The code of VrOp (R107). -/
def VrOp.code : VrOp → BitVec 2
  | .add => 0#2 | .max => 1#2 | .min => 2#2
/-- The VrOp of a code, none for a reserved one (R107). -/
def VrOp.ofCode (c : BitVec 2) : Option VrOp :=
  match c.toNat with
  | 0 => some .add | 1 => some .max | 2 => some .min | _ => none

/-- Opcodes 0x00-0x0F (R82, R83): the instruction of the low opcode digit, or nothing where a field breaks its format. -/
def decodeRow0 (t : TWord) : Option Instr :=
  match (t.opc.extractLsb' 0 4).toNat with
  | 0 => if t.low.extractLsb' 16 8 == 0#8 && t.low.extractLsb' 2 14 == 0#14 then (Sat.ofCode (t.low.extractLsb' 0 2)).bind fun sat => some <| .iadd t.hdr t.dst t.sa (t.low.extractLsb' 24 8) sat else none
  | 1 => some (.iaddi t.hdr t.dst t.sa t.low)
  | 2 => if t.low.extractLsb' 16 8 == 0#8 && t.low.extractLsb' 2 14 == 0#14 then (Sat.ofCode (t.low.extractLsb' 0 2)).bind fun sat => some <| .isub t.hdr t.dst t.sa (t.low.extractLsb' 24 8) sat else none
  | 3 => if t.low.extractLsb' 16 8 == 0#8 && t.low.extractLsb' 0 16 == 0#16 then some (.imul t.hdr t.dst t.sa (t.low.extractLsb' 24 8)) else none
  | 4 => some (.imuli t.hdr t.dst t.sa t.low)
  | 5 => if t.low.extractLsb' 16 8 == 0#8 && t.low.extractLsb' 1 15 == 0#15 then some (.imulh t.hdr t.dst t.sa (t.low.extractLsb' 24 8) (fb t.low 0)) else none
  | 6 => if t.low.extractLsb' 0 16 == 0#16 then some (.imad t.hdr t.dst t.sa (t.low.extractLsb' 24 8) (t.low.extractLsb' 16 8)) else none
  | 7 => if t.low.extractLsb' 1 15 == 0#15 then some (.imadw t.hdr t.dst t.sa (t.low.extractLsb' 24 8) (t.low.extractLsb' 16 8) (fb t.low 0)) else none
  | 8 => if t.low.extractLsb' 16 8 == 0#8 && t.low.extractLsb' 1 15 == 0#15 then some (.imin t.hdr t.dst t.sa (t.low.extractLsb' 24 8) (fb t.low 0)) else none
  | 9 => if t.low.extractLsb' 16 8 == 0#8 && t.low.extractLsb' 1 15 == 0#15 then some (.imax t.hdr t.dst t.sa (t.low.extractLsb' 24 8) (fb t.low 0)) else none
  | 10 => if t.low.extractLsb' 16 16 == 0#16 && t.low.extractLsb' 1 15 == 0#15 then some (.iabs t.hdr t.dst t.sa (fb t.low 0)) else none
  | 11 => if t.low.extractLsb' 16 16 == 0#16 && t.low.extractLsb' 1 15 == 0#15 then some (.ineg t.hdr t.dst t.sa (fb t.low 0)) else none
  | 12 => if t.low.extractLsb' 8 8 == 0#8 then some (.tlog t.hdr t.dst t.sa (t.low.extractLsb' 24 8) (t.low.extractLsb' 16 8) (t.low.extractLsb' 0 8)) else none
  | 13 => if t.low.extractLsb' 28 4 == 0#4 then some (.tlogi t.hdr t.dst t.sa (t.low.extractLsb' 0 24) (t.low.extractLsb' 24 4)) else none
  | 14 => if t.low.extractLsb' 16 8 == 0#8 && t.low.extractLsb' 0 16 == 0#16 then some (.shl t.hdr t.dst t.sa (t.low.extractLsb' 24 8)) else none
  | 15 => if t.low.extractLsb' 5 27 == 0#27 then some (.shli t.hdr t.dst t.sa (t.low.extractLsb' 0 5)) else none
  | _ => none

/-- Opcodes 0x10-0x1F (R82, R83): the instruction of the low opcode digit, or nothing where a field breaks its format. -/
def decodeRow1 (t : TWord) : Option Instr :=
  match (t.opc.extractLsb' 0 4).toNat with
  | 0 => if t.low.extractLsb' 16 8 == 0#8 && t.low.extractLsb' 0 16 == 0#16 then some (.shr t.hdr t.dst t.sa (t.low.extractLsb' 24 8)) else none
  | 1 => if t.low.extractLsb' 5 27 == 0#27 then some (.shri t.hdr t.dst t.sa (t.low.extractLsb' 0 5)) else none
  | 2 => if t.low.extractLsb' 16 8 == 0#8 && t.low.extractLsb' 0 16 == 0#16 then some (.sar t.hdr t.dst t.sa (t.low.extractLsb' 24 8)) else none
  | 3 => if t.low.extractLsb' 5 27 == 0#27 then some (.sari t.hdr t.dst t.sa (t.low.extractLsb' 0 5)) else none
  | 4 => if t.low.extractLsb' 1 15 == 0#15 then some (.fshf t.hdr t.dst t.sa (t.low.extractLsb' 24 8) (t.low.extractLsb' 16 8) (fb t.low 0)) else none
  | 5 => if t.low.extractLsb' 16 16 == 0#16 && t.low.extractLsb' 0 16 == 0#16 then some (.popc t.hdr t.dst t.sa) else none
  | 6 => if t.low.extractLsb' 16 16 == 0#16 && t.low.extractLsb' 0 16 == 0#16 then some (.clz t.hdr t.dst t.sa) else none
  | 7 => if t.low.extractLsb' 16 16 == 0#16 && t.low.extractLsb' 0 16 == 0#16 then some (.brev t.hdr t.dst t.sa) else none
  | 8 => if t.low.extractLsb' 16 8 == 0#8 && t.low.extractLsb' 1 15 == 0#15 then some (.bfx t.hdr t.dst t.sa (t.low.extractLsb' 24 8) (fb t.low 0)) else none
  | 9 => if t.low.extractLsb' 0 16 == 0#16 then some (.bfi t.hdr t.dst t.sa (t.low.extractLsb' 24 8) (t.low.extractLsb' 16 8)) else none
  | 10 => if t.dst.extractLsb' 3 5 == 0#5 && t.low.extractLsb' 19 5 == 0#5 && t.low.extractLsb' 6 10 == 0#10 then (Bop.ofCode (t.low.extractLsb' 4 2)).bind fun bop => (Cond.ofCode (t.low.extractLsb' 0 3)).bind fun cond => some <| .isetp t.hdr (t.dst.extractLsb' 0 3) t.sa (t.low.extractLsb' 24 8) (t.low.extractLsb' 16 3) cond (fb t.low 3) bop else none
  | 11 => if t.dst.extractLsb' 3 5 == 0#5 && t.low.extractLsb' 28 4 == 0#4 then (Cond.ofCode (t.low.extractLsb' 24 3)).bind fun cond => some <| .isetpi t.hdr (t.dst.extractLsb' 0 3) t.sa (t.low.extractLsb' 0 24) cond (fb t.low 27) else none
  | 12 => if t.low.extractLsb' 16 8 == 0#8 && t.low.extractLsb' 0 16 == 0#16 then some (.iadd64 t.hdr t.dst t.sa (t.low.extractLsb' 24 8)) else none
  | 13 => if t.low.extractLsb' 16 8 == 0#8 && t.low.extractLsb' 4 12 == 0#12 then some (.lea64 t.hdr t.dst t.sa (t.low.extractLsb' 24 8) (fb t.low 3) (t.low.extractLsb' 0 3)) else none
  | 14 => if t.low.extractLsb' 1 15 == 0#15 then some (.iclamp t.hdr t.dst t.sa (t.low.extractLsb' 24 8) (t.low.extractLsb' 16 8) (fb t.low 0)) else none
  | 15 => if t.low.extractLsb' 3 13 == 0#13 then some (.idot4 t.hdr t.dst t.sa (t.low.extractLsb' 24 8) (t.low.extractLsb' 16 8) (fb t.low 0) (fb t.low 1) (fb t.low 2)) else none
  | _ => none

/-- Opcodes 0x20-0x2F (R82, R83): the instruction of the low opcode digit, or nothing where a field breaks its format. -/
def decodeRow2 (t : TWord) : Option Instr :=
  match (t.opc.extractLsb' 0 4).toNat with
  | 0 => if t.low.extractLsb' 16 8 == 0#8 && t.low.extractLsb' 3 13 == 0#13 then (Rm.ofCode (t.low.extractLsb' 0 2)).bind fun rm => some <| .fadd t.hdr t.dst t.sa (t.low.extractLsb' 24 8) rm (fb t.low 2) else none
  | 1 => some (.faddi t.hdr t.dst t.sa t.low)
  | 2 => if t.low.extractLsb' 16 8 == 0#8 && t.low.extractLsb' 2 14 == 0#14 then (Rm.ofCode (t.low.extractLsb' 0 2)).bind fun rm => some <| .fmul t.hdr t.dst t.sa (t.low.extractLsb' 24 8) rm else none
  | 3 => some (.fmuli t.hdr t.dst t.sa t.low)
  | 4 => if t.low.extractLsb' 4 12 == 0#12 then (Rm.ofCode (t.low.extractLsb' 0 2)).bind fun rm => some <| .ffma t.hdr t.dst t.sa (t.low.extractLsb' 24 8) (t.low.extractLsb' 16 8) rm (fb t.low 2) (fb t.low 3) else none
  | 5 => if t.low.extractLsb' 16 8 == 0#8 && t.low.extractLsb' 0 16 == 0#16 then some (.fmin t.hdr t.dst t.sa (t.low.extractLsb' 24 8)) else none
  | 6 => if t.low.extractLsb' 16 8 == 0#8 && t.low.extractLsb' 0 16 == 0#16 then some (.fmax t.hdr t.dst t.sa (t.low.extractLsb' 24 8)) else none
  | 7 => if t.dst.extractLsb' 3 5 == 0#5 && t.low.extractLsb' 19 5 == 0#5 && t.low.extractLsb' 6 10 == 0#10 then (Bop.ofCode (t.low.extractLsb' 4 2)).bind fun bop => (Cond.ofCode (t.low.extractLsb' 0 3)).bind fun cond => some <| .fsetp t.hdr (t.dst.extractLsb' 0 3) t.sa (t.low.extractLsb' 24 8) (t.low.extractLsb' 16 3) cond (fb t.low 3) bop else none
  | 8 => if t.low.extractLsb' 16 16 == 0#16 && t.low.extractLsb' 0 16 == 0#16 then some (.frcp t.hdr t.dst t.sa) else none
  | 9 => if t.low.extractLsb' 16 16 == 0#16 && t.low.extractLsb' 0 16 == 0#16 then some (.frsq t.hdr t.dst t.sa) else none
  | 10 => if t.low.extractLsb' 16 16 == 0#16 && t.low.extractLsb' 0 16 == 0#16 then some (.fex2 t.hdr t.dst t.sa) else none
  | 11 => if t.low.extractLsb' 16 16 == 0#16 && t.low.extractLsb' 0 16 == 0#16 then some (.flg2 t.hdr t.dst t.sa) else none
  | 12 => if t.low.extractLsb' 16 16 == 0#16 && t.low.extractLsb' 0 16 == 0#16 then some (.fsin t.hdr t.dst t.sa) else none
  | 13 => if t.low.extractLsb' 16 16 == 0#16 && t.low.extractLsb' 0 16 == 0#16 then some (.fcos t.hdr t.dst t.sa) else none
  | 14 => if t.low.extractLsb' 16 16 == 0#16 && t.low.extractLsb' 2 14 == 0#14 then (Rm.ofCode (t.low.extractLsb' 0 2)).bind fun rm => some <| .frnd t.hdr t.dst t.sa rm else none
  | 15 => if t.low.extractLsb' 16 16 == 0#16 && t.low.extractLsb' 0 16 == 0#16 then some (.fclass t.hdr t.dst t.sa) else none
  | _ => none

/-- Opcodes 0x30-0x3F (R82, R83): the instruction of the low opcode digit, or nothing where a field breaks its format. -/
def decodeRow3 (t : TWord) : Option Instr :=
  match (t.opc.extractLsb' 0 4).toNat with
  | 0 => if t.low.extractLsb' 16 8 == 0#8 && t.low.extractLsb' 3 13 == 0#13 then (Rm.ofCode (t.low.extractLsb' 0 2)).bind fun rm => some <| .hadd2 t.hdr t.dst t.sa (t.low.extractLsb' 24 8) rm (fb t.low 2) else none
  | 1 => if t.low.extractLsb' 16 8 == 0#8 && t.low.extractLsb' 3 13 == 0#13 then (Rm.ofCode (t.low.extractLsb' 0 2)).bind fun rm => some <| .hmul2 t.hdr t.dst t.sa (t.low.extractLsb' 24 8) rm (fb t.low 2) else none
  | 2 => if t.low.extractLsb' 3 13 == 0#13 then (Rm.ofCode (t.low.extractLsb' 0 2)).bind fun rm => some <| .hfma2 t.hdr t.dst t.sa (t.low.extractLsb' 24 8) (t.low.extractLsb' 16 8) rm (fb t.low 2) else none
  | 3 => if t.dst.extractLsb' 3 5 == 0#5 && t.low.extractLsb' 19 5 == 0#5 && t.low.extractLsb' 8 8 == 0#8 then (Bop.ofCode (t.low.extractLsb' 4 2)).bind fun bop => (Cond.ofCode (t.low.extractLsb' 0 3)).bind fun cond => some <| .hsetp2 t.hdr (t.dst.extractLsb' 0 3) t.sa (t.low.extractLsb' 24 8) (t.low.extractLsb' 16 3) cond (fb t.low 3) bop (fb t.low 6) (fb t.low 7) else none
  | 4 => if t.low.extractLsb' 16 16 == 0#16 && t.low.extractLsb' 7 9 == 0#9 then (FFmt.ofCode (t.low.extractLsb' 5 2)).bind fun dst => (IFmt.ofCode (t.low.extractLsb' 2 3)).bind fun src => (Rm.ofCode (t.low.extractLsb' 0 2)).bind fun rm => some <| .cvtif t.hdr t.dst t.sa rm src dst else none
  | 5 => if t.low.extractLsb' 16 16 == 0#16 && t.low.extractLsb' 7 9 == 0#9 then (IFmt.ofCode (t.low.extractLsb' 4 3)).bind fun dst => (FFmt.ofCode (t.low.extractLsb' 2 2)).bind fun src => (Rm.ofCode (t.low.extractLsb' 0 2)).bind fun rm => some <| .cvtfi t.hdr t.dst t.sa rm src dst else none
  | 6 => if t.low.extractLsb' 16 16 == 0#16 && t.low.extractLsb' 6 10 == 0#10 then (FFmt.ofCode (t.low.extractLsb' 4 2)).bind fun dst => (FFmt.ofCode (t.low.extractLsb' 2 2)).bind fun src => (Rm.ofCode (t.low.extractLsb' 0 2)).bind fun rm => some <| .cvtff t.hdr t.dst t.sa rm src dst else none
  | 7 => if t.low.extractLsb' 16 16 == 0#16 && t.low.extractLsb' 14 2 == 0#2 && t.low.extractLsb' 2 6 == 0#6 then some (.cvtt t.hdr t.dst t.sa (t.low.extractLsb' 8 6) (fb t.low 1) (fb t.low 0)) else none
  | 8 => if t.low.extractLsb' 16 8 == 0#8 && t.low.extractLsb' 2 14 == 0#14 then (Rm.ofCode (t.low.extractLsb' 0 2)).bind fun rm => some <| .fscale t.hdr t.dst t.sa (t.low.extractLsb' 24 8) rm else none
  | _ => none

/-- Opcodes 0x40-0x4F (R82, R83): the instruction of the low opcode digit, or nothing where a field breaks its format. -/
def decodeRow4 (t : TWord) : Option Instr :=
  match (t.opc.extractLsb' 0 4).toNat with
  | 0 => if t.low.extractLsb' 16 16 == 0#16 && t.low.extractLsb' 0 16 == 0#16 then some (.mov t.hdr t.dst t.sa) else none
  | 1 => if t.sa == 0#8 then some (.movi t.hdr t.dst t.low) else none
  | 2 => if t.low.extractLsb' 19 5 == 0#5 && t.low.extractLsb' 0 16 == 0#16 then some (.sel t.hdr t.dst t.sa (t.low.extractLsb' 24 8) (t.low.extractLsb' 16 3)) else none
  | 3 => if t.sa == 0#8 && t.low.extractLsb' 16 16 == 0#16 then some (.s2v t.hdr t.dst (t.low.extractLsb' 0 16)) else none
  | 4 => if t.low.extractLsb' 5 11 == 0#11 then (LxMode.ofCode (t.low.extractLsb' 0 2)).bind fun mode => some <| .lxch t.hdr t.dst t.sa (t.low.extractLsb' 24 8) (t.low.extractLsb' 16 8) mode (t.low.extractLsb' 2 3) else none
  | 5 => if t.dst.extractLsb' 3 5 == 0#5 && t.sa.extractLsb' 3 5 == 0#5 && t.low.extractLsb' 16 8 == 0#8 && t.low.extractLsb' 2 14 == 0#14 then (PjMode.ofCode (t.low.extractLsb' 0 2)).bind fun mode => some <| .pjoin t.hdr (t.dst.extractLsb' 0 3) (t.sa.extractLsb' 0 3) (t.low.extractLsb' 24 8) mode else none
  | 6 => if t.sa.extractLsb' 3 5 == 0#5 && t.low.extractLsb' 0 24 == 0#24 then some (.pmask t.hdr t.dst (t.sa.extractLsb' 0 3) (t.low.extractLsb' 24 8)) else none
  | 7 => if t.low.extractLsb' 16 8 == 0#8 && t.low.extractLsb' 0 16 == 0#16 then some (.leqm t.hdr t.dst t.sa (t.low.extractLsb' 24 8)) else none
  | 8 => if t.low.extractLsb' 16 8 == 0#8 && t.low.extractLsb' 5 11 == 0#11 then (WsTy.ofCode (t.low.extractLsb' 3 2)).bind fun ty => (WsOp.ofCode (t.low.extractLsb' 0 2)).bind fun op => some <| .wscan t.hdr t.dst t.sa (t.low.extractLsb' 24 8) op (fb t.low 2) ty else none
  | 9 => if t.low.extractLsb' 16 8 == 0#8 && t.low.extractLsb' 5 11 == 0#11 && t.low.extractLsb' 2 1 == 0#1 then (WsTy.ofCode (t.low.extractLsb' 3 2)).bind fun ty => (WsOp.ofCode (t.low.extractLsb' 0 2)).bind fun op => some <| .wred t.hdr t.dst t.sa (t.low.extractLsb' 24 8) op ty else none
  | 10 => if t.dst.extractLsb' 3 5 == 0#5 && t.sa.extractLsb' 3 5 == 0#5 && t.low.extractLsb' 27 5 == 0#5 && t.low.extractLsb' 19 5 == 0#5 && t.low.extractLsb' 8 8 == 0#8 then some (.plop t.hdr (t.dst.extractLsb' 0 3) (t.sa.extractLsb' 0 3) (t.low.extractLsb' 24 3) (t.low.extractLsb' 16 3) (t.low.extractLsb' 0 8)) else none
  | 11 => if t.sa == 0#8 && t.low.extractLsb' 0 32 == 0#32 then some (.p2v t.hdr t.dst) else none
  | 12 => if t.dst == 0#8 && t.low.extractLsb' 16 16 == 0#16 && t.low.extractLsb' 7 9 == 0#9 then some (.v2p t.hdr t.sa (t.low.extractLsb' 0 7)) else none
  | 13 => if t.dst == 0#8 && t.low.extractLsb' 0 32 == 0#32 then some (.wsync t.hdr t.sa) else none
  | _ => none

/-- Opcodes 0x60-0x6F (R82, R83): the instruction of the low opcode digit, or nothing where a field breaks its format. -/
def decodeRow6 (t : TWord) : Option Instr :=
  match (t.opc.extractLsb' 0 4).toNat with
  | 0 => if t.low.extractLsb' 24 3 == 0#3 then (Hint.ofCode (t.low.extractLsb' 28 2)).bind fun ch => (Sz.ofCode (t.low.extractLsb' 17 3)).bind fun sz => (Scope.ofCode (t.low.extractLsb' 14 3)).bind fun scope => some <| .ld t.hdr t.dst t.sa ⟨(fb t.low 31), (fb t.low 30), ch, (fb t.low 27)⟩ ⟨(t.low.extractLsb' 20 4), sz, scope, (t.low.extractLsb' 0 14)⟩ else none
  | 1 => if t.dst.extractLsb' 0 3 == 0#3 then (Hint.ofCode (t.dst.extractLsb' 4 2)).bind fun ch => (Sz.ofCode (t.low.extractLsb' 17 3)).bind fun sz => (Scope.ofCode (t.low.extractLsb' 14 3)).bind fun scope => some <| .st t.hdr t.sa (t.low.extractLsb' 24 8) ⟨fb t.dst 7, fb t.dst 6, ch, fb t.dst 3⟩ ⟨(t.low.extractLsb' 20 4), sz, scope, (t.low.extractLsb' 0 14)⟩ else none
  | 2 => if t.low.extractLsb' 24 3 == 0#3 then (Hint.ofCode (t.low.extractLsb' 28 2)).bind fun ch => (Sz.ofCode (t.low.extractLsb' 17 3)).bind fun sz => (Scope.ofCode (t.low.extractLsb' 14 3)).bind fun scope => some <| .lds t.hdr t.dst t.sa ⟨(fb t.low 31), (fb t.low 30), ch, (fb t.low 27)⟩ ⟨(t.low.extractLsb' 20 4), sz, scope, (t.low.extractLsb' 0 14)⟩ else none
  | 3 => if t.dst.extractLsb' 0 3 == 0#3 then (Hint.ofCode (t.dst.extractLsb' 4 2)).bind fun ch => (Sz.ofCode (t.low.extractLsb' 17 3)).bind fun sz => (Scope.ofCode (t.low.extractLsb' 14 3)).bind fun scope => some <| .sts t.hdr t.sa (t.low.extractLsb' 24 8) ⟨fb t.dst 7, fb t.dst 6, ch, fb t.dst 3⟩ ⟨(t.low.extractLsb' 20 4), sz, scope, (t.low.extractLsb' 0 14)⟩ else none
  | 4 => if t.low.extractLsb' 0 6 == 0#6 then (Sz.ofCode (t.low.extractLsb' 17 3)).bind fun sz => (Scope.ofCode (t.low.extractLsb' 14 3)).bind fun scope => (AOp.ofCode (t.low.extractLsb' 10 4)).bind fun aop => (ATy.ofCode (t.low.extractLsb' 8 2)).bind fun ty => some <| .atom t.hdr t.dst t.sa (t.low.extractLsb' 24 8) ⟨(t.low.extractLsb' 20 4), sz, scope, aop, ty, (fb t.low 7), (fb t.low 6)⟩ else none
  | 5 => if t.low.extractLsb' 0 6 == 0#6 then (Sz.ofCode (t.low.extractLsb' 17 3)).bind fun sz => (Scope.ofCode (t.low.extractLsb' 14 3)).bind fun scope => (AOp.ofCode (t.low.extractLsb' 10 4)).bind fun aop => (ATy.ofCode (t.low.extractLsb' 8 2)).bind fun ty => some <| .atoms t.hdr t.dst t.sa (t.low.extractLsb' 24 8) ⟨(t.low.extractLsb' 20 4), sz, scope, aop, ty, (fb t.low 7), (fb t.low 6)⟩ else none
  | 6 => if t.dst == 0#8 && t.low.extractLsb' 0 6 == 0#6 then (Sz.ofCode (t.low.extractLsb' 17 3)).bind fun sz => (Scope.ofCode (t.low.extractLsb' 14 3)).bind fun scope => (AOp.ofCode (t.low.extractLsb' 10 4)).bind fun aop => (ATy.ofCode (t.low.extractLsb' 8 2)).bind fun ty => some <| .red t.hdr t.sa (t.low.extractLsb' 24 8) ⟨(t.low.extractLsb' 20 4), sz, scope, aop, ty, (fb t.low 7), (fb t.low 6)⟩ else none
  | 7 => if t.low.extractLsb' 0 6 == 0#6 then (Sz.ofCode (t.low.extractLsb' 17 3)).bind fun sz => (Scope.ofCode (t.low.extractLsb' 14 3)).bind fun scope => (AOp.ofCode (t.low.extractLsb' 10 4)).bind fun aop => (ATy.ofCode (t.low.extractLsb' 8 2)).bind fun ty => some <| .acas t.hdr t.dst t.sa (t.low.extractLsb' 24 8) ⟨(t.low.extractLsb' 20 4), sz, scope, aop, ty, (fb t.low 7), (fb t.low 6)⟩ else none
  | 8 => if t.low.extractLsb' 24 3 == 0#3 then (Hint.ofCode (t.low.extractLsb' 28 2)).bind fun ch => (Sz.ofCode (t.low.extractLsb' 17 3)).bind fun sz => (Scope.ofCode (t.low.extractLsb' 14 3)).bind fun scope => some <| .rld t.hdr t.dst t.sa ⟨(fb t.low 31), (fb t.low 30), ch, (fb t.low 27)⟩ ⟨(t.low.extractLsb' 20 4), sz, scope, (t.low.extractLsb' 0 14)⟩ else none
  | 9 => if t.dst.extractLsb' 0 3 == 0#3 then (Hint.ofCode (t.dst.extractLsb' 4 2)).bind fun ch => (Sz.ofCode (t.low.extractLsb' 17 3)).bind fun sz => (Scope.ofCode (t.low.extractLsb' 14 3)).bind fun scope => some <| .rst t.hdr t.sa (t.low.extractLsb' 24 8) ⟨fb t.dst 7, fb t.dst 6, ch, fb t.dst 3⟩ ⟨(t.low.extractLsb' 20 4), sz, scope, (t.low.extractLsb' 0 14)⟩ else none
  | 10 => if t.low.extractLsb' 0 6 == 0#6 then (Sz.ofCode (t.low.extractLsb' 17 3)).bind fun sz => (Scope.ofCode (t.low.extractLsb' 14 3)).bind fun scope => (AOp.ofCode (t.low.extractLsb' 10 4)).bind fun aop => (ATy.ofCode (t.low.extractLsb' 8 2)).bind fun ty => some <| .ratom t.hdr t.dst t.sa (t.low.extractLsb' 24 8) ⟨(t.low.extractLsb' 20 4), sz, scope, aop, ty, (fb t.low 7), (fb t.low 6)⟩ else none
  | 11 => if t.sa == 0#8 && t.low.extractLsb' 16 16 == 0#16 && t.low.extractLsb' 8 8 == 0#8 then (Sz.ofCode (t.low.extractLsb' 4 3)).bind fun sz => some <| .spop t.hdr t.dst (fb t.low 7) sz (t.low.extractLsb' 0 4) else none
  | 12 => if t.dst == 0#8 && t.low.extractLsb' 25 7 == 0#7 && t.low.extractLsb' 20 4 == 0#4 && t.low.extractLsb' 17 3 == 0#3 && t.low.extractLsb' 14 3 == 0#3 then some (.pref t.hdr t.sa (fb t.low 24) (t.low.extractLsb' 0 14)) else none
  | 13 => if t.low.extractLsb' 24 8 == 0#8 && t.low.extractLsb' 17 3 == 0#3 && t.low.extractLsb' 14 3 == 0#3 then (CctlOp.ofCode t.dst).bind fun op => some <| .cctl t.hdr t.sa op (t.low.extractLsb' 20 4) (t.low.extractLsb' 0 14) else none
  | 14 => if t.low.extractLsb' 16 16 == 0#16 && t.low.extractLsb' 8 8 == 0#8 then some (.xkick t.hdr t.dst t.sa (t.low.extractLsb' 4 4) (fb t.low 3) (t.low.extractLsb' 0 3)) else none
  | _ => none

/-- Opcodes 0x80-0x8F (R82, R83): the instruction of the low opcode digit, or nothing where a field breaks its format. -/
def decodeRow8 (t : TWord) : Option Instr :=
  match (t.opc.extractLsb' 0 4).toNat with
  | 0 => if t.dst == 0#8 && t.low.extractLsb' 16 8 == 0#8 && t.low.extractLsb' 3 13 == 0#13 then (Scope.ofCode (t.low.extractLsb' 0 3)).bind fun scope => some <| .binit t.hdr t.sa (t.low.extractLsb' 24 8) scope else none
  | 1 => if t.low.extractLsb' 16 16 == 0#16 && t.low.extractLsb' 1 15 == 0#15 then some (.barv t.hdr t.dst t.sa (fb t.low 0)) else none
  | 2 => if t.dst == 0#8 && t.low.extractLsb' 0 24 == 0#24 then some (.btx t.hdr t.sa (t.low.extractLsb' 24 8)) else none
  | 3 => if t.dst == 0#8 && t.low.extractLsb' 0 24 == 0#24 then some (.bwait t.hdr t.sa (t.low.extractLsb' 24 8)) else none
  | 4 => if t.low.extractLsb' 0 24 == 0#24 then some (.btest t.hdr t.dst t.sa (t.low.extractLsb' 24 8)) else none
  | 5 => if t.dst == 0#8 && t.sa == 0#8 && t.low.extractLsb' 16 16 == 0#16 && t.low.extractLsb' 7 9 == 0#9 then (Level.ofCode (t.low.extractLsb' 4 3)).bind fun level => some <| .dbar t.hdr level (t.low.extractLsb' 0 4) else none
  | 6 => if t.dst == 0#8 && t.sa == 0#8 && t.low.extractLsb' 24 8 == 0#8 && t.low.extractLsb' 19 5 == 0#5 then (Scope.ofCode (t.low.extractLsb' 16 3)).bind fun scope => some <| .fence t.hdr scope (t.low.extractLsb' 0 16) else none
  | 7 => if t.dst == 0#8 && t.sa == 0#8 && t.low.extractLsb' 16 16 == 0#16 && t.low.extractLsb' 9 7 == 0#7 then (Eng.ofCode (t.low.extractLsb' 6 3)).bind fun eng => some <| .waitc t.hdr eng (t.low.extractLsb' 0 6) else none
  | 8 => if t.low.extractLsb' 0 8 == 0#8 then (Sz.ofCode (t.low.extractLsb' 17 3)).bind fun sz => (Scope.ofCode (t.low.extractLsb' 14 3)).bind fun scope => (PollCond.ofCode (t.low.extractLsb' 11 3)).bind fun cond => some <| .poll t.hdr t.dst t.sa (t.low.extractLsb' 24 8) ⟨(t.low.extractLsb' 20 4), sz, scope, cond, (fb t.low 10), (t.low.extractLsb' 8 2)⟩ else none
  | 9 => if t.dst == 0#8 && t.low.extractLsb' 16 16 == 0#16 then some (.gate t.hdr t.sa (t.low.extractLsb' 0 16)) else none
  | 10 => if t.low.extractLsb' 16 16 == 0#16 && t.low.extractLsb' 3 13 == 0#13 then some (.qmap t.hdr t.dst t.sa (fb t.low 2) (t.low.extractLsb' 0 2)) else none
  | 11 => if t.low.extractLsb' 16 16 == 0#16 && t.low.extractLsb' 8 8 == 0#8 && t.low.extractLsb' 3 1 == 0#1 then some (.qpush t.hdr t.dst t.sa (t.low.extractLsb' 4 4) (fb t.low 2) (t.low.extractLsb' 0 2)) else none
  | 12 => if t.sa == 0#8 && t.low.extractLsb' 16 16 == 0#16 && t.low.extractLsb' 2 14 == 0#14 then some (.qclose t.hdr t.dst (t.low.extractLsb' 0 2)) else none
  | 13 => if t.dst == 0#8 && t.sa == 0#8 && t.low.extractLsb' 16 16 == 0#16 && t.low.extractLsb' 2 14 == 0#14 then some (.role t.hdr (t.low.extractLsb' 0 2)) else none
  | 14 => if t.low.extractLsb' 16 8 == 0#8 && t.low.extractLsb' 8 8 == 0#8 then some (.trnew t.hdr t.dst t.sa (t.low.extractLsb' 24 8) (t.low.extractLsb' 0 8)) else none
  | 15 => if t.low.extractLsb' 0 24 == 0#24 then some (.trres t.hdr t.dst t.sa (t.low.extractLsb' 24 8)) else none
  | _ => none

/-- Opcodes 0x90-0x9F (R82, R83): the instruction of the low opcode digit, or nothing where a field breaks its format. -/
def decodeRow9 (t : TWord) : Option Instr :=
  match (t.opc.extractLsb' 0 4).toNat with
  | 0 => if t.dst == 0#8 && t.low.extractLsb' 3 1 == 0#1 then (Sz.ofCode (t.low.extractLsb' 0 3)).bind fun sz => some <| .trst t.hdr t.sa (t.low.extractLsb' 24 8) (t.low.extractLsb' 16 8) (t.low.extractLsb' 4 12) sz else none
  | 1 => if t.low.extractLsb' 0 16 == 0#16 then some (.trcommit t.hdr t.dst t.sa (t.low.extractLsb' 24 8) (t.low.extractLsb' 16 8)) else none
  | 2 => if t.low.extractLsb' 0 32 == 0#32 then some (.trlen t.hdr t.dst t.sa) else none
  | 3 => if t.low.extractLsb' 0 24 == 0#24 then some (.trwait t.hdr t.dst t.sa (t.low.extractLsb' 24 8)) else none
  | 4 => if t.low.extractLsb' 16 8 == 0#8 && t.low.extractLsb' 8 8 == 0#8 then some (.trfork t.hdr t.dst t.sa (t.low.extractLsb' 24 8) (t.low.extractLsb' 0 8)) else none
  | 5 => if t.low.extractLsb' 0 32 == 0#32 then some (.trrel t.hdr t.dst t.sa) else none
  | 6 => if t.low.extractLsb' 16 16 == 0#16 && t.low.extractLsb' 6 10 == 0#10 then some (.launch t.hdr t.dst t.sa (t.low.extractLsb' 0 6)) else none
  | 7 => if t.dst == 0#8 && t.low.extractLsb' 16 16 == 0#16 && t.low.extractLsb' 9 7 == 0#7 then some (.mile t.hdr t.sa (fb t.low 8) (t.low.extractLsb' 0 8)) else none
  | _ => none

/-- Opcodes 0xA0-0xAF (R82, R83): the instruction of the low opcode digit, or nothing where a field breaks its format. -/
def decodeRowA (t : TWord) : Option Instr :=
  match (t.opc.extractLsb' 0 4).toNat with
  | 0 => if t.dst == 0#8 && t.sa == 0#8 then some (.bra t.hdr t.low) else none
  | 1 => if t.dst == 0#8 && t.low.extractLsb' 0 32 == 0#32 then some (.brx t.hdr t.sa) else none
  | 2 => if t.dst == 0#8 && t.sa == 0#8 then some (.call t.hdr t.low) else none
  | 3 => if t.dst == 0#8 && t.low.extractLsb' 0 32 == 0#32 then some (.callx t.hdr t.sa) else none
  | 4 => if t.dst == 0#8 && t.low.extractLsb' 0 32 == 0#32 then some (.ret t.hdr t.sa) else none
  | 5 => if t.dst == 0#8 && t.sa == 0#8 && t.low.extractLsb' 0 32 == 0#32 then some (.exit t.hdr) else none
  | 6 => if t.dst == 0#8 && t.sa == 0#8 && t.low.extractLsb' 16 16 == 0#16 then some (.snooze t.hdr (t.low.extractLsb' 0 16)) else none
  | 7 => if t.dst == 0#8 && t.sa == 0#8 && t.low.extractLsb' 0 32 == 0#32 then some (.nop t.hdr) else none
  | 8 => if t.dst == 0#8 && t.sa == 0#8 && t.low.extractLsb' 16 16 == 0#16 then some (.trap t.hdr (t.low.extractLsb' 0 16)) else none
  | 9 => if t.dst == 0#8 && t.sa == 0#8 && t.low.extractLsb' 16 16 == 0#16 then some (.bkpt t.hdr (t.low.extractLsb' 0 16)) else none
  | 10 => if t.sa == 0#8 && t.low.extractLsb' 16 16 == 0#16 then some (.sysr t.hdr t.dst (fb t.low 15) (t.low.extractLsb' 0 15)) else none
  | 11 => if t.dst == 0#8 && t.low.extractLsb' 16 16 == 0#16 then some (.sysw t.hdr t.sa (fb t.low 15) (t.low.extractLsb' 0 15)) else none
  | 12 => if t.dst == 0#8 && t.sa == 0#8 && t.low.extractLsb' 0 32 == 0#32 then some (.eret t.hdr) else none
  | _ => none

/-- Opcodes 0xC0-0xCF (R82, R83): the instruction of the low opcode digit, or nothing where a field breaks its format. -/
def decodeRowC (t : TWord) : Option Instr :=
  match (t.opc.extractLsb' 0 4).toNat with
  | 0 => if t.low.extractLsb' 16 8 == 0#8 && t.low.extractLsb' 2 14 == 0#14 then (CrcSz.ofCode (t.low.extractLsb' 0 2)).bind fun sz => some <| .crcw t.hdr t.dst t.sa (t.low.extractLsb' 24 8) sz else none
  | _ => none

/-- The instruction of a word's fields (R82), before the checks of kinds. -/
def decodeFields (t : TWord) : Option Instr :=
  match (t.opc.extractLsb' 4 4).toNat with
  | 0 => decodeRow0 t
  | 1 => decodeRow1 t
  | 2 => decodeRow2 t
  | 3 => decodeRow3 t
  | 4 => decodeRow4 t
  | 6 => decodeRow6 t
  | 8 => decodeRow8 t
  | 9 => decodeRow9 t
  | 10 => decodeRowA t
  | 12 => decodeRowC t
  | _ => none

/-- Checks 1 to 4 of R84 on a thread word: a reserved opcode and an unimplemented extension are instructions of their own,
every other breach is ILLEGAL_ENCODING. -/
def decodeThread (w : BitVec 64) : Except DecodeErr Instr :=
  if opcReserved (opcOf w) then .ok (.reservedOpcode w)
  else if w.extractLsb' 48 4 == 0xF#4 then .error .illegalEncoding
  else if opcExt (opcOf w) then .ok (.extEmulate w)
  else
    match decodeFields (TWord.ofBits w) with
    | some i => if i.wf then .ok i else .error .illegalEncoding
    | none => .error .illegalEncoding

/-- The guard of a slot (R99), none for a reserved value. -/
def SGuard.ofCode (g : BitVec 4) : Option SGuard :=
  if g == 0#4 then some .always else if fb g 3 then some (.sg (g.extractLsb' 0 3)) else none
/-- The bits of a guard (R99). -/
def SGuard.code : SGuard → BitVec 4
  | .always => 0#4
  | .sg i => 1#1 ++ i
/-- An operand location (R102). -/
def Loc.ofCode (c : BitVec 5) : Loc := if fb c 4 then .tile (c.extractLsb' 0 4) else .ring (c.extractLsb' 0 4)
/-- The bits of an operand location (R102). -/
def Loc.code : Loc → BitVec 5
  | .ring n => 0#1 ++ n
  | .tile n => 1#1 ++ n
/-- A format selector (R103), none for 0xA-0xE. -/
def FSel.ofCode (c : BitVec 4) : Option FSel :=
  if c == 0xF#4 then some .table else (Fmt.ofCode c).map .fmt
/-- The bits of a format selector (R103). -/
def FSel.code : FSel → BitVec 4
  | .table => 0xF#4
  | .fmt f => f.code
/-- A vector operand (R106), with the literal that V + T form, none for a value that names nothing. -/
def VOp.ofCode (c : BitVec 6) (lit : Option (BitVec 32)) : Option VOp :=
  if c.extractLsb' 4 2 == 0#2 then some (.w (c.extractLsb' 0 4))
  else if c.extractLsb' 2 4 == 4#4 then some (.pt (c.extractLsb' 0 2))
  else if c.extractLsb' 2 4 == 6#4 then some (.ix (c.extractLsb' 0 2))
  else if c == 0x3F#6 then some .wz
  else if c == 0x3E#6 then lit.map .lit
  else none
/-- The bits of a vector operand (R106). -/
def VOp.code : VOp → BitVec 6
  | .w n => 0#2 ++ n
  | .pt n => 4#4 ++ n
  | .ix n => 6#4 ++ n
  | .lit _ => 0x3E#6
  | .wz => 0x3F#6
/-- The literal of a vector operand. -/
def VOp.litOf : VOp → Option (BitVec 32)
  | .lit x => some x
  | _ => none

/-- The instruction if its fields are in their kinds (check 4 of R111). -/
def wfOnly (i : Instr) : Option Instr := if i.wf then some i else none

/-- The instruction of an S slot (R104), with the M slot's bits where SUR.M gives them to it (R100). -/
def decodeS (w : BitVec 40) (long : Option (BitVec 40)) : Option Instr :=
  let op := (w.extractLsb' 35 5).toNat
  if op == 0 then (if w == 0#40 then some .snop else none)
  else (SGuard.ofCode (w.extractLsb' 31 4)).bind fun g =>
    let d := w.extractLsb' 26 5
    let a := w.extractLsb' 21 5
    let b := w.extractLsb' 16 5
    let lo := w.extractLsb' 0 16
    let zd := d == 0#5
    let za := a == 0#5
    let zb := b == 0#5
    let zl := lo == 0#16
    match long with
    | some m => if op == 12 && w.extractLsb' 24 2 == 0#2 then some (.smoviLong g d (w.extractLsb' 0 24 ++ m)) else none
    | none =>
      match op with
      | 1 => if zl then some (.sadd g d a b) else none
      | 2 => if zb then some (.saddi g d a lo) else none
      | 3 => if zl then some (.ssub g d a b) else none
      | 4 => if zl then some (.smul g d a b) else none
      | 5 => if zl then some (.sand g d a b) else none
      | 6 => if zl then some (.sor g d a b) else none
      | 7 => if zl then some (.sxor g d a b) else none
      | 8 => if zl then some (.sshl g d a b) else none
      | 9 => if zl then some (.sshr g d a b) else none
      | 10 => if zl then some (.ssar g d a b) else none
      | 11 => if zb && zl then some (.smov g d a) else none
      | 12 => some (.smovi g d (w.extractLsb' 0 26))
      | 13 => if w.extractLsb' 3 13 == 0#13 then (SCond.ofCode (w.extractLsb' 0 3)).map (.scmp g d a b) else none
      | 14 => if w.extractLsb' 5 11 == 0#11 then some (.ssel g d a b (w.extractLsb' 0 5)) else none
      | 15 => if zb then wfOnly (.sld g d a lo) else none
      | 16 => if zb then wfOnly (.sst g d a lo) else none
      | 17 => if zd && zb then some (.sbr g a lo) else none
      | 18 => if zd then some (.sjmp g (w.extractLsb' 0 26)) else none
      | 19 => some (.scall g d (w.extractLsb' 0 26))
      | 20 => if zd && zb && zl then some (.sret g a) else none
      | 21 => if w.extractLsb' 29 2 == 0#2 && zb && w.extractLsb' 4 12 == 0#12 then
          wfOnly (.loop g (w.extractLsb' 26 3) a (w.extractLsb' 0 4)) else none
      | 22 => if w.extractLsb' 29 2 == 0#2 && za && zb then wfOnly (.lbr g (w.extractLsb' 26 3) lo) else none
      | 23 => if w.extractLsb' 28 3 == 0#3 && zb then wfOnly (.pcfg g (w.extractLsb' 26 2) a lo) else none
      | 24 =>
        if fb w 15 then
          (if zd && za && zb && w.extractLsb' 3 12 == 0#12 then wfOnly (.fmtwSel g (w.extractLsb' 0 3)) else none)
        else if w.extractLsb' 30 1 == 0#1 && zb && zl then some (.fmtw g (w.extractLsb' 26 4) a) else none
      | 25 => if zd && za && zb && w.extractLsb' 9 7 == 0#7 then
          (Eng.ofCode (w.extractLsb' 6 3)).map fun e => .waite g e (w.extractLsb' 0 6) else none
      | 26 => if w.extractLsb' 29 2 == 0#2 && za && zb then
          (Scope.ofCode (w.extractLsb' 26 3)).map fun sc => .sfence g sc lo else none
      | 27 => if za && zb then wfOnly (.sysrd g d lo) else none
      | 28 => if zd && za && zb then some (.trapt g lo) else none
      | 29 => if zd && za && zb then some (.rgate g lo) else none
      | _ => none

/-- The instruction of an M slot (R105). -/
def decodeM (w : BitVec 40) : Option Instr :=
  let op := (w.extractLsb' 37 3).toNat
  if op == 0 then (if w == 0#40 then some .mnop else none)
  else (SGuard.ofCode (w.extractLsb' 33 4)).bind fun g =>
    match op with
    | 1 => if w.extractLsb' 0 10 == 0#10 then
        wfOnly (.mnest g (w.extractLsb' 30 3) (w.extractLsb' 25 5) (w.extractLsb' 20 5) (w.extractLsb' 15 5) (w.extractLsb' 10 5))
        else none
    | 2 =>
      if w.extractLsb' 0 9 == 0#9 then
        (FSel.ofCode (w.extractLsb' 19 4)).bind fun fa => (FSel.ofCode (w.extractLsb' 15 4)).bind fun fbs =>
          if fb w 14 then
            wfOnly (.msrc g (Loc.ofCode (w.extractLsb' 28 5)) (Loc.ofCode (w.extractLsb' 23 5)) fa fbs (some (Loc.ofCode (w.extractLsb' 9 5))))
          else if w.extractLsb' 9 5 == 0#5 then
            wfOnly (.msrc g (Loc.ofCode (w.extractLsb' 28 5)) (Loc.ofCode (w.extractLsb' 23 5)) fa fbs none)
          else none
      else none
    | 3 => if w.extractLsb' 0 21 == 0#21 then some (.macc g (w.extractLsb' 22 11) (fb w 21)) else none
    | 4 => if w.extractLsb' 0 32 == 0#32 then some (.mgo g (fb w 32)) else none
    | 5 => if w.extractLsb' 0 23 == 0#23 then
        (FSel.ofCode (w.extractLsb' 24 4)).bind fun f => wfOnly (.mret g (Loc.ofCode (w.extractLsb' 28 5)) f (fb w 23))
        else none
    | _ => none

/-- The V opcodes that take a literal (R100). -/
def vLong (op : Nat) : Bool := (2 ≤ op && op ≤ 7) || op == 13 || op == 15

/-- The instruction of a V slot (R106, R107), with the T slot's bits where SUR.T gives them to it (R100). -/
def decodeV (w : BitVec 56) (long : Option (BitVec 24)) : Option Instr :=
  let op := (w.extractLsb' 51 5).toNat
  if op == 0 then (if w == 0#56 then some .vnop else none)
  else (SGuard.ofCode (w.extractLsb' 47 4)).bind fun g =>
    let imm8 := w.extractLsb' 0 8
    let lit : Option (BitVec 32) := long.map (· ++ imm8)
    let fld := w.extractLsb' 19 4
    let md := w.extractLsb' 8 11
    let zb := w.extractLsb' 29 6 == 0#6
    let zc := w.extractLsb' 23 6 == 0#6
    let zm := md == 0#11
    if (long.isNone && imm8 != 0#8) || (long.isSome && !vLong op) || (long.isSome && w.extractLsb' 29 6 != 0x3E#6) then none
    else
      if op == 17 then
        (if w.extractLsb' 43 4 == 6#4 && zb && zc && zm then
          (VOp.ofCode (w.extractLsb' 35 6) none).bind fun a => (FSel.ofCode fld).bind fun f =>
            wfOnly (.vldix g (w.extractLsb' 41 2) a f)
        else none)
      else
        (VOp.ofCode (w.extractLsb' 41 6) none).bind fun d => (VOp.ofCode (w.extractLsb' 35 6) none).bind fun a =>
        (VOp.ofCode (w.extractLsb' 29 6) lit).bind fun b => (VOp.ofCode (w.extractLsb' 23 6) none).bind fun c =>
        (FSel.ofCode fld).bind fun f =>
        match op with
        | 1 => if zb && zc && zm && fld == 0#4 then wfOnly (.vmov g d a) else none
        | 2 => if zc && zm then wfOnly (.vadd g d a b f) else none
        | 3 => if zc && zm then wfOnly (.vsub g d a b f) else none
        | 4 => if zc && zm then wfOnly (.vmul g d a b f) else none
        | 5 => if zm then wfOnly (.vfma g d a b c f) else none
        | 6 => if zc && zm then wfOnly (.vmax g d a b f) else none
        | 7 => if zc && zm then wfOnly (.vmin g d a b f) else none
        | 8 => if zc && zm then wfOnly (.vexpd g d a b f) else none
        | 9 => if zb && zc && zm then wfOnly (.vrcp g d a f) else none
        | 10 => if zb && zc && md.extractLsb' 6 5 == 0#5 then
            (FSel.ofCode (md.extractLsb' 0 4)).bind fun fs => (Rm.ofCode (md.extractLsb' 4 2)).bind fun rm =>
              wfOnly (.vcvt g d a f fs rm) else none
        | 11 => if zb && zc && md.extractLsb' 2 9 == 0#9 then
            (VrOp.ofCode (md.extractLsb' 0 2)).bind fun o => wfOnly (.vred g d a o f) else none
        | 12 => if zb && zc && md.extractLsb' 3 8 == 0#8 then
            (VrOp.ofCode (md.extractLsb' 0 2)).bind fun o => wfOnly (.vscan g d a o (fb md 2) f) else none
        | 13 => if zc && md.extractLsb' 3 8 == 0#8 then
            (Cond.ofCode (md.extractLsb' 0 3)).bind fun cd => wfOnly (.vcmp g d a b cd f) else none
        | 14 => if zb && zc && md.extractLsb' 5 6 == 0#6 then wfOnly (.vmsk g d a (md.extractLsb' 0 5) f) else none
        | 15 => if zm then wfOnly (.vsel g d a b c f) else none
        | 16 => if zb && zc && md.extractLsb' 9 2 == 0#2 then
            wfOnly (.vtopk g d a (md.extractLsb' 0 7) (md.extractLsb' 7 2) f) else none
        | 18 => if zc && zm then wfOnly (.vsacc g d a b f) else none
        | _ => none

/-- The instruction of a T slot (R108). -/
def decodeT (w : BitVec 24) : Option Instr :=
  let op := (w.extractLsb' 22 2).toNat
  if op == 0 then (if w == 0#24 then some .tnop else none)
  else (SGuard.ofCode (w.extractLsb' 18 4)).bind fun g =>
    match op with
    | 1 => if w.extractLsb' 0 10 == 0#10 then some (.trn g (w.extractLsb' 14 4) (w.extractLsb' 10 4)) else none
    | 2 => if w.extractLsb' 0 6 == 0#6 then
        (FSel.ofCode (w.extractLsb' 6 4)).bind fun f => wfOnly (.trnc g (w.extractLsb' 14 4) (w.extractLsb' 10 4) f) else none
    | _ => none

/-- CMOD32 of a copy command (R291), none where a bit it leaves zero is set. -/
def CMod.ofCode (c : BitVec 32) : Option CMod :=
  if c.extractLsb' 27 5 == 0#5 && c.extractLsb' 12 1 == 0#1 && c.extractLsb' 0 3 == 0#3 then
    let rest := fun (xf : Option Fmt) =>
      (⟨fb c 15, fb c 14, fb c 13, xf, c.extractLsb' 4 4, fb c 3, fb c 26, c.extractLsb' 16 10⟩ : CMod)
    if c.extractLsb' 8 4 == 0#4 then some (rest none) else (Fmt.ofCode (c.extractLsb' 8 4)).map fun f => rest (some f)
  else none
/-- The bits of XF (R291). -/
def xfCode : Option Fmt → BitVec 4
  | none => 0#4
  | some f => f.code
/-- The upper and lower halves of CMOD32 (R291). -/
def CMod.code (m : CMod) : BitVec 16 × BitVec 16 :=
  (0#5 ++ bv m.dside ++ m.tens2, bv m.side ++ bv m.bar ++ bv m.ver ++ 0#1 ++ xfCode m.xf ++ m.pl ++ bv m.mid ++ 0#3)

/-- The instruction of a C slot (R109, R290), with the X slot's bits where SUR.X gives them to it (R100). -/
def decodeC (w : BitVec 48) (long : Option (BitVec 16)) : Option Instr :=
  let op := (w.extractLsb' 45 3).toNat
  if op == 0 then (if w == 0#48 && long.isNone then some .cnop else none)
  else (SGuard.ofCode (w.extractLsb' 41 4)).bind fun g =>
    let hi : BitVec 16 := long.getD 0#16
    let c : CFld := ⟨w.extractLsb' 31 10, Loc.ofCode (w.extractLsb' 26 5), w.extractLsb' 21 5, w.extractLsb' 17 4, fb w 16⟩
    let m := CMod.ofCode (hi ++ w.extractLsb' 0 16)
    match op with
    | 1 => m.bind fun m => wfOnly (.cld g c m)
    | 2 => m.bind fun m => wfOnly (.cst g c m)
    | 3 => if hi == 0#16 && w.extractLsb' 0 1 == 0#1 then
        wfOnly (.cgat g c (w.extractLsb' 14 2) (w.extractLsb' 8 6) (w.extractLsb' 2 6) (fb w 1)) else none
    | 4 => m.bind fun m => wfOnly (.cpre g c m)
    | 5 => if long.isSome then m.bind fun m => wfOnly (.cmc g c m) else none
    | 6 => m.bind fun m => wfOnly (.csum g c m)
    | 7 => if hi == 0#16 && w.extractLsb' 0 16 == 0#16 && c.tens == 0#10 && c.cls == 0#4 && !c.rel && w.extractLsb' 30 1 == 0#1 then
        some (.cring g (w.extractLsb' 26 4) c.sc) else none
    | _ => none

/-- The instruction of an X slot (R110). -/
def decodeX (w : BitVec 16) : Option Instr :=
  let op := (w.extractLsb' 14 2).toNat
  if op == 0 then (if w == 0#16 then some .xnop else none)
  else (SGuard.ofCode (w.extractLsb' 10 4)).bind fun g =>
    if w.extractLsb' 0 1 == 0#1 then
      match op with
      | 1 => some (.xs2t g (w.extractLsb' 1 4) (w.extractLsb' 5 5))
      | 2 => some (.xt2s g (w.extractLsb' 5 5) (w.extractLsb' 1 4))
      | _ => none
    else none

/-- A decoded bundle (R93, R94): its waymark and yield bits and the instruction of each slot that no long immediate takes. -/
structure Bundle where
  wm : Bool
  yld : Bool
  s : Instr
  m : Option Instr
  v : Instr
  t : Option Instr
  c : Instr
  x : Option Instr
  deriving DecidableEq, Repr

/-- Check 1 of R111 fails. -/
def bundleHeaderBad (b : BitVec 256) : Bool :=
  b.extractLsb' 224 24 != 0#24 || fb b 255 || fb b 253 || fb b 251 || (fb b 248 && !fb b 249)
/-- Check 2 of R111 fails. -/
def bundleUnassigned (b : BitVec 256) : Bool :=
  decide (30 ≤ (b.extractLsb' 219 5).toNat) || (!fb b 254 && decide (6 ≤ (b.extractLsb' 181 3).toNat)) ||
  decide (19 ≤ (b.extractLsb' 139 5).toNat) || (!fb b 252 && b.extractLsb' 86 2 == 3#2) || (!fb b 250 && b.extractLsb' 14 2 == 3#2)
/-- Check 3 of R111 fails. -/
def bundleSurBad (b : BitVec 256) : Bool :=
  (fb b 254 && (b.extractLsb' 219 5).toNat != 12) ||
  (fb b 252 && (!vLong (b.extractLsb' 139 5).toNat || b.extractLsb' 117 6 != 0x3E#6)) ||
  (fb b 250 && (b.extractLsb' 61 3).toNat == 0)

/-- Checks 1 to 4 of R111, in order. -/
def decodeBundle (b : BitVec 256) : Except DecodeErr Bundle :=
  if bundleHeaderBad b then .error .illegalEncoding
  else if bundleUnassigned b then .error .illegalOpcode
  else if bundleSurBad b then .error .illegalEncoding
  else
    let mw := b.extractLsb' 144 40
    let tw := b.extractLsb' 64 24
    let xw := b.extractLsb' 0 16
    let slot := fun (taken : Bool) (i : Option Instr) => if taken then some none else i.map some
    let r := (decodeS (b.extractLsb' 184 40) (if fb b 254 then some mw else none)).bind fun s =>
      (slot (fb b 254) (decodeM mw)).bind fun m =>
      (decodeV (b.extractLsb' 88 56) (if fb b 252 then some tw else none)).bind fun v =>
      (slot (fb b 252) (decodeT tw)).bind fun t =>
      (decodeC (b.extractLsb' 16 48) (if fb b 250 then some xw else none)).bind fun c =>
      (slot (fb b 250) (decodeX xw)).map fun x => (⟨fb b 249, fb b 248, s, m, v, t, c, x⟩ : Bundle)
    match r with
    | some bd => .ok bd
    | none => .error .illegalEncoding

/-- The slot instructions of a bundle in the order S, M, V, T, C, X. -/
def Bundle.slots (b : Bundle) : List Instr :=
  [b.s] ++ b.m.toList ++ [b.v] ++ b.t.toList ++ [b.c] ++ b.x.toList

/-- The words of an instruction: a thread word, a slot's local bits with the right-hand slot of a long form, or none for a step that no word encodes. -/
inductive Code
  | thread (w : BitVec 64)
  | s (w : BitVec 40) (long : Option (BitVec 40))
  | m (w : BitVec 40)
  | v (w : BitVec 56) (long : Option (BitVec 24))
  | t (w : BitVec 24)
  | c (w : BitVec 48) (long : Option (BitVec 16))
  | x (w : BitVec 16)
  | event
  deriving DecidableEq, Repr

/-- The instruction of some words (R84, R111). -/
def decode : Code → Except DecodeErr Instr
  | .thread w => decodeThread w
  | .s w l => match decodeS w l with | some i => .ok i | none => .error .illegalEncoding
  | .m w => match decodeM w with | some i => .ok i | none => .error .illegalEncoding
  | .v w l => match decodeV w l with | some i => .ok i | none => .error .illegalEncoding
  | .t w => match decodeT w with | some i => .ok i | none => .error .illegalEncoding
  | .c w l => match decodeC w l with | some i => .ok i | none => .error .illegalEncoding
  | .x w => match decodeX w with | some i => .ok i | none => .error .illegalEncoding
  | .event => .error .illegalEncoding

/-- The fields of a thread word (R75, R79-R83, R158-R181, R260-R264, R281, R286, R332, R344, R388, R389). -/
def encodeFields : Instr → Option TWord
  | .iadd h d a b sat => some ⟨0x00#8, h, d, a, (b ++ 0#8 ++ 0#14 ++ sat.code)⟩
  | .iaddi h d a imm => some ⟨0x01#8, h, d, a, imm⟩
  | .isub h d a b sat => some ⟨0x02#8, h, d, a, (b ++ 0#8 ++ 0#14 ++ sat.code)⟩
  | .imul h d a b => some ⟨0x03#8, h, d, a, (b ++ 0#8 ++ 0#16)⟩
  | .imuli h d a imm => some ⟨0x04#8, h, d, a, imm⟩
  | .imulh h d a b u => some ⟨0x05#8, h, d, a, (b ++ 0#8 ++ 0#15 ++ bv u)⟩
  | .imad h d a b c => some ⟨0x06#8, h, d, a, (b ++ c ++ 0#16)⟩
  | .imadw h d a b c u => some ⟨0x07#8, h, d, a, (b ++ c ++ 0#15 ++ bv u)⟩
  | .imin h d a b u => some ⟨0x08#8, h, d, a, (b ++ 0#8 ++ 0#15 ++ bv u)⟩
  | .imax h d a b u => some ⟨0x09#8, h, d, a, (b ++ 0#8 ++ 0#15 ++ bv u)⟩
  | .iabs h d a sat => some ⟨0x0A#8, h, d, a, (0#16 ++ 0#15 ++ bv sat)⟩
  | .ineg h d a sat => some ⟨0x0B#8, h, d, a, (0#16 ++ 0#15 ++ bv sat)⟩
  | .tlog h d a b c tt => some ⟨0x0C#8, h, d, a, (b ++ c ++ 0#8 ++ tt)⟩
  | .tlogi h d a imm tt => some ⟨0x0D#8, h, d, a, (0#4 ++ tt ++ imm)⟩
  | .shl h d a b => some ⟨0x0E#8, h, d, a, (b ++ 0#8 ++ 0#16)⟩
  | .shli h d a amt => some ⟨0x0F#8, h, d, a, (0#27 ++ amt)⟩
  | .shr h d a b => some ⟨0x10#8, h, d, a, (b ++ 0#8 ++ 0#16)⟩
  | .shri h d a amt => some ⟨0x11#8, h, d, a, (0#27 ++ amt)⟩
  | .sar h d a b => some ⟨0x12#8, h, d, a, (b ++ 0#8 ++ 0#16)⟩
  | .sari h d a amt => some ⟨0x13#8, h, d, a, (0#27 ++ amt)⟩
  | .fshf h d a b c r => some ⟨0x14#8, h, d, a, (b ++ c ++ 0#15 ++ bv r)⟩
  | .popc h d a => some ⟨0x15#8, h, d, a, (0#16 ++ 0#16)⟩
  | .clz h d a => some ⟨0x16#8, h, d, a, (0#16 ++ 0#16)⟩
  | .brev h d a => some ⟨0x17#8, h, d, a, (0#16 ++ 0#16)⟩
  | .bfx h d a b sx => some ⟨0x18#8, h, d, a, (b ++ 0#8 ++ 0#15 ++ bv sx)⟩
  | .bfi h d a b c => some ⟨0x19#8, h, d, a, (b ++ c ++ 0#16)⟩
  | .isetp h p a b pc cond u bop => some ⟨0x1A#8, h, (0#5 ++ p), a, (b ++ 0#5 ++ pc ++ 0#10 ++ bop.code ++ bv u ++ cond.code)⟩
  | .isetpi h p a imm cond u => some ⟨0x1B#8, h, (0#5 ++ p), a, (0#4 ++ bv u ++ cond.code ++ imm)⟩
  | .iadd64 h d a b => some ⟨0x1C#8, h, d, a, (b ++ 0#8 ++ 0#16)⟩
  | .lea64 h d a b sx sh => some ⟨0x1D#8, h, d, a, (b ++ 0#8 ++ 0#12 ++ bv sx ++ sh)⟩
  | .iclamp h d a b c u => some ⟨0x1E#8, h, d, a, (b ++ c ++ 0#15 ++ bv u)⟩
  | .idot4 h d a b c ua ub sat => some ⟨0x1F#8, h, d, a, (b ++ c ++ 0#13 ++ bv sat ++ bv ub ++ bv ua)⟩
  | .fadd h d a b rm nb => some ⟨0x20#8, h, d, a, (b ++ 0#8 ++ 0#13 ++ bv nb ++ rm.code)⟩
  | .faddi h d a imm => some ⟨0x21#8, h, d, a, imm⟩
  | .fmul h d a b rm => some ⟨0x22#8, h, d, a, (b ++ 0#8 ++ 0#14 ++ rm.code)⟩
  | .fmuli h d a imm => some ⟨0x23#8, h, d, a, imm⟩
  | .ffma h d a b c rm np nc => some ⟨0x24#8, h, d, a, (b ++ c ++ 0#12 ++ bv nc ++ bv np ++ rm.code)⟩
  | .fmin h d a b => some ⟨0x25#8, h, d, a, (b ++ 0#8 ++ 0#16)⟩
  | .fmax h d a b => some ⟨0x26#8, h, d, a, (b ++ 0#8 ++ 0#16)⟩
  | .fsetp h p a b pc cond u bop => some ⟨0x27#8, h, (0#5 ++ p), a, (b ++ 0#5 ++ pc ++ 0#10 ++ bop.code ++ bv u ++ cond.code)⟩
  | .frcp h d a => some ⟨0x28#8, h, d, a, (0#16 ++ 0#16)⟩
  | .frsq h d a => some ⟨0x29#8, h, d, a, (0#16 ++ 0#16)⟩
  | .fex2 h d a => some ⟨0x2A#8, h, d, a, (0#16 ++ 0#16)⟩
  | .flg2 h d a => some ⟨0x2B#8, h, d, a, (0#16 ++ 0#16)⟩
  | .fsin h d a => some ⟨0x2C#8, h, d, a, (0#16 ++ 0#16)⟩
  | .fcos h d a => some ⟨0x2D#8, h, d, a, (0#16 ++ 0#16)⟩
  | .frnd h d a rm => some ⟨0x2E#8, h, d, a, (0#16 ++ 0#14 ++ rm.code)⟩
  | .fclass h d a => some ⟨0x2F#8, h, d, a, (0#16 ++ 0#16)⟩
  | .hadd2 h d a b rm bf => some ⟨0x30#8, h, d, a, (b ++ 0#8 ++ 0#13 ++ bv bf ++ rm.code)⟩
  | .hmul2 h d a b rm bf => some ⟨0x31#8, h, d, a, (b ++ 0#8 ++ 0#13 ++ bv bf ++ rm.code)⟩
  | .hfma2 h d a b c rm bf => some ⟨0x32#8, h, d, a, (b ++ c ++ 0#13 ++ bv bf ++ rm.code)⟩
  | .hsetp2 h p a b pc cond u bop bf any => some ⟨0x33#8, h, (0#5 ++ p), a, (b ++ 0#5 ++ pc ++ 0#8 ++ bv any ++ bv bf ++ bop.code ++ bv u ++ cond.code)⟩
  | .cvtif h d a rm src dst => some ⟨0x34#8, h, d, a, (0#16 ++ 0#9 ++ dst.code ++ src.code ++ rm.code)⟩
  | .cvtfi h d a rm src dst => some ⟨0x35#8, h, d, a, (0#16 ++ 0#9 ++ dst.code ++ src.code ++ rm.code)⟩
  | .cvtff h d a rm src dst => some ⟨0x36#8, h, d, a, (0#16 ++ 0#10 ++ dst.code ++ src.code ++ rm.code)⟩
  | .cvtt h d a s tf6 dec => some ⟨0x37#8, h, d, a, (0#16 ++ 0#2 ++ s ++ 0#6 ++ bv tf6 ++ bv dec)⟩
  | .fscale h d a b rm => some ⟨0x38#8, h, d, a, (b ++ 0#8 ++ 0#14 ++ rm.code)⟩
  | .mov h d a => some ⟨0x40#8, h, d, a, (0#16 ++ 0#16)⟩
  | .movi h d imm => some ⟨0x41#8, h, d, 0#8, imm⟩
  | .sel h d a b pc => some ⟨0x42#8, h, d, a, (b ++ 0#5 ++ pc ++ 0#16)⟩
  | .s2v h d sel => some ⟨0x43#8, h, d, 0#8, (0#16 ++ sel)⟩
  | .lxch h d a b c mode wl => some ⟨0x44#8, h, d, a, (b ++ c ++ 0#11 ++ wl ++ mode.code)⟩
  | .pjoin h p pa b mode => some ⟨0x45#8, h, (0#5 ++ p), (0#5 ++ pa), (b ++ 0#8 ++ 0#14 ++ mode.code)⟩
  | .pmask h d pa b => some ⟨0x46#8, h, d, (0#5 ++ pa), (b ++ 0#24)⟩
  | .leqm h d a b => some ⟨0x47#8, h, d, a, (b ++ 0#8 ++ 0#16)⟩
  | .wscan h d a b op excl ty => some ⟨0x48#8, h, d, a, (b ++ 0#8 ++ 0#11 ++ ty.code ++ bv excl ++ op.code)⟩
  | .wred h d a b op ty => some ⟨0x49#8, h, d, a, (b ++ 0#8 ++ 0#11 ++ ty.code ++ 0#1 ++ op.code)⟩
  | .plop h p pa pb pc tt => some ⟨0x4A#8, h, (0#5 ++ p), (0#5 ++ pa), (0#5 ++ pb ++ 0#5 ++ pc ++ 0#8 ++ tt)⟩
  | .p2v h d => some ⟨0x4B#8, h, d, 0#8, 0#32⟩
  | .v2p h a m => some ⟨0x4C#8, h, 0#8, a, (0#16 ++ 0#9 ++ m)⟩
  | .wsync h a => some ⟨0x4D#8, h, 0#8, a, 0#32⟩
  | .ld h d a f m => some ⟨0x60#8, h, d, a, (bv f.acq ++ bv f.rel ++ f.ch.code ++ bv f.sx ++ 0#3 ++ m.cls ++ m.sz.code ++ m.scope.code ++ m.off)⟩
  | .st h a b f m => some ⟨0x61#8, h, (bv f.acq ++ bv f.rel ++ f.ch.code ++ bv f.sx ++ 0#3), a, (b ++ m.cls ++ m.sz.code ++ m.scope.code ++ m.off)⟩
  | .lds h d a f m => some ⟨0x62#8, h, d, a, (bv f.acq ++ bv f.rel ++ f.ch.code ++ bv f.sx ++ 0#3 ++ m.cls ++ m.sz.code ++ m.scope.code ++ m.off)⟩
  | .sts h a b f m => some ⟨0x63#8, h, (bv f.acq ++ bv f.rel ++ f.ch.code ++ bv f.sx ++ 0#3), a, (b ++ m.cls ++ m.sz.code ++ m.scope.code ++ m.off)⟩
  | .atom h d a b m => some ⟨0x64#8, h, d, a, (b ++ m.cls ++ m.sz.code ++ m.scope.code ++ m.op.code ++ m.ty.code ++ bv m.acq ++ bv m.rel ++ 0#6)⟩
  | .atoms h d a b m => some ⟨0x65#8, h, d, a, (b ++ m.cls ++ m.sz.code ++ m.scope.code ++ m.op.code ++ m.ty.code ++ bv m.acq ++ bv m.rel ++ 0#6)⟩
  | .red h a b m => some ⟨0x66#8, h, 0#8, a, (b ++ m.cls ++ m.sz.code ++ m.scope.code ++ m.op.code ++ m.ty.code ++ bv m.acq ++ bv m.rel ++ 0#6)⟩
  | .acas h d a b m => some ⟨0x67#8, h, d, a, (b ++ m.cls ++ m.sz.code ++ m.scope.code ++ m.op.code ++ m.ty.code ++ bv m.acq ++ bv m.rel ++ 0#6)⟩
  | .rld h d a f m => some ⟨0x68#8, h, d, a, (bv f.acq ++ bv f.rel ++ f.ch.code ++ bv f.sx ++ 0#3 ++ m.cls ++ m.sz.code ++ m.scope.code ++ m.off)⟩
  | .rst h a b f m => some ⟨0x69#8, h, (bv f.acq ++ bv f.rel ++ f.ch.code ++ bv f.sx ++ 0#3), a, (b ++ m.cls ++ m.sz.code ++ m.scope.code ++ m.off)⟩
  | .ratom h d a b m => some ⟨0x6A#8, h, d, a, (b ++ m.cls ++ m.sz.code ++ m.scope.code ++ m.op.code ++ m.ty.code ++ bv m.acq ++ bv m.rel ++ 0#6)⟩
  | .spop h d sx sz ring => some ⟨0x6B#8, h, d, 0#8, (0#16 ++ 0#8 ++ bv sx ++ sz.code ++ ring)⟩
  | .pref h a l1 off => some ⟨0x6C#8, h, 0#8, a, (0#7 ++ bv l1 ++ 0#4 ++ 0#3 ++ 0#3 ++ off)⟩
  | .cctl h a op cls off => some ⟨0x6D#8, h, op.code, a, (0#8 ++ cls ++ 0#3 ++ 0#3 ++ off)⟩
  | .xkick h d a cls rel ring => some ⟨0x6E#8, h, d, a, (0#16 ++ 0#8 ++ cls ++ bv rel ++ ring)⟩
  | .binit h a b scope => some ⟨0x80#8, h, 0#8, a, (b ++ 0#8 ++ 0#13 ++ scope.code)⟩
  | .barv h d a w => some ⟨0x81#8, h, d, a, (0#16 ++ 0#15 ++ bv w)⟩
  | .btx h a b => some ⟨0x82#8, h, 0#8, a, (b ++ 0#24)⟩
  | .bwait h a b => some ⟨0x83#8, h, 0#8, a, (b ++ 0#24)⟩
  | .btest h d a b => some ⟨0x84#8, h, d, a, (b ++ 0#24)⟩
  | .dbar h level id => some ⟨0x85#8, h, 0#8, 0#8, (0#16 ++ 0#9 ++ level.code ++ id)⟩
  | .fence h scope mask => some ⟨0x86#8, h, 0#8, 0#8, (0#8 ++ 0#5 ++ scope.code ++ mask)⟩
  | .waitc h eng n => some ⟨0x87#8, h, 0#8, 0#8, (0#16 ++ 0#7 ++ eng.code ++ n)⟩
  | .poll h d a b m => some ⟨0x88#8, h, d, a, (b ++ m.cls ++ m.sz.code ++ m.scope.code ++ m.cond.code ++ bv m.acq ++ m.bo ++ 0#8)⟩
  | .gate h a mask => some ⟨0x89#8, h, 0#8, a, (0#16 ++ mask)⟩
  | .qmap h d a prod b => some ⟨0x8A#8, h, d, a, (0#16 ++ 0#13 ++ bv prod ++ b)⟩
  | .qpush h d a cls rel b => some ⟨0x8B#8, h, d, a, (0#16 ++ 0#8 ++ cls ++ 0#1 ++ bv rel ++ b)⟩
  | .qclose h d b => some ⟨0x8C#8, h, d, 0#8, (0#16 ++ 0#14 ++ b)⟩
  | .role h r => some ⟨0x8D#8, h, 0#8, 0#8, (0#16 ++ 0#14 ++ r)⟩
  | .trnew h d a b decl => some ⟨0x8E#8, h, d, a, (b ++ 0#8 ++ 0#8 ++ decl)⟩
  | .trres h d a b => some ⟨0x8F#8, h, d, a, (b ++ 0#24)⟩
  | .trst h a b c off sz => some ⟨0x90#8, h, 0#8, a, (b ++ c ++ off ++ 0#1 ++ sz.code)⟩
  | .trcommit h d a b c => some ⟨0x91#8, h, d, a, (b ++ c ++ 0#16)⟩
  | .trlen h d a => some ⟨0x92#8, h, d, a, 0#32⟩
  | .trwait h d a b => some ⟨0x93#8, h, d, a, (b ++ 0#24)⟩
  | .trfork h d a b decl => some ⟨0x94#8, h, d, a, (b ++ 0#8 ++ 0#8 ++ decl)⟩
  | .trrel h d a => some ⟨0x95#8, h, d, a, 0#32⟩
  | .launch h d a q => some ⟨0x96#8, h, d, a, (0#16 ++ 0#10 ++ q)⟩
  | .mile h a sz id => some ⟨0x97#8, h, 0#8, a, (0#16 ++ 0#7 ++ bv sz ++ id)⟩
  | .bra h off => some ⟨0xA0#8, h, 0#8, 0#8, off⟩
  | .brx h a => some ⟨0xA1#8, h, 0#8, a, 0#32⟩
  | .call h off => some ⟨0xA2#8, h, 0#8, 0#8, off⟩
  | .callx h a => some ⟨0xA3#8, h, 0#8, a, 0#32⟩
  | .ret h a => some ⟨0xA4#8, h, 0#8, a, 0#32⟩
  | .exit h => some ⟨0xA5#8, h, 0#8, 0#8, 0#32⟩
  | .snooze h n => some ⟨0xA6#8, h, 0#8, 0#8, (0#16 ++ n)⟩
  | .nop h => some ⟨0xA7#8, h, 0#8, 0#8, 0#32⟩
  | .trap h code => some ⟨0xA8#8, h, 0#8, 0#8, (0#16 ++ code)⟩
  | .bkpt h code => some ⟨0xA9#8, h, 0#8, 0#8, (0#16 ++ code)⟩
  | .sysr h d hi num => some ⟨0xAA#8, h, d, 0#8, (0#16 ++ bv hi ++ num)⟩
  | .sysw h a hi num => some ⟨0xAB#8, h, 0#8, a, (0#16 ++ bv hi ++ num)⟩
  | .eret h => some ⟨0xAC#8, h, 0#8, 0#8, 0#32⟩
  | .crcw h d a b sz => some ⟨0xC0#8, h, d, a, (b ++ 0#8 ++ 0#14 ++ sz.code)⟩
  | _ => none

/-- An S slot's bits: opcode, guard, D, A, B, low field (R104). -/
def sBits (op : BitVec 5) (g : SGuard) (d a b : BitVec 5) (lo : BitVec 16) : Code := .s (op ++ g.code ++ d ++ a ++ b ++ lo) none
/-- An S slot's bits with a 26-bit immediate (R104). -/
def sBits26 (op : BitVec 5) (g : SGuard) (d : BitVec 5) (i : BitVec 26) : Code := .s (op ++ g.code ++ d ++ i) none
/-- A V slot's bits (R106): the literal of VB goes to IMM8 and the T slot (R100). -/
def vBits (op : BitVec 5) (g : SGuard) (d a b c : BitVec 6) (f : BitVec 4) (md : BitVec 11) (lit : Option (BitVec 32)) : Code :=
  match lit with
  | none => .v (op ++ g.code ++ d ++ a ++ b ++ c ++ f ++ md ++ 0#8) none
  | some x => .v (op ++ g.code ++ d ++ a ++ b ++ c ++ f ++ md ++ x.extractLsb' 0 8) (some (x.extractLsb' 8 24))
/-- A C slot's bits (R109): the short form wherever CMOD fits it (R114). -/
def cBits (op : BitVec 3) (g : SGuard) (c : CFld) (long : Bool) (cm : BitVec 16 × BitVec 16) : Code :=
  .c (op ++ g.code ++ c.tens ++ c.loc.code ++ c.sc ++ c.cls ++ bv c.rel ++ cm.2) (if long then some cm.1 else none)

/-- The words of a well-formed instruction (R75-R83, R93-R110). -/
def encode : Instr → Code
  | .reservedOpcode w => .thread w
  | .extEmulate w => .thread w
  | .snop => .s 0#40 none
  | .sadd g d a b => sBits 1 g d a b 0
  | .saddi g d a i => sBits 2 g d a 0 i
  | .ssub g d a b => sBits 3 g d a b 0
  | .smul g d a b => sBits 4 g d a b 0
  | .sand g d a b => sBits 5 g d a b 0
  | .sor g d a b => sBits 6 g d a b 0
  | .sxor g d a b => sBits 7 g d a b 0
  | .sshl g d a b => sBits 8 g d a b 0
  | .sshr g d a b => sBits 9 g d a b 0
  | .ssar g d a b => sBits 10 g d a b 0
  | .smov g d a => sBits 11 g d a 0 0
  | .smovi g d i => sBits26 12 g d i
  | .smoviLong g d i => .s (12#5 ++ g.code ++ d ++ 0#2 ++ i.extractLsb' 40 24) (some (i.extractLsb' 0 40))
  | .scmp g d a b c => sBits 13 g d a b (0#13 ++ c.code)
  | .ssel g d a b c => sBits 14 g d a b (0#11 ++ c)
  | .sld g d a off => sBits 15 g d a 0 off
  | .sst g d a off => sBits 16 g d a 0 off
  | .sbr g a off => sBits 17 g 0 a 0 off
  | .sjmp g off => sBits26 18 g 0 off
  | .scall g d off => sBits26 19 g d off
  | .sret g a => sBits 20 g 0 a 0 0
  | .loop g lc a n => sBits 21 g (0#2 ++ lc) a 0 (0#12 ++ n)
  | .lbr g lc off => sBits 22 g (0#2 ++ lc) 0 0 off
  | .pcfg g pt a off => sBits 23 g (0#1 ++ (0#2 ++ pt)) a 0 off
  | .fmtw g e a => sBits 24 g (0#1 ++ e) a 0 0
  | .fmtwSel g lc => sBits 24 g 0 0 0 (1#1 ++ 0#12 ++ lc)
  | .waite g e n => sBits 25 g 0 0 0 (0#7 ++ e.code ++ n)
  | .sfence g sc m => sBits 26 g (0#2 ++ sc.code) 0 0 m
  | .sysrd g d n => sBits 27 g d 0 0 n
  | .trapt g c => sBits 28 g 0 0 0 c
  | .rgate g m => sBits 29 g 0 0 0 m
  | .mnop => .m 0#40
  | .mnest g l e a b c => .m (1#3 ++ g.code ++ l ++ e ++ a ++ b ++ c ++ 0#10)
  | .msrc g a b fa fbs md =>
    match md with
    | some x => .m (2#3 ++ g.code ++ a.code ++ b.code ++ fa.code ++ fbs.code ++ 1#1 ++ x.code ++ 0#9)
    | none => .m (2#3 ++ g.code ++ a.code ++ b.code ++ fa.code ++ fbs.code ++ 0#1 ++ 0#5 ++ 0#9)
  | .macc g r z => .m (3#3 ++ g.code ++ r ++ bv z ++ 0#21)
  | .mgo g r => .m (4#3 ++ g.code ++ bv r ++ 0#32)
  | .mret g l f r => .m (5#3 ++ g.code ++ l.code ++ f.code ++ bv r ++ 0#23)
  | .vnop => .v 0#56 none
  | .vmov g d a => vBits 1 g d.code a.code 0 0 0 0 none
  | .vadd g d a b f => vBits 2 g d.code a.code b.code 0 f.code 0 b.litOf
  | .vsub g d a b f => vBits 3 g d.code a.code b.code 0 f.code 0 b.litOf
  | .vmul g d a b f => vBits 4 g d.code a.code b.code 0 f.code 0 b.litOf
  | .vfma g d a b c f => vBits 5 g d.code a.code b.code c.code f.code 0 b.litOf
  | .vmax g d a b f => vBits 6 g d.code a.code b.code 0 f.code 0 b.litOf
  | .vmin g d a b f => vBits 7 g d.code a.code b.code 0 f.code 0 b.litOf
  | .vexpd g d a b f => vBits 8 g d.code a.code b.code 0 f.code 0 none
  | .vrcp g d a f => vBits 9 g d.code a.code 0 0 f.code 0 none
  | .vcvt g d a fd fs rm => vBits 10 g d.code a.code 0 0 fd.code (0#5 ++ rm.code ++ fs.code) none
  | .vred g d a o f => vBits 11 g d.code a.code 0 0 f.code (0#9 ++ o.code) none
  | .vscan g d a o e f => vBits 12 g d.code a.code 0 0 f.code (0#8 ++ bv e ++ o.code) none
  | .vcmp g d a b c f => vBits 13 g d.code a.code b.code 0 f.code (0#8 ++ c.code) b.litOf
  | .vmsk g d a s f => vBits 14 g d.code a.code 0 0 f.code (0#6 ++ s) none
  | .vsel g d a b c f => vBits 15 g d.code a.code b.code c.code f.code 0 b.litOf
  | .vtopk g d a k nv f => vBits 16 g d.code a.code 0 0 f.code (0#2 ++ nv ++ k) none
  | .vldix g ix a f => vBits 17 g (6#4 ++ ix) a.code 0 0 f.code 0 none
  | .vsacc g d a b f => vBits 18 g d.code a.code b.code 0 f.code 0 none
  | .tnop => .t 0#24
  | .trn g d s => .t (1#2 ++ g.code ++ d ++ s ++ 0#10)
  | .trnc g d s f => .t (2#2 ++ g.code ++ d ++ s ++ f.code ++ 0#6)
  | .cnop => .c 0#48 none
  | .cld g c m => cBits 1 g c false m.code
  | .cst g c m => cBits 2 g c false m.code
  | .cgat g c ix first nm1 bar => cBits 3 g c false (0, ix ++ first ++ nm1 ++ bv bar ++ 0#1)
  | .cpre g c m => cBits 4 g c false m.code
  | .cmc g c m => cBits 5 g c true m.code
  | .csum g c m => cBits 6 g c false m.code
  | .cring g ring sc => .c (7#3 ++ g.code ++ 0#10 ++ (Loc.ring ring).code ++ sc ++ 0#4 ++ 0#1 ++ 0#16) none
  | .xnop => .x 0#16
  | .xs2t g w s => .x (1#2 ++ g.code ++ s ++ w ++ 0#1)
  | .xt2s g s w => .x (2#2 ++ g.code ++ s ++ w ++ 0#1)
  | i =>
    match encodeFields i with
    | some t => .thread t.word
    | none => .event

/-- The instruction the decoder reads from the bits of a table word: a thread word of 64 bits, a slot's local bits (S or M 40,
V 56, C 48, T 24, X 16; R97), or a bundle of 256 bits that fails decoding. -/
def decodeTableWord (nbits w : Nat) : Option Instr :=
  let okOf := fun (r : Except DecodeErr Instr) => match r with | .ok i => some i | .error _ => none
  match nbits with
  | 64 => okOf (decodeThread (BitVec.ofNat 64 w))
  | 56 => decodeV (BitVec.ofNat 56 w) none
  | 48 => decodeC (BitVec.ofNat 48 w) none
  | 40 => match decodeS (BitVec.ofNat 40 w) none with
    | some i => some i
    | none => decodeM (BitVec.ofNat 40 w)
  | 24 => decodeT (BitVec.ofNat 24 w)
  | 16 => decodeX (BitVec.ofNat 16 w)
  | 256 => match decodeBundle (BitVec.ofNat 256 w) with
    | .ok _ => none
    | .error _ => some (.bundleDecodeTrap (BitVec.ofNat 256 w))
  | _ => none

end Sys2Proof
end

