-- ==== Sys2Proof/Machine/Num.lean ====
section
/-! DEFINITION. Numbers (R134-R147, R151): formats, rounding, conversion, tapered formats, special functions and exact sums. -/
namespace Sys2Proof.Machine

/-- An exact value: NaN, an infinity with its sign, or the real (-1)^s * m * 2^e. -/
inductive Fl
  | nan
  | inf (s : Bool)
  | fin (s : Bool) (m : Nat) (e : Int)
  deriving DecidableEq, Repr

/-- A binary floating-point layout (R134): exponent bits and fraction bits. -/
structure FF where
  eb : Nat
  fb : Nat
  deriving DecidableEq, Repr

/-- FP32, FP16 and BF16 (R134). -/
def ff32 : FF := ⟨8, 23⟩
/-- FP16. -/
def ff16 : FF := ⟨5, 10⟩
/-- BF16. -/
def ffb16 : FF := ⟨8, 7⟩

/-- The exponent bias. -/
def FF.bias (F : FF) : Nat := 2 ^ (F.eb - 1) - 1
/-- The bits of +infinity. -/
def FF.infBits (F : FF) : Nat := (2 ^ F.eb - 1) <<< F.fb
/-- The sign bit. -/
def FF.signBit (F : FF) : Nat := 2 ^ (F.eb + F.fb)
/-- The canonical NaN (R142). -/
def FF.nanBits (F : FF) : Nat := F.infBits + 2 ^ (F.fb - 1)

/-- The value of a bit pattern (R134). -/
def FF.dec (F : FF) (b : Nat) : Fl :=
  let s := bit b (F.eb + F.fb)
  let e := bits b (F.eb + F.fb - 1) F.fb
  let f := b % 2 ^ F.fb
  if e == 2 ^ F.eb - 1 then (if f == 0 then .inf s else .nan)
  else if e == 0 then .fin s f (1 - (F.bias : Int) - F.fb)
  else .fin s (2 ^ F.fb + f) ((e : Int) - F.bias - F.fb)

/-- Numerator and denominator of m * 2^e. -/
def ratio (m : Nat) (e : Int) : Nat × Nat :=
  match e with
  | .ofNat k => (m <<< k, 1)
  | .negSucc k => (m, 1 <<< (k + 1))

/-- Whether rounding the magnitude M + r/d goes up (R140), by direction, sign and the parity of M. -/
def roundUp (rm : Rm) (neg odd : Bool) (r d : Nat) : Bool :=
  match rm with
  | .rn => decide (d < 2 * r) || (2 * r == d && odd)
  | .rz => false
  | .ru => r != 0 && !neg
  | .rd => r != 0 && neg

/-- Round the magnitude p/q, q > 0, of the given sign to the layout (R140); zero keeps the sign. -/
def roundQ (F : FF) (rm : Rm) (neg : Bool) (p q : Nat) : Nat :=
  let sb := if neg then F.signBit else 0
  if p == 0 then sb
  else
    let k0 : Int := (Nat.log2 p : Int) - Nat.log2 q
    let r0 := ratio q k0
    let k := if p * r0.2 < r0.1 then k0 - 1 else k0
    let emin : Int := 1 - (F.bias : Int)
    let e := max k emin
    let t := ratio p (F.fb - e)
    let d := q * t.2
    let m := t.1 / d
    let m' := if roundUp rm neg (m % 2 == 1) (t.1 % d) d then m + 1 else m
    let b := ((e + F.bias - 1).toNat <<< F.fb) + m'
    if F.infBits ≤ b then
      match rm with
      | .rn => sb + F.infBits
      | .rz => sb + (F.infBits - 1)
      | .ru => if neg then sb + (F.infBits - 1) else sb + F.infBits
      | .rd => if neg then sb + F.infBits else sb + (F.infBits - 1)
    else sb + b

/-- Round a value to the layout in a direction (R140, R142); a zero keeps its sign, as IEEE 754 gives it (R143, R161). -/
def roundF (F : FF) (rm : Rm) (x : Fl) : Nat :=
  match x with
  | .nan => F.nanBits
  | .inf s => (if s then F.signBit else 0) + F.infBits
  | .fin s m e => let r := ratio m e; roundQ F rm s r.1 r.2

/-- An exact real zero without a sign (R140; log 8). -/
def Fl.plusZero : Fl → Fl
  | .fin s 0 e => .fin (s && false) 0 e
  | x => x

/-- RNE of R140: ties to even, an exact real 0 gives +0 (log 8). -/
def rne (F : FF) (x : Fl) : Nat := roundF F .rn x.plusZero

/-- The negation. -/
def Fl.neg : Fl → Fl
  | .nan => .nan
  | .inf s => .inf !s
  | .fin s m e => .fin (!s) m e

/-- Whether a value is zero. -/
def Fl.isZero : Fl → Bool
  | .fin _ m _ => m == 0
  | _ => false
/-- Whether a value is a NaN. -/
def Fl.isNan : Fl → Bool
  | .nan => true
  | _ => false
/-- Whether a value is finite. -/
def Fl.isFin : Fl → Bool
  | .fin _ _ _ => true
  | _ => false
/-- Whether a value is infinite. -/
def Fl.isInf : Fl → Bool
  | .inf _ => true
  | _ => false
/-- The sign. -/
def Fl.sign : Fl → Bool
  | .nan => false
  | .inf s => s
  | .fin s _ _ => s

/-- m * 2^e with a sign, as an integer multiple of 2^f, f at most e. -/
def scaledInt (s : Bool) (m : Nat) (e f : Int) : Int :=
  let n : Int := (m <<< (e - f).toNat : Nat)
  if s then -n else n

/-- The exact sum (R161); an exact zero takes the IEEE 754 sign of the direction. -/
def Fl.add (rm : Rm) : Fl → Fl → Fl
  | .nan, _ => .nan
  | _, .nan => .nan
  | .inf a, .inf b => if a == b then .inf a else .nan
  | .inf a, _ => .inf a
  | _, .inf b => .inf b
  | .fin s1 m1 e1, .fin s2 m2 e2 =>
    let f := min e1 e2
    let n := scaledInt s1 m1 e1 f + scaledInt s2 m2 e2 f
    if n == 0 then .fin (if m1 == 0 && m2 == 0 && s1 == s2 then s1 else decide (rm = .rd)) 0 f
    else .fin (decide (n < 0)) n.natAbs f

/-- The exact product by IEEE 754 (R161): 0 times an infinity is NaN. -/
def Fl.mul : Fl → Fl → Fl
  | .nan, _ => .nan
  | _, .nan => .nan
  | .inf a, y => if y.isZero then .nan else .inf (a != y.sign)
  | x, .inf b => if x.isZero then .nan else .inf (x.sign != b)
  | .fin s1 m1 e1, .fin s2 m2 e2 => .fin (s1 != s2) (m1 * m2) (e1 + e2)

/-- Prod of R151: a zero operand gives +0 whatever the other is. -/
def prodMx (a b : Fl) : Fl := if a.isZero || b.isZero then .fin false 0 0 else a.mul b

/-- ExactSum of R151. -/
def exactSum (ps : List Fl) : Fl :=
  if ps.any Fl.isNan then .nan
  else if ps.any (fun p => decide (p = .inf false)) && ps.any (fun p => decide (p = .inf true)) then .nan
  else
    match ps.find? Fl.isInf with
    | some x => x
    | none => (ps.foldl (fun a p => Fl.add .rn a p) (Fl.fin false 0 0)).plusZero

/-- Comparison of numbers: none when one is a NaN; zeros compare equal. -/
def Fl.cmp : Fl → Fl → Option Ordering
  | .nan, _ => none
  | _, .nan => none
  | .inf a, .inf b => some (if a == b then .eq else if a then .lt else .gt)
  | .inf a, _ => some (if a then .lt else .gt)
  | _, .inf b => some (if b then .gt else .lt)
  | .fin s1 m1 e1, .fin s2 m2 e2 =>
    let f := min e1 e2
    some (compare (scaledInt s1 m1 e1 f) (scaledInt s2 m2 e2 f))

/-- x orders strictly below y, with -0 below +0 (R143, R146); numbers only. -/
def Fl.below (x y : Fl) : Bool :=
  match x.cmp y with
  | some .lt => true
  | some .eq => x.sign && !y.sign
  | _ => false

/-- minimumNumber or maximumNumber of two bit patterns (R143). -/
def minMaxNum (F : FF) (max : Bool) (a b : Nat) : Nat :=
  let x := F.dec a
  let y := F.dec b
  if x.isNan then (if y.isNan then F.nanBits else b)
  else if y.isNan then a
  else if x.below y then (if max then b else a) else (if max then a else b)

/-- Maximum or minimum of R146: a NaN operand gives NaN. -/
def minMaxNan (F : FF) (max : Bool) (a b : Nat) : Nat :=
  if (F.dec a).isNan || (F.dec b).isNan then F.nanBits else minMaxNum F max a b

/-- p/q with a sign, rounded to an integer in a direction. -/
def roundInt (rm : Rm) (neg : Bool) (p q : Nat) : Int :=
  let m := p / q
  let m' := if roundUp rm neg (m % 2 == 1) (p % q) q then m + 1 else m
  if neg then -(m' : Int) else m'

/-- Round to an integral value of the layout (R161 FRND): zeros and infinities stay. -/
def roundIntegral (F : FF) (rm : Rm) (b : Nat) : Nat :=
  match F.dec b with
  | .nan => F.nanBits
  | .inf _ => b
  | .fin s m e =>
    let r := ratio m e
    roundQ F .rn s (roundInt rm s r.1 r.2).natAbs 1

/-- Length of the run of bits equal to x from bit k downward (R136). -/
def runLen (m : Nat) (x : Bool) : Nat → Nat
  | 0 => 0
  | k + 1 => if bit m k == x then 1 + runLen m x k else 0

/-- TFDecode (R136) for n = 8 or 6. -/
def tfDecode (n c : Nat) (sc : Int) : Fl :=
  let s := bit c (n - 1)
  let m := c % 2 ^ (n - 1)
  if m == 0 then (if s then .nan else .fin false 0 0)
  else
    let x := bit m (n - 2)
    let l := runLen m x (n - 1)
    let k : Int := if x then (l : Int) - 1 else -(l : Int)
    let pos := n - 1 - l - 1
    let e := if pos ≥ 1 && bit m (pos - 1) then 1 else 0
    let w := pos - 1
    .fin s (2 ^ w + m % 2 ^ w) (2 * k + e + sc - w)

/-- p/q against m * 2^e. -/
def cmpQ (p q m : Nat) (e : Int) : Ordering := let r := ratio m e; compare (p * r.2) (r.1 * q)

/-- Numerator and denominator of the TF magnitude of code m at scale 0. -/
def tfMag (n m : Nat) : Nat × Nat :=
  match tfDecode n m 0 with
  | .fin _ a e => ratio a e
  | _ => (0, 1)

/-- The largest code at or below k whose magnitude is at most p/q, at least 1. -/
def tfFloor (n p q : Nat) : Nat → Nat
  | 0 => 1
  | k + 1 => let r := tfMag n (k + 1); if r.1 * q ≤ p * r.2 then k + 1 else tfFloor n p q k

/-- TFEncode of R139 on the magnitude p/q already divided by 2^S. -/
def tfEncodeMag (n p q : Nat) : Nat :=
  let top := 2 ^ (n - 1) - 1
  let hiR := tfMag n top
  let loR := tfMag n 1
  if hiR.1 * q ≤ p * hiR.2 then top
  else if p * loR.2 ≤ loR.1 * q then 1
  else
    let c := tfFloor n p q top
    let lo := tfMag n c
    let hi := tfMag n (c + 1)
    -- a - lo against hi - a, with a = p/q
    let dl := (p * lo.2 - lo.1 * q) * hi.2
    let dh := (hi.1 * q - p * hi.2) * lo.2
    if dl < dh then c else if dh < dl then c + 1 else (if c % 2 == 0 then c else c + 1)

/-- A conversion's result (R141): bits, saturated, lifted, NaN. -/
structure Conv where
  bits : Nat
  sat : Bool
  lift : Bool
  nan : Bool
  deriving DecidableEq, Repr

/-- Conversion of the magnitude p/q to TFn at scale S (R139, R141). -/
def convTf (n : Nat) (sc : Int) (s : Bool) (p q : Nat) : Conv :=
  if p == 0 then ⟨0, false, false, false⟩
  else
    let r := ratio p (-sc)
    let q' := q * r.2
    let hiR := tfMag n (2 ^ (n - 1) - 1)
    let loR := tfMag n 1
    ⟨(if s then 2 ^ (n - 1) else 0) + tfEncodeMag n r.1 q', decide (hiR.1 * q' < r.1 * hiR.2), decide (r.1 * loR.2 < loR.1 * q'), false⟩

/-- TFEncode (R139). -/
def tfEncode (n : Nat) (x : Fl) (sc : Int) : Conv :=
  match x with
  | .nan => ⟨2 ^ (n - 1), false, false, true⟩
  | .inf s => ⟨(if s then 2 ^ (n - 1) else 0) + (2 ^ (n - 1) - 1), true, false, false⟩
  | .fin s m e => let r := ratio m e; convTf n sc s r.1 r.2

/-- Clamp. -/
def clampI (x lo hi : Int) : Int := if x < lo then lo else if hi < x then hi else x

/-- The range of an integer format (R134). -/
def intRange : Fmt → Int × Int
  | .int8 => (-128, 127)
  | .uint8 => (0, 255)
  | _ => (-2147483648, 2147483647)

end Sys2Proof.Machine

namespace Sys2Proof

/-- Bits of an element in a register or lane (R22, R134). -/
def Fmt.width : Fmt → Nat
  | .fp32 => 32 | .fp16 => 16 | .bf16 => 16 | .tf8 => 8 | .tf6 => 6 | .int8 => 8 | .int32 => 32 | .uint8 => 8 | .e8 => 8 | .bsw => 8

/-- The layout of a floating-point format. -/
def Fmt.ff : Fmt → Option Machine.FF
  | .fp32 => some Machine.ff32
  | .fp16 => some Machine.ff16
  | .bf16 => some Machine.ffb16
  | _ => none

/-- Integer formats. -/
def Fmt.isInt : Fmt → Bool
  | .int8 => true | .int32 => true | .uint8 => true | _ => false

end Sys2Proof

namespace Sys2Proof.Machine

/-- Two's complement of the low w bits. -/
def sextN (w x : Nat) : Int := let y := x % 2 ^ w; if 2 ^ (w - 1) ≤ y then (y : Int) - 2 ^ w else y

/-- An integer as an exact value. -/
def Fl.ofInt (i : Int) : Fl := .fin (decide (i < 0)) i.natAbs 0

/-- The value of an element (R134-R136, R206): the low bits in format f at scale S. -/
def decFmt (f : Fmt) (sc : Int) (b : Nat) : Fl :=
  match f with
  | .fp32 => ff32.dec (b % 2 ^ 32)
  | .fp16 => ff16.dec (b % 2 ^ 16)
  | .bf16 => ffb16.dec (b % 2 ^ 16)
  | .tf8 => tfDecode 8 (b % 256) sc
  | .tf6 => tfDecode 6 (b % 64) sc
  | .int8 => .ofInt (sextN 8 b)
  | .int32 => .ofInt (sextN 32 b)
  | .uint8 => .ofInt (b % 256 : Nat)
  | .e8 => if b % 256 == 255 then .nan else .fin false 1 ((b % 256 : Nat) - 127)
  | .bsw => .ofInt (b % 256 : Nat)

/-- Integer destination of Convert (R141). -/
def convInt (f : Fmt) (rm : Rm) (s : Bool) (p q : Nat) : Conv :=
  let i := roundInt rm s p q
  let r := intRange f
  let c := clampI i r.1 r.2
  ⟨(c % (2 ^ f.width : Nat)).toNat, decide (c ≠ i), false, false⟩

/-- Convert of the quotient p/q with a sign (R141, R313). -/
def convertQ (f : Fmt) (rm : Rm) (sc : Int) (s : Bool) (p q : Nat) : Conv :=
  match f with
  | .tf8 => convTf 8 sc s p q
  | .tf6 => convTf 6 sc s p q
  | .fp32 => ⟨roundQ ff32 rm s p q, false, false, false⟩
  | .fp16 => ⟨roundQ ff16 rm s p q, false, false, false⟩
  | .bf16 => ⟨roundQ ffb16 rm s p q, false, false, false⟩
  | _ => convInt f rm s p q

/-- Convert (R141) of a value to a format; a zero keeps its sign. -/
def convert (f : Fmt) (rm : Rm) (sc : Int) (x : Fl) : Conv :=
  match x with
  | .fin s m e => let r := ratio m e; convertQ f rm sc s r.1 r.2
  | .nan =>
    match f.ff with
    | some F => ⟨F.nanBits, false, false, true⟩
    | none => if f == .tf8 then ⟨0x80, false, false, true⟩ else if f == .tf6 then ⟨0x20, false, false, true⟩ else ⟨0, false, false, false⟩
  | .inf s =>
    match f.ff with
    | some F => ⟨roundF F rm (.inf s), false, false, false⟩
    | none =>
      if f == .tf8 || f == .tf6 then tfEncode f.width (.inf s) sc
      else
        let r := intRange f
        ⟨((if s then r.1 else r.2) % (2 ^ f.width : Nat)).toNat, true, false, false⟩

/-- A destination that holds every value of the source exactly (R141, first row). -/
def exactTo (src dst : Fmt) : Bool :=
  match src, dst with
  | _, .fp32 => src != .int32
  | .fp16, .fp16 => true
  | .bf16, .bf16 => true
  | _, _ => false

/-- Convert on the tile side (R140, R141): a rounded exact zero is +0, an exact conversion keeps the value (log 8). -/
def convertTile (src dst : Fmt) (rm : Rm) (ss ds : Int) (b : Nat) : Conv :=
  let x := decFmt src ss b
  convert dst rm ds (if exactTo src dst then x else x.plusZero)

/-- floor(sqrt n) over k bits of the root. -/
def isqrtGo (n : Nat) : Nat → Nat → Nat
  | 0, r => r
  | k + 1, r => let t := r + 2 ^ k; isqrtGo n k (if t * t ≤ n then t else r)
/-- floor(sqrt n) for n below 2^200. -/
def isqrt (n : Nat) : Nat := isqrtGo n 100 0

/-- FRCP (R144). -/
def frcpBits (b : Nat) : Nat :=
  match ff32.dec b with
  | .nan => ff32.nanBits
  | .inf s => if s then ff32.signBit else 0
  | .fin s m e =>
    if m == 0 then (if s then ff32.signBit else 0) + ff32.infBits
    else let r := ratio m e; roundQ ff32 .rn s r.2 r.1

/-- FRSQ (R144): 1/sqrt(m 2^e) from 104 bits of the root and a sticky bit, which decides every rounding. -/
def frsqBits (b : Nat) : Nat :=
  match ff32.dec b with
  | .nan => ff32.nanBits
  | .inf s => if s then ff32.nanBits else 0
  | .fin s m e =>
    if m == 0 then (if s then ff32.signBit else 0) + ff32.infBits
    else if s then ff32.nanBits
    else
      let odd := e % 2 != 0
      let m' := if odd then 2 * m else m
      let e' := if odd then e - 1 else e
      let r := isqrt (2 ^ 160 / m')
      let st := if r * r * m' == 2 ^ 160 then 0 else 1
      let t := ratio (2 * r + st) (-(e' / 2) - 81)
      roundQ ff32 .rn false t.1 t.2

/-- Terms of 2 atanh(1/d) scaled by 2^P. -/
def atanhTerms (P d : Nat) : Nat → Nat → Nat
  | 0, _ => 0
  | k + 1, pw => 2 ^ (P + 1) / (pw * (2 * (P - k) - 1)) + atanhTerms P d k (pw * d * d)
/-- ln 2 scaled by 2^P, within P units. -/
def ln2Fix (P : Nat) : Nat := atanhTerms P 3 P 3

/-- Terms y^k/k! scaled by 2^P, from t. -/
def expTerms (P y : Nat) : Nat → Nat → Nat → Nat
  | 0, _, _ => 0
  | n + 1, k, t => let t' := t * y / 2 ^ P / k; if t' == 0 then 0 else t' + expTerms P y n (k + 1) t'
/-- e^y scaled by 2^P for y/2^P in [0, 1), within P units. -/
def expFix (P y : Nat) : Nat := 2 ^ P + expTerms P y P 1 (2 ^ P)

/-- The FP32 bits on which both ends of [lo, hi] * 2^-P agree, if they do. -/
def agree (P : Nat) (lo hi : Int) (sh : Int) : Option Nat :=
  let rd := fun (x : Int) => let r := ratio x.natAbs (sh - P); roundQ ff32 .rn (decide (x < 0)) r.1 r.2
  if rd lo == rd hi then some (rd lo) else none

/-- The first precision of the ladder whose bounds round alike (log 7). -/
def ladder (f : Nat → Option Nat) : Nat :=
  match f 256 with
  | some x => x
  | none =>
    match f 512 with
    | some x => x
    | none => (f 1024).getD 0

/-- RNE(2^x, FP32) of the exact x = m 2^e with a sign (R144, R147). -/
def exp2Fl (s : Bool) (m : Nat) (e : Int) : Nat :=
  let r := ratio m e
  let n : Int := if s then -((r.1 + r.2 - 1) / r.2 : Nat) else (r.1 / r.2 : Nat)
  if 128 ≤ n then ff32.infBits
  else if n < -150 then 0
  else
    -- fraction of x above its floor n, over r.2
    let f : Nat := if s then ((r.1 + r.2 - 1) / r.2) * r.2 - r.1 else r.1 % r.2
    if f == 0 then (let t := ratio 1 n; roundQ ff32 .rn false t.1 t.2)
    else ladder fun P =>
      let y := f * ln2Fix P / r.2
      let v : Int := expFix P y
      agree P (v - 4 * P) (v + 4 * P) n

/-- FEX2 (R144). -/
def fex2Bits (b : Nat) : Nat :=
  match ff32.dec b with
  | .nan => ff32.nanBits
  | .inf s => if s then 0 else ff32.infBits
  | .fin s m e => exp2Fl s m e

/-- Terms u^(2k+1)/(2k+1) scaled by 2^P. -/
def logTerms (P u2 : Nat) : Nat → Nat → Nat → Nat
  | 0, _, _ => 0
  | n + 1, k, t => if t == 0 then 0 else t / k + logTerms P u2 n (k + 2) (t * u2 / 2 ^ P)

/-- FLG2 (R144). -/
def flg2Bits (b : Nat) : Nat :=
  match ff32.dec b with
  | .nan => ff32.nanBits
  | .inf s => if s then ff32.nanBits else ff32.infBits
  | .fin s m e =>
    if m == 0 then ff32.signBit + ff32.infBits
    else if s then ff32.nanBits
    else
      let l := Nat.log2 m
      let ex : Int := e + l
      if m == 2 ^ l then roundF ff32 .rn (.ofInt ex)
      else
        -- z = a/c in [3/4, 3/2)
        let up := decide (3 * 2 ^ l ≤ 2 * m)
        let c := if up then 2 ^ (l + 1) else 2 ^ l
        let E : Int := if up then ex + 1 else ex
        let neg := decide (m < c)
        let d := if neg then c - m else m - c
        ladder fun P =>
          let u := d * 2 ^ P / (m + c)
          let at2 := 2 * logTerms P (u * u / 2 ^ P) P 1 u
          let lg : Int := (at2 * 2 ^ P / ln2Fix P : Nat)
          let v : Int := E * 2 ^ P + (if neg then -lg else lg)
          agree P (v - 16 * P) (v + 16 * P) 0

/-- Terms of atan(1/d) scaled by 2^P, with alternating signs. -/
def atanTerms (P d : Nat) : Nat → Nat → Nat → Int
  | 0, _, _ => 0
  | n + 1, k, pw => let t := 2 ^ P / pw; if t == 0 then 0 else (t / k : Nat) - atanTerms P d n (k + 2) (pw * d * d)
/-- pi scaled by 2^P, within 64 P units (Machin). -/
def piFix (P : Nat) : Int := 4 * (4 * atanTerms P 5 P 1 5 - atanTerms P 239 P 1 239)

/-- The alternating series t - t y2/(k(k+1)) + ..., scaled by 2^P. -/
def trigTerms (P y2 : Nat) : Nat → Nat → Nat → Int
  | 0, _, _ => 0
  | n + 1, k, t => if t == 0 then 0 else (t : Int) - trigTerms P y2 n (k + 2) (t * y2 / 2 ^ P / (k * (k + 1)))

/-- sin (cos = false) or cos of the exact x = m 2^e with a sign, m > 0 (R144). -/
def trigBits (isCos : Bool) (s : Bool) (m : Nat) (e : Int) : Nat :=
  ladder fun P =>
    let Q := P + 160
    let r := ratio m e
    let x : Int := (r.1 * 2 ^ Q / r.2 : Nat)
    let h := piFix Q / 2
    let k := (x + h / 2) / h
    let d := (x - k * h) / 2 ^ 160
    let a := d.natAbs
    let y2 := a * a / 2 ^ P
    let sn : Int := let v := trigTerms P y2 P 2 a; if d < 0 then -v else v
    let cs : Int := trigTerms P y2 P 1 (2 ^ P)
    let quad := ((if isCos then k + 1 else k) % 4).toNat
    let v := match quad with | 0 => sn | 1 => cs | 2 => -sn | _ => -cs
    let v' := if s && !isCos then -v else v
    agree P (v' - 64 * P) (v' + 64 * P) 0

/-- FSIN (R144). -/
def fsinBits (b : Nat) : Nat :=
  match ff32.dec b with
  | .nan => ff32.nanBits
  | .inf _ => ff32.nanBits
  | .fin s m e => if m == 0 then b else trigBits false s m e

/-- FCOS (R144). -/
def fcosBits (b : Nat) : Nat :=
  match ff32.dec b with
  | .nan => ff32.nanBits
  | .inf _ => ff32.nanBits
  | .fin s m e => if m == 0 then roundF ff32 .rn (.fin false 1 0) else trigBits true s m e

/-- VEXPD (R147). -/
def vexpdBits (a b : Nat) : Nat :=
  match ff32.dec a, ff32.dec b with
  | .nan, _ => ff32.nanBits
  | _, .nan => ff32.nanBits
  | .inf true, _ => 0
  | .inf false, .inf false => roundF ff32 .rn (.fin false 1 0)
  | .inf false, _ => ff32.infBits
  | _, .inf true => ff32.infBits
  | _, .inf false => 0
  | x, y =>
    match x.add .rn y.neg with
    | .fin s m e => exp2Fl s m e
    | _ => ff32.nanBits

end Sys2Proof.Machine
end

