-- ==== Sys2Proof/Machine/State.lean ====
section
/-! DEFINITION. The state of the machine as plain data, and its value after reset. INVENTORY.md lists every piece with its rule. -/
namespace Sys2Proof.Machine

/-- A sparse map in rising key order; an absent key reads as the default its reader names. -/
abbrev SMap (α : Type) := List (Nat × α)
/-- Bytes by address: addresses strictly rising, no entry equal to 0, what an unlisted address reads as (log 1). -/
abbrev Mem := List Host.Cell

/-- A cause with what its delivery needs (R380, R385): h0, FAULTVA, RPC, FPC, h2[63:32], h4, tile PC, IMPR, GATEF, engine
class, chunk and engine number. -/
structure Cause where
  code : Nat
  info : Dword
  va : Dword
  rpc : Dword
  fpc : Dword
  aux : Nat
  h4 : Dword
  tpc : Dword
  impr : Bool
  gatef : Bool
  ecls : Nat
  chunk : Nat
  eng : Nat
  deriving DecidableEq, Repr

/-- States of a thread (R398); handler mode is a bit beside it. -/
inductive ThState | running | exited | parked | gated | waiting | arrived | trapWaiting
  deriving DecidableEq, Repr

/-- What a thread waits for (R398). -/
inductive WKind | access | spop | waitc | bwait | trwait | poll | queueTake | trcommit | rendezvous | gate | mile | dbar | role
  deriving DecidableEq, Repr

/-- A wait: kind, effective mask or id and level, address or token, opcode of a rendezvous (0x4D: any WSYNC), second word. -/
structure Wait where
  kind : WKind
  mask : Nat
  addr : Dword
  opc : Nat
  arg : Dword
  deriving DecidableEq, Repr

/-- Why a long-latency operation has not been performed. -/
inductive HeldKind
  /-- it met a replayable page fault (R251, R434) -/
  | access
  /-- an object or a ring is full (R350, R363, R286) -/
  | full
  /-- beyond the hole window of a trail (R358) -/
  | commit
  /-- queued at a ring (R282) -/
  | pop
  /-- one half of a 128-bit access to host memory has been performed (R268) -/
  | half
  /-- a special function or a fold that meets an enabled condition, whose FP_TRAP is raised when it completes (R87, R145, R174) -/
  | trap
  deriving DecidableEq, Repr

/-- What a page fault does to a held operation (R87, R251, R256): not detected, parked, released by a replay. -/
inductive HoldSt | free | parked | again
  deriving DecidableEq, Repr

/-- A long-latency operation that has issued and not been performed: its instruction, PC, operands and faulting address; of a faulting access the
clk of issue and the registers, predicates and elements taken, as they were; attr: leaf bits of an address that it has translated. -/
structure HeldOp where
  kind : HeldKind
  i : Instr
  pc : Dword
  a : Nat
  b : Nat
  c : Nat
  va : Dword
  tag : Nat
  hs : HoldSt
  regs : SMap Word
  pred : BitVec 7
  taken : List Word
  attr : BitVec 10
  deriving DecidableEq, Repr

/-- A pending destination (R85): first register, registers, the value when known, instructions its window still lets issue, PC. -/
structure Pend where
  dst : VReg
  n : Nat
  value : Option Nat
  la : Nat
  pc : Dword
  tag : Nat
  deriving DecidableEq, Repr

/-- A queue binding (R348): object, producer or consumer, mapped register. -/
structure Binding where
  obj : Dword
  prod : Bool
  reg : VReg
  deriving DecidableEq, Repr

/-- A thread (R61, R77, R85, R179, R348, R384, R385, R398); trapAt: the clk in which the cause that waits arose (R384). -/
structure Thread where
  pc : Dword
  regs : SMap Word
  pred : BitVec 7
  st : ThState
  hmode : Bool
  wait : Option Wait
  pend : List Pend
  held : List HeldOp
  h : SMap Dword
  binds : SMap Binding
  taken : List Word
  kept : Option (Dword × List Word)
  snooze : Option Nat
  imps : List Cause
  watch : Option (Cause × Bool)
  trapq : Option Cause
  trapAt : Nat
  cause : Option Cause
  waited : Nat
  deriving DecidableEq, Repr

/-- An operation that an engine counter counts (R184, R343): identity, class, done, retired with a fault still to deliver, and
the fault its decrement carries. -/
structure Op where
  id : Nat
  cls : Eng
  done : Bool
  ret : Bool
  err : Option Cause
  deriving DecidableEq, Repr

/-- A warp (R60, R119, R156, R343, R352, R384): rows held, rows allocated by its role; the counters are the numbers of its
operations not retired. -/
structure Warp where
  role : Nat
  rwarp : Nat
  rows : Nat
  alloc : Nat
  wslot : Nat
  ops : List Op
  hsel : Option Nat
  progress : Nat
  inGate : Bool
  threads : List Thread
  deriving DecidableEq, Repr

/-- A reservation of a ring (R224): producer, first byte, bytes, landed. -/
structure Resv where
  id : Nat
  start : Nat
  len : Nat
  landed : Bool
  deriving DecidableEq, Repr

/-- A ring (R222-R228): reservations in order, producers that wait for space in start order, queued pops. -/
structure Ring where
  cfg : Bool
  lsize : Nat
  rbase : Nat
  head : BitVec 32
  tail : BitVec 32
  resv : BitVec 32
  resvs : List Resv
  waits : List Nat
  pops : List TRef
  deriving DecidableEq, Repr

/-- A loop record (R188, R400). -/
structure LoopRec where
  passes : Nat
  stages : Nat
  saved : BitVec 8
  active : Bool
  deriving DecidableEq, Repr

/-- A port (R190, R191): descriptor, next vector, clk until its first vector arrives. -/
structure Port where
  desc : BitVec 512
  next : Nat
  arrive : Nat
  deriving DecidableEq, Repr

/-- A tile handle (R197, R20): format, mode, role, first thread, first register, base logical row, rows, columns. -/
structure Handle where
  fmt : Fmt
  lane : Bool
  role : Nat
  t0 : Nat
  reg0 : Nat
  base : Nat
  nrows : Nat
  ncols : Nat
  deriving DecidableEq, Repr

/-- A level of the loop-nest table (R199): extent and the strides of A, B and the accumulator. -/
structure Nest where
  e : BitVec 16
  sa : BitVec 32
  sb : BitVec 32
  sc : BitVec 32
  deriving DecidableEq, Repr

/-- The loop-nest table (R199-R201): levels, and the MSRC and MACC words as R400 holds them. -/
structure NestTab where
  lv : List Nest
  msrc : BitVec 33
  macc : BitVec 33
  deriving DecidableEq, Repr

/-- The destination of a result in flight (R400); drop: none, the result only sets TSTAT bits. -/
inductive IDest
  | scalar (n : Nat) | vector (n : Nat) | port (n : Nat) | loop (n : Nat) | sgs | fsel | fmt (n : Nat)
  | level (n : Nat) | msrc | macc | handle (n : Nat) | index (n : Nat) | pcfg (n : Nat) | drop
  deriving DecidableEq, Repr

/-- A result in flight (R122, R400): slot of its bundle (1 S, 2 M, 3 V, 4 T, 5 X), destination, schedule clk to landing, TSTAT bits, value, and the
schedule clk of its bundle. -/
structure InFlight where
  unit : Nat
  dest : IDest
  rem : Nat
  tst : BitVec 5
  val : Nat
  iss : Nat
  deriving DecidableEq, Repr

/-- The tile context of a task slot (R182); scan: a skipped loop whose LBR is sought (R188); loopOrd: active loops, innermost first (R126); fence: the
schedule clk of the last SFENCE of class c0 (R194); stallOn: the held commands that its bundle stalls on (R252). -/
structure TileCtx where
  pc : Dword
  s : SMap Dword
  lc : SMap Word
  loops : SMap LoopRec
  sg : BitVec 8
  w : SMap (BitVec 2048)
  ix : SMap (BitVec 2048)
  ports : SMap Port
  ftab : SMap (BitVec 10)
  fsel : Nat
  nest : NestTab
  handles : SMap Handle
  sclk : Dword
  infl : List InFlight
  ops : List Op
  stall : Nat
  stallRun : Nat
  brkDone : Bool
  joined : Bool
  scan : Option Nat
  loopOrd : List Nat
  fence : Nat
  stallOn : List Nat
  deriving DecidableEq, Repr

/-- The gate frame (R391): gate PC, mask, entry index, role and warp numbers counted, whether the block is gated now. -/
structure GateFrame where
  pc : Dword
  mask : BitVec 16
  entry : Nat
  gated : Bool
  deriving DecidableEq, Repr

/-- States of a task slot (R409). -/
inductive SlotState | running | frozen | saving
  deriving DecidableEq, Repr

/-- Why a frozen block is frozen. -/
inductive FreezeWhy | tileFault | debug | roadblock | fetch | checkpoint | dump
  deriving DecidableEq, Repr

/-- The frame of a frozen resident block (R406, R420): its address, the rings as it holds them, and the rows that it holds by reference. -/
structure FrameAt where
  va : Dword
  rings0 : SMap Ring
  refs : List (Nat × Nat × Nat)
  deriving DecidableEq, Repr

/-- A resident block (R60-R64): its task slot, grid, variant, warps, scratchpad, accumulators, rings, tile context and counters; bwaits: BWAITs
that its threads have completed since the last sync point (R119): object, token, thread; sliceLen: TSLICE.LEN when its slice began (R72); acckb: KiB of
accumulator store, accu: its units of 4 KiB. -/
structure Block where
  core : Nat
  slot : Nat
  ctx : Nat
  grid : Nat
  lin : Nat
  variant : Nat
  milestone : Nat
  sclass : Nat
  sizep : Nat
  sprows : Nat
  dom : List Word
  warps : List Warp
  urgent : Nat
  bwaits : List (Nat × Nat × Nat)
  spad : Mem
  acc : SMap (BitVec 4096)
  traps : SMap Word
  rings : SMap Ring
  tstat : Dword
  fpte : Dword
  gate : Option GateFrame
  ef : List (Cause × Nat)
  nlost : Nat
  tile : TileCtx
  prof : SMap Dword
  pcctl : Dword
  pcsel : Dword
  fptimer : Nat
  slice : Nat
  sliceLen : Nat
  nswitch : Nat
  npark : Nat
  npre : Nat
  tplace : Nat
  state : SlotState
  why : List FreezeWhy
  frozenTile : Bool
  tcause : Option Cause
  rows : List Nat
  accu : List Nat
  acckb : Nat
  deciding : Option Nat
  preReq : Bool
  drain : Bool
  spillWait : Bool
  frame : Option FrameAt
  fetchVa : Option Dword
  deriving DecidableEq, Repr

/-- An L1 line (R230-R233): line number, data, valid and dirty bytes, context, leaf bits of its page; the list of lines is in order of use,
least recent first. -/
structure L1Line where
  line : Nat
  data : BitVec 1024
  valid : BitVec 128
  dirty : BitVec 128
  ctx : Nat
  attr : BitVec 10
  deriving DecidableEq, Repr

/-- A translation (R249): context, first 4 KiB unit of the page, log2 of its size, physical base, leaf bits [9:0]. -/
structure TlbEnt where
  ctx : Nat
  vbase : Nat
  lg : Nat
  pbase : Nat
  attr : BitVec 10
  deriving DecidableEq, Repr

/-- Progress of an engine command (R287, R295). -/
inductive CmdSt | queued | reserved | held | moved
  deriving DecidableEq, Repr

/-- A copy-engine command (R287-R303): identity, owner, instruction, scalars, records, handle, index snapshot, tile PC, progress: pieces
moved, CRC of the chunk in progress, chunks landed and not counted (bytes, CRC), chunks counted; after: the schedule clk before which the slot's
writes in flight come first, for .rel and for SFENCE (R194, R288). -/
structure Cmd where
  id : Nat
  core : Nat
  slot : Nat
  ctx : Nat
  grid : Nat
  lin : Nat
  i : Instr
  grp : List Dword
  rec1 : BitVec 512
  rec2 : BitVec 512
  hnd : Option Handle
  ixs : BitVec 2048
  tpc : Dword
  st : CmdSt
  va : Dword
  pos : Nat
  crc : Nat
  chunks : List (Nat × Nat)
  counted : Nat
  err : Option Cause
  watched : Bool
  after : Nat × Nat
  deriving DecidableEq, Repr

/-- A pass of the matrix engine (R130, R202): formats as format-table entries, handles, heads of its rings at its start. -/
structure Pass where
  id : Nat
  core : Nat
  slot : Nat
  grid : Nat
  lin : Nat
  prio : Nat
  age : Nat
  skip : Nat
  tab : NestTab
  fa : Nat
  fb : Nat
  ha : Option Handle
  hb : Option Handle
  hm : Option Handle
  tpc : Dword
  heads : List Nat
  after : Nat × Nat
  deriving DecidableEq, Repr

/-- An MRET waiting for its passes or its ring (R203). -/
structure Mret where
  id : Nat
  slot : Nat
  loc : Loc
  fmt : Nat
  row : Nat
  int : Bool
  hnd : Option Handle
  passes : List Nat
  tpc : Dword
  rst : Bool
  after : Nat × Nat
  deriving DecidableEq, Repr

/-- A core: L1, TLB, copy queue, record cache, debug registers, tile sequencer; sfuAt: the clk from which its special-function unit accepts a convoy
(R116). -/
structure CoreSt where
  l1 : List L1Line
  tlb : List TlbEnt
  cq : List Cmd
  rcache : List (Nat × Nat × BitVec 512)
  mrets : List Mret
  dbg : SMap Dword
  seq : Nat
  seqFree : Bool
  sampleSlot : Nat
  sfuAt : Nat
  deriving DecidableEq, Repr

/-- A quad: matrix reservation table, running pass, walk-ahead TLB; sel: the entry that the arbiter has selected and that has not started (R132). -/
structure QuadSt where
  tab : List Pass
  run : Option Pass
  last : Option (Nat × Nat)
  tlb : List TlbEnt
  sel : Option Nat
  deriving DecidableEq, Repr

/-- Buffer, variant, milestone, layout and trail entries of a registered image (R12-R26, R30). -/
structure BufE where
  base : Nat
  size : Nat
  foot : Nat
  attr : Nat
  deriving DecidableEq, Repr
/-- A variant table entry (R15). -/
structure VarE where
  rank : Nat
  cls : Nat
  vflags : Nat
  pword : Nat
  warps : List Nat
  rows : List Nat
  entry : List Nat
  tentry : Nat
  msFirst : Nat
  msN : Nat
  lmFirst : Nat
  lmN : Nat
  acckb : Nat
  parkb : Nat
  deriving DecidableEq, Repr
/-- A milestone map entry (R17). -/
structure MsE where
  id : Nat
  crole : Nat
  cwarp : Nat
  creg : Nat
  ccnt : Nat
  csrow : Nat
  cscnt : Nat
  resume : List Nat
  deriving DecidableEq, Repr
/-- A layout map entry (R20). -/
structure LMapE where
  tile : Nat
  fmt : Nat
  mode : Nat
  role : Nat
  t0 : Nat
  tn : Nat
  reg0 : Nat
  rn : Nat
  deriving DecidableEq, Repr
/-- A trail or pool declaration (R26). -/
structure TrailE where
  kind : Nat
  scope : Nat
  pool : Nat
  slotb : Nat
  bslots : Nat
  maxlen : Nat
  deriving DecidableEq, Repr

/-- The device's descriptor of a registered image (R30, R41). -/
structure Image where
  ctx : Nat
  handle : Nat
  base : Nat
  flags : Nat
  threadOff : Nat
  threadSize : Nat
  tileOff : Nat
  tileSize : Nat
  tensOff : Nat
  tensCount : Nat
  nsc : Nat
  scb : List Nat
  bufs : List BufE
  roles : List (Nat × Nat)
  vars : List VarE
  mss : List MsE
  lmaps : List LMapE
  trails : List TrailE
  deriving DecidableEq, Repr

/-- Phases of a grid. -/
inductive GPhase | staging | running | aborting | retiring
  deriving DecidableEq, Repr

/-- A reservation of pool blocks (R40): pool declaration, pool header address, blocks in order. -/
structure PoolRes where
  decl : Nat
  hdr : Dword
  blocks : List Nat
  deriving DecidableEq, Repr

/-- An admitted grid that has not ended (R38-R54, R58, R442); closes: queue objects that its abort closes; pre: what ChooseVictims chose for its
waiting block (R70): core, variant, and the blocks that are pre-empted, by grid and linear index. -/
structure Grid where
  id : Nat
  ctx : Nat
  q : Nat
  ring : Nat
  token : Dword
  raw : BitVec 1024
  img : Image
  phase : GPhase
  coop : Bool
  l1wb : Bool
  nbv : Bool
  prio : Nat
  next : Nat
  qnext : Nat
  ended : Nat
  nblk : Nat
  nswitch : Nat
  npark : Nat
  nfaults : Nat
  first : Option Cause
  fva : Dword
  fblock : Nat
  status : Nat
  tstart : Nat
  cores : List Nat
  resv : List PoolRes
  claims : List (Nat × Nat × Nat × List Nat)
  snap : Option Block
  closed : Bool
  hold : Option Dword
  jobArr : SMap Nat
  jobSent : List Nat
  arrivals : Nat
  closes : List Dword
  pre : Option (Nat × Nat × List (Nat × Nat))
  deriving DecidableEq, Repr

/-- A saved block (R404, R407, R409): frame address, save-pool slot, parked until its barrier completes, state, rows by reference, arrival at its barrier, withdrawn passes and MRETs, rings as saved, withdrawn commands (R431), pages whose
held accesses were cancelled since (R257), domain barriers that completed since (R68). -/
structure Saved where
  grid : Nat
  lin : Nat
  ctx : Nat
  frame : Dword
  poolSlot : Option Nat
  parked : Bool
  snap : Block
  refs : List (Nat × Nat × Nat)
  arrival : Nat
  wd : List Pass
  mrets : List Mret
  rings0 : SMap Ring
  cmds : List Cmd
  cancels : List Nat
  passed : List Nat
  deriving DecidableEq, Repr

/-- A record of a launch queue that has been read (R37, R42): whether its checks wait (R47), its completion record once decided
(R50), and the page of a held access (R469), bit 0 set once FBCANCEL has ended it. -/
structure LRec where
  ring : Nat
  token : Dword
  raw : BitVec 1024
  hold : Option Dword
  waits : Bool
  fin : Option (BitVec 512)
  deriving DecidableEq, Repr

/-- A launch queue (R32-R43): head and tail indices, records read and not admitted, status history by ring index, held read. -/
structure LQueue where
  ctx : Nat
  q : Nat
  head : BitVec 32
  tail : BitVec 32
  recs : List LRec
  live : List Nat
  hist : SMap Nat
  resetting : Bool
  hold : Option Dword
  deriving DecidableEq, Repr

/-- A posted transform request (R286, R311): context, ring, index, poster, its operation, and its progress on an engine:
blocks done plus one once the request has been read. -/
structure XReq where
  ctx : Nat
  ring : Nat
  idx : Nat
  t : TRef
  grid : Nat
  lin : Nat
  op : Nat
  pc : Dword
  started : Bool
  eng : Nat
  blk : BitVec 512
  done : Bool
  status : Nat
  cause : Nat
  va : Dword
  sat : Nat
  nan : Nat
  result : Nat
  hold : Option Dword
  pos : Nat
  watched : Bool
  deriving DecidableEq, Repr

/-- A fault on its way to the fault unit (R253, R254); th: the thread that made it. -/
structure FRep where
  ctx : Nat
  va : Dword
  token : Dword
  kind : Nat
  reason : Nat
  level : Nat
  src : Nat
  unit : Nat
  tslot : Nat
  wslot : Nat
  th : Option TRef
  deriving DecidableEq, Repr

/-- A remote operation that this device issued and that has not been acknowledged (R277): tag, thread, operation, PC, pending destination, link (16: this device), RATOM, class, acquire. -/
structure RemOut where
  tag : Nat
  t : TRef
  grid : Nat
  lin : Nat
  op : Nat
  pc : Dword
  va : Dword
  pend : Bool
  dev : Nat
  link : Nat
  rmw : Bool
  cls : Nat
  acq : Bool
  deriving DecidableEq, Repr

/-- A remote operation that waits at this device (R277-R279); part: of a 128-bit access to host memory, the address and leaf bits of the half that is
left, whether it is the high half, and the other half's value (R268). -/
structure RemIn where
  n : Nat
  src : Nat
  tag : Nat
  job : Nat
  cls : Nat
  kind : Nat
  va : Dword
  data : Nat
  sz : Sz
  am : AtomF
  sx : Bool
  hold : Bool
  watch : Bool
  own : Bool
  part : Option (Nat × BitVec 10 × Bool × Nat)
  deriving DecidableEq, Repr

/-- What the L2 holds of a cached line (R216, R234-R237): owner context (64: firmware or none), dirty 64-byte sectors, bytes held, whether in
stored form (R305), home slice and way. Its set is that of its address, its data are memory's (State.mem). -/
structure L2Line where
  owner : Nat
  dirty : BitVec 8
  valid : BitVec 512
  stored : Bool
  slice : Nat
  way : Nat
  deriving DecidableEq, Repr

/-- An engine as slice watchpoints and their reports know it (R414): 3 copy, 4 transform, 5 remote; its number, context, command or
tag, grid and block, thread, and the PC it reports. -/
structure Writer where
  kind : Nat
  num : Nat
  ctx : Nat
  id : Nat
  grid : Nat
  lin : Nat
  t : TRef
  pc : Dword
  deriving DecidableEq, Repr

/-- A hit of a slice watchpoint that waits to be latched (R414, R415): slice, watchpoint, writer, address, HALT. -/
structure SwHit where
  slice : Nat
  j : Nat
  w : Writer
  va : Dword
  halt : Bool
  deriving DecidableEq, Repr

/-- What leaves the device: MSI-X vectors, side-band records, reports, flits. -/
inductive Out
  | msix (fn vec : Nat)
  | sideband (bytes : List Byte)
  | spdm (index : Nat) (data sig : List Byte)
  | atsDone
  | flit (ctx link : Nat) (f : Flit)
  /-- completion of a BAR2 access: 0 done, 1 Unsupported Request, 2 the data is poisoned -/
  | bar (fn status : Nat) (data : List Byte)
  deriving DecidableEq, Repr

/-- The convoy or the tile slot that issues in this step (R116, R129), and bits [255:192] of its bundle; again: the accesses of the threads that
issued in this clk are performed again. -/
structure Cur where
  threads : List TRef
  core : Nat
  slot : Nat
  word : Dword
  again : Option Nat
  deriving DecidableEq, Repr

/-- The boot ROM's inputs and the checkpoint (R460-R466). -/
structure FwSt where
  flash : List Byte
  keyDigest : List Byte
  minVersion : Nat
  secret : List Byte
  digest : List Byte
  key : List Byte
  romVersion : Nat
  power : Bool
  resetPend : Bool
  ckptHalted : Bool
  ckptCut : Bool
  ckptCause : Nat
  droop : List Nat
  deriving DecidableEq, Repr

/-- The machine. -/
structure State where
  /-- physical memory as the home slices see it (R239) -/
  mem : Mem
  /-- staging ways (R237), by slice, way and byte -/
  staging : Mem
  /-- poisoned 64-byte sectors (R240) -/
  poison : List Nat
  /-- uncorrectable 8-byte words of pool rows and rows of accumulator stores (R240), numbered as log 16 says -/
  poolBad : List Nat
  accBad : List Nat
  /-- the L2's lines (R235), in order of use, least recent first -/
  l2 : SMap L2Line
  /-- lines that have left the L2 and are being written to DRAM; meta: a partial write of the line met unreadable metadata (R310) -/
  l2out : List (Nat × L2Line × Bool)
  /-- sectors of metadata that a quarter's metadata cache holds (R309), most recent first -/
  metaC : SMap (List Nat)
  /-- bytes of host memory as the host has them, where the L2 holds others for a page with SC = 0 (R329) -/
  hostMem : SMap Byte
  /-- registers of BAR0 by their PF address (R411, R448), absent ones at their reset value -/
  regs : SMap Dword
  blocks : List Block
  saved : List Saved
  cores : SMap CoreSt
  quads : SMap QuadSt
  l2tlb : SMap (List TlbEnt)
  /-- a quarter's 256 table entries (R249): context, physical address, entry -/
  pteCache : SMap (List (Nat × Nat × Dword))
  images : List Image
  grids : List Grid
  queues : List LQueue
  rrNext : SMap Nat
  xreqs : List XReq
  freps : List FRep
  remOut : List RemOut
  remIn : List RemIn
  outbound : List (Nat × Nat × Flit)
  heldQ : List (Nat × Flit)
  swHits : List SwHit
  outs : List Out
  atsPend : Bool
  /-- contexts whose dump waits for results of their threads (R429, R406) -/
  dumps : List Nat
  /-- job-level DBAR arrivals for grids that this device does not run yet (R341): job, JTAG, id, device -/
  jobPend : List (Nat × Nat × Nat × Nat)
  /-- LASTWAVE by context (R417) -/
  lastWave : SMap Nat
  fw : FwSt
  /-- the ACLK count (R168) and the device time (R457) -/
  clk : Nat
  time : Nat
  /-- the model's own: events arrived, the issuing unit, stall cause and trap mark of a bundle, next identity, free-choice counter -/
  inputs : List Instr
  cur : Cur
  tileStall : Nat
  tileTrap : Bool
  nextId : Nat
  free : Nat
  deriving DecidableEq, Repr

/-- Why the machine stops. -/
inductive Fault
  /-- an event was named that cannot happen in this state: raised by the meaning of an event row, safe (the model stops where nothing would happen). -/
  | notEnabled (row : String)
  deriving DecidableEq, Repr

/-- Why the model has no meaning for an instruction. -/
inductive Refusal
  /-- an instruction without a meaning yet: raised by Dispatch only, safe. -/
  | notModelled (mnemonic : String)
  deriving DecidableEq, Repr

/-- The outcome of a step. -/
abbrev Res := Host.Outcome State Fault Refusal

/-- The tile context at placement (R182). -/
def TileCtx.empty : TileCtx :=
  { pc := 0, s := [], lc := [], loops := [], sg := 0, w := [], ix := [], ports := [], ftab := [], fsel := 0,
    nest := ⟨List.replicate 6 ⟨1, 0, 0, 0⟩, 0, 0⟩, handles := [], sclk := 0, infl := [], ops := [], stall := 0, stallRun := 0,
    brkDone := false, joined := false, scan := none, loopOrd := [], fence := 0, stallOn := [] }

/-- A core after reset. -/
def CoreSt.empty : CoreSt :=
  { l1 := [], tlb := [], cq := [], rcache := [], mrets := [], dbg := [], seq := 0, seqFree := true, sampleSlot := 0, sfuAt := 0 }

/-- A quad after reset. -/
def QuadSt.empty : QuadSt := { tab := [], run := none, last := none, tlb := [], sel := none }

/-- The machine right after reset (log 6 for what the spec does not give, log 14 for the flash and the fuses). -/
def State.reset : State :=
  { mem := [], staging := [], poison := [], poolBad := [], accBad := [], l2 := [], l2out := [], metaC := [], hostMem := [], regs := [], blocks := [], saved := [], cores := [], quads := [],
    l2tlb := [], pteCache := [], images := [], grids := [], queues := [], rrNext := [], xreqs := [], freps := [],
    remOut := [], remIn := [], outbound := [], heldQ := [], swHits := [], outs := [],
    atsPend := false, dumps := [], jobPend := [], lastWave := [],
    fw := { flash := Config.flash, keyDigest := Config.fuseKeyDigest, minVersion := Config.fuseMinVersion, secret := Config.fuseSecret, digest := [], key := [], romVersion := Config.romVersion,
            power := true, resetPend := false, ckptHalted := false, ckptCut := false, ckptCause := 0, droop := [] },
    clk := 0, time := 0, inputs := [], cur := ⟨[], 0, 0, 0, none⟩, tileStall := 0, tileTrap := false, nextId := 0, free := 0 }

end Sys2Proof.Machine
end

