-- ==== Sys2Proof/Machine/Ops.lean ====
section
/-! DEFINITION. The named operations over the state: sparse maps, memory, blocks and threads, the register windows, translation
(R241-R251), L1 and L2 (R230-R236), and taking an exception (R380-R392, R412, R417). -/
namespace Sys2Proof.Machine

/-- The value at a key, if listed. -/
def SMap.get? {α : Type} : SMap α → Nat → Option α
  | [], _ => none
  | (k, v) :: m, i => if k == i then some v else SMap.get? m i

/-- The value at a key, or the default. -/
def SMap.get {α : Type} (m : SMap α) (i : Nat) (d : α) : α := (SMap.get? m i).getD d

/-- List a value at a key, in rising order. -/
def SMap.put {α : Type} : SMap α → Nat → α → SMap α
  | [], i, v => [(i, v)]
  | (k, x) :: m, i, v =>
    if i < k then (i, v) :: (k, x) :: m else if i == k then (i, v) :: m else (k, x) :: SMap.put m i v

/-- Unlist a key. -/
def SMap.del {α : Type} : SMap α → Nat → SMap α
  | [], _ => []
  | (k, x) :: m, i => if k == i then SMap.del m i else (k, x) :: SMap.del m i

/-- List a value, or unlist the key when the value is the default. -/
def SMap.putD {α : Type} [DecidableEq α] (m : SMap α) (i : Nat) (d v : α) : SMap α :=
  if v = d then SMap.del m i else SMap.put m i v

/-- The canonical form of a memory: addresses strictly rising, no byte equal to what an unlisted address reads as (log 1). -/
abbrev Mem.wf (m : Mem) : Prop := m.Pairwise (fun x y => x.1 < y.1) ∧ ∀ c ∈ m, c.2 ≠ 0#8

/-- The byte at an address; an unlisted address reads 0 (log 1). -/
def Mem.get (m : Mem) (a : Nat) : Byte := SMap.get m a 0#8
/-- Write one byte, keeping the canonical form. -/
def Mem.set (m : Mem) (a : Nat) (b : Byte) : Mem := SMap.putD m a 0#8 b
/-- n bytes from a, little-endian (R4). -/
def Mem.readN (m : Mem) (a : Nat) : Nat → Nat
  | 0 => 0
  | n + 1 => (Mem.get m a).toNat + 256 * Mem.readN m (a + 1) n
/-- Write the low n bytes of v at a, little-endian (R4). -/
def Mem.writeN (m : Mem) (a v : Nat) : Nat → Mem
  | 0 => m
  | n + 1 => Mem.writeN (Mem.set m a (BitVec.ofNat 8 v)) (a + 1) (v / 256) n
/-- Write zero to n bytes at a. -/
def Mem.clear (m : Mem) (a n : Nat) : Mem := m.filter fun c => c.1 < a || a + n ≤ c.1
/-- n bytes from a, in order. -/
def Mem.bytes (m : Mem) (a n : Nat) : List Byte := (List.range n).map fun i => Mem.get m (a + i)
/-- Write bytes from a on. -/
def Mem.put (m : Mem) (a : Nat) : List Byte → Mem
  | [] => m
  | b :: bs => Mem.put (Mem.set m a b) (a + 1) bs
/-- The number of a list of bytes, little-endian. -/
def leNat : List Byte → Nat
  | [] => 0
  | b :: bs => b.toNat + 256 * leNat bs
/-- n bytes of a number, little-endian. -/
def leBytes (v : Nat) : Nat → List Byte
  | 0 => []
  | n + 1 => BitVec.ofNat 8 v :: leBytes (v / 256) n

/-- Round x up to a multiple of n. -/
def roundUpTo (x n : Nat) : Nat := (x + n - 1) / n * n
/-- Bits [63:52] equal to bit 51 (R241). -/
def canonical (va : Nat) : Bool := let t := va >>> 51; t == 0 || t == 0x1FFF
/-- A 52-bit address with bits [63:52] equal to bit 51. -/
def sext52 (va : Nat) : Nat := if bit va 51 then va % 2 ^ 52 + (2 ^ 64 - 2 ^ 52) else va % 2 ^ 52

/-! ### Blocks, warps, threads, grids -/

/-- The block in a task slot of a core. -/
def State.block? (s : State) (c k : Nat) : Option Block := s.blocks.find? fun b => b.core == c && b.slot == k
/-- Change the block in a task slot. -/
def State.modBlock (s : State) (c k : Nat) (f : Block → Block) : State :=
  { s with blocks := s.blocks.map fun b => if b.core == c && b.slot == k then f b else b }
/-- Change a block-warp. -/
def Block.modWarp (b : Block) (w : Nat) (f : Warp → Warp) : Block := { b with warps := b.warps.modify w f }
/-- Change a thread of a block. -/
def Block.modThread (b : Block) (w l : Nat) (f : Thread → Thread) : Block :=
  b.modWarp w fun x => { x with threads := x.threads.modify l f }
/-- A thread's warp. -/
def State.warp? (s : State) (t : TRef) : Option Warp := (s.block? t.core t.slot).bind fun b => b.warps[t.warp]?
/-- A thread. -/
def State.thread? (s : State) (t : TRef) : Option Thread := (s.warp? t).bind fun w => w.threads[t.lane]?
/-- Change a thread. -/
def State.modThread (s : State) (t : TRef) (f : Thread → Thread) : State :=
  s.modBlock t.core t.slot fun b => b.modThread t.warp t.lane f
/-- Change a thread's warp. -/
def State.modWarp (s : State) (t : TRef) (f : Warp → Warp) : State :=
  s.modBlock t.core t.slot fun b => b.modWarp t.warp f
/-- The references of a warp's threads. -/
def Block.warpRefs (b : Block) (w : Nat) : List TRef :=
  match b.warps[w]? with
  | some x => (List.range x.threads.length).map fun l => ⟨b.core, b.slot, w, l⟩
  | none => []
/-- The references of a block's threads, by block thread index (R60). -/
def Block.refs (b : Block) : List TRef := (List.range b.warps.length).flatMap b.warpRefs
/-- A thread of the block. -/
def Block.thread? (b : Block) (w l : Nat) : Option Thread := (b.warps[w]?).bind fun x => x.threads[l]?
/-- The threads of a block that have not exited. -/
def Block.live (b : Block) : List TRef :=
  b.refs.filter fun t => match b.thread? t.warp t.lane with | some th => th.st != .exited | none => false

/-- A grid by identity. -/
def State.grid? (s : State) (g : Nat) : Option Grid := s.grids.find? fun x => x.id == g
/-- Change a grid. -/
def State.modGrid (s : State) (g : Nat) (f : Grid → Grid) : State :=
  { s with grids := s.grids.map fun x => if x.id == g then f x else x }
/-- The grid of a block. -/
def State.gridOf (s : State) (b : Block) : Option Grid := s.grid? b.grid
/-- The variant in force of a block. -/
def State.varOf (s : State) (b : Block) : Option VarE := (s.gridOf b).bind fun g => g.img.vars[b.variant]?
/-- A core. -/
def State.core (s : State) (c : Nat) : CoreSt := SMap.get s.cores c CoreSt.empty
/-- Change a core. -/
def State.modCore (s : State) (c : Nat) (f : CoreSt → CoreSt) : State := { s with cores := SMap.put s.cores c (f (s.core c)) }
/-- A quad. -/
def State.quad (s : State) (q : Nat) : QuadSt := SMap.get s.quads q QuadSt.empty
/-- Change a quad. -/
def State.modQuad (s : State) (q : Nat) (f : QuadSt → QuadSt) : State := { s with quads := SMap.put s.quads q (f (s.quad q)) }
/-- The context of a thread; 64 when there is none. -/
def State.ctxOf (s : State) (t : TRef) : Nat := ((s.block? t.core t.slot).map Block.ctx).getD 64
/-- The next free value of an identity. -/
def State.fresh (s : State) : Nat × State := (s.nextId, { s with nextId := s.nextId + 1 })
/-- The count that the next free choice uses (log 13), and the state after it. -/
def State.freeN (s : State) : Nat × State := (s.free, { s with free := s.free + 1 })

/-! ### Register windows (R411, R448, R449) -/

/-- The PF's BAR0 address of a register of a context's window. -/
def ctxReg (c off : Nat) : Nat := c * 0x100000 + off
/-- The PF's BAR0 address of a device-wide register. -/
def devReg (off : Nat) : Nat := 0x4000000 + off
/-- Where TSLICE (R72) is held: it has no place in a window. -/
def tsliceKey : Nat := 0x8000020
/-- Where FPT (R394) of a context is held: it has no place in a window. -/
def fptKey (c : Nat) : Nat := 0x8000100 + c

/-- The reset value of a register: what its rule gives, else 0 (log 6). -/
def regReset (a : Nat) : Dword :=
  if a == tsliceKey then 0x800
  else if fptKey 0 ≤ a then 0x100
  else if devReg 0 ≤ a then (if a == devReg 0x410 then 2400 else 0)
  else if a % 0x100000 == 0x210 then 3
  else if a == 0x2B8 then 6
  else 0

/-- A register's value. -/
def State.reg (s : State) (a : Nat) : Dword := SMap.get s.regs a (regReset a)
/-- Set a register. -/
def State.setReg (s : State) (a : Nat) (v : Dword) : State := { s with regs := SMap.putD s.regs a (regReset a) v }
/-- A register as a number. -/
def State.regN (s : State) (a : Nat) : Nat := (s.reg a).toNat
/-- Replace bits [hi:lo] of a register. -/
def setField (x : Dword) (hi lo v : Nat) : Dword :=
  BitVec.ofNat 64 (x.toNat - (bits x.toNat hi lo <<< lo) + ((v % 2 ^ (hi + 1 - lo)) <<< lo))

/-! ### Where things are (R2, R234, R238, R239, R449-R451) -/

/-- The quad of a core. -/
def quadOf (c : Nat) : Nat := c / 4
/-- The quarter of a core (R2). -/
def quarterOf (c : Nat) : Nat := c / 32

/-- A reserved physical address (R239). -/
def paReserved (a : Nat) : Bool := (0x003000000000 ≤ a && a < 0x010000000000) || (0x020000000000 ≤ a && a < 0x800000000000)
/-- The reserved safe-tier region (R460). -/
def paSafe (a : Nat) : Bool := 0x01C000000000 ≤ a && a < 0x020000000000
/-- Host and peer memory (R239). -/
def paHost (a : Nat) : Bool := decide (0x800000000000 ≤ a)

/-- The device-wide homing hash (R234). -/
def h8 (a : Nat) : Nat := bits a 16 9 ^^^ bits a 24 17 ^^^ bits a 32 25 ^^^ bits a 40 33 ^^^ bits a 47 41
/-- The home slice of a physical address under a page's HOME field (R234). -/
def homeSlice (home a : Nat) : Nat := if home == 1 && decide (a < 0x003000000000) then 64 * (a / 0xC00000000) + h8 a % 64 else h8 a

/-- The function that owns a context: 0 the PF, 1-16 a VF (R449). -/
def State.owner (s : State) (c : Nat) : Nat := s.regN (devReg (0x100 + 8 * c)) % 32
/-- The memory allotment of a VF (R451): base and end. -/
def State.vfMem (s : State) (f : Nat) : Nat × Nat :=
  let v := s.regN (devReg (0x378 + 8 * f))
  let b := bits v 11 0 <<< 30
  (b, b + (bits v 43 32 <<< 30))
/-- A device address that a context's function may reach (R451). -/
def State.allotted (s : State) (c a : Nat) : Bool :=
  let f := s.owner c
  f == 0 || (let r := s.vfMem f; decide (r.1 ≤ a) && decide (a < r.2))

/-! ### Compressible windows (R306-R310): held in context 0's window, reached through any (log 28) -/

/-- Register k of window w. -/
def cwReg (w k : Nat) : Nat := ctxReg 0 (0x2000 + 32 * w + 8 * k)
/-- Some window register has been written. -/
def State.hasCw (s : State) : Bool := s.regs.any fun r => decide (0x2000 ≤ r.1) && decide (r.1 < 0x2200)
/-- The metadata entry of a line: the lowest enabled window that contains it (R306). -/
def State.cwEntry (s : State) (pa : Nat) : Option Nat :=
  (List.range 16).findSome? fun w =>
    let b := s.regN (cwReg w 0)
    let base := bits b 47 21 <<< 21
    if bit b 0 && decide (base ≤ pa) && decide (pa < base + bits (s.regN (cwReg w 1)) 31 0 <<< 21) then
      some (bits (s.regN (cwReg w 2)) 47 6 <<< 6 + 4 * ((pa - base) / 512))
    else none
/-- A metadata entry that breaks its layout (R307). -/
def entryBad (e : Nat) : Bool :=
  bits e 27 9 != 0 || (if bit e 30 then e % 512 == 0 || decide (448 < e % 512) else e % 512 != 0)
/-- n deltas of w bytes each, sign-extended to 32 bits (R308). -/
def takeDeltas (w : Nat) : Nat → List Byte → Option (List Nat × List Byte)
  | 0, bs => some ([], bs)
  | n + 1, bs =>
    if bs.length < w then none
    else (takeDeltas w n (bs.drop w)).map fun r => ((BitVec.ofInt 32 (if w == 0 then 0 else sextN (8 * w) (leNat (bs.take w)))).toNat :: r.1, r.2)
/-- The deltas of a packed line, piece by piece (R308). -/
def lineDeltas : Nat → List Byte → Option (List Nat)
  | _, [] => some []
  | 0, _ => none
  | k + 1, h :: bs =>
    (takeDeltas (match h.toNat / 64 with | 0 => 0 | 1 => 1 | 2 => 2 | _ => 4) (h.toNat % 64 + 1) bs).bind fun r =>
      (lineDeltas k r.2).map fun ds => r.1 ++ ds
/-- Words from deltas (R308). -/
def unDelta (w : Nat) : List Nat → List Nat
  | [] => []
  | d :: ds => let x := (w + d) % 2 ^ 32; x :: unDelta x ds
/-- The 512 bytes of a packed line: none when it does not decode to exactly 128 words (R307). -/
def unpackLine (bs : List Byte) : Option (List Byte) :=
  (lineDeltas bs.length bs).bind fun ds => if ds.length == 128 then some ((unDelta 0 ds).flatMap fun w => leBytes w 4) else none

/-- A 64-byte sector is poisoned (R240). -/
def State.sectorBad (s : State) (k : Nat) : Bool := s.poison.contains k
/-- A metadata entry cannot be read: its sector is poisoned, and no metadata cache holds it (R309, R310). -/
def State.metaBad (s : State) (a : Nat) : Bool := s.sectorBad (a / 64) && !s.metaC.any fun q => q.2.contains (a / 64)
/-- The bytes of line k as a reader sees them (R305), and whether it reads as poisoned (R307, R310). -/
def State.lineView (s : State) (k : Nat) : List Byte × Bool :=
  let raw := Mem.bytes s.mem (512 * k) 512
  match s.cwEntry (512 * k) with
  | none => (raw, false)
  | some a =>
    let e := Mem.readN s.mem a 4
    if s.metaBad a || bit e 31 || entryBad e then (raw, true)
    else if bit e 30 then (match unpackLine (raw.take (e % 512)) with | some bs => (bs, false) | none => (raw, true))
    else (raw, false)
/-- The lines that n bytes at pa touch. -/
def linesOf (pa n : Nat) : List Nat := (List.range ((pa + n + 511) / 512 - pa / 512)).map fun i => pa / 512 + i
/-- n bytes at pa as a reader sees them. -/
def State.pbytes (s : State) (pa n : Nat) : List Byte :=
  if !s.hasCw then Mem.bytes s.mem pa n
  else (((linesOf pa n).flatMap fun k => (s.lineView k).1).drop (pa % 512)).take n

/-! ### Memory at the home slices (R235, R236, R240) -/

/-- Leaf bits of an access that no page describes (log 111): device-wide homing, host memory snooped. -/
def physAttr (pa : Nat) : BitVec 10 := if paHost pa then 8#10 else 0#10
/-- A page is cached in L2 unless it is a snooped host page (R248). -/
def cachedPage (pa : Nat) (attr : BitVec 10) : Bool := !(paHost pa && attr.getLsbD 3)

/-- The ways of a slice that staging claims hold (R237). -/
def State.claimed (s : State) (slice : Nat) : List Nat :=
  s.grids.flatMap fun g => g.claims.flatMap fun c => if c.2.1 == slice / 64 then c.2.2.2 else []
/-- The set of a line in its slice: a[24:17] (R234). -/
def l2Set (k : Nat) : Nat := k / 256 % 256
/-- Install a line (R235): in the lowest free way of its set that no claim holds, else in place of the least recently used line of those
ways, which leaves. -/
def l2Add (ls : SMap L2Line) (claimed : List Nat) (k : Nat) (l : L2Line) : SMap L2Line × Option (Nat × L2Line) :=
  let same := ls.filter fun x => x.2.slice == l.slice && l2Set x.1 == l2Set k
  match (List.range 12).find? fun w => !claimed.contains w && !same.any fun x => x.2.way == w with
  | some w => (ls ++ [(k, { l with way := w })], none)
  | none =>
    match same.find? fun x => !claimed.contains x.2.way with
    | some v => ((ls.filter fun x => x.1 != v.1) ++ [(k, { l with way := v.2.way })], some v)
    | none => (ls, none)
/-- The 64-byte sectors of a line that n bytes from lo overlap. -/
def sectorsOf (lo n : Nat) : BitVec 8 :=
  BitVec.ofNat 8 ((List.range 8).foldl (fun acc j => if lo < 64 * (j + 1) && 64 * j < lo + n then acc + 2 ^ j else acc) 0)
/-- The bytes of a line in the sectors of a mask. -/
def sectorBytes (m : BitVec 8) : BitVec 512 :=
  BitVec.ofNat 512 ((List.range 8).foldl (fun acc j => if m.getLsbD j then acc + (2 ^ 64 - 1) <<< (64 * j) else acc) 0)
/-- A line after an access to n bytes from lo: a read fills sectors, a write makes bytes valid and sectors dirty (R235), and expands a line
in stored form, which is then written back whole (R309). -/
def L2Line.use (l : L2Line) (lo n : Nat) (w : Bool) : L2Line :=
  if !w then (if l.stored then l else { l with valid := l.valid ||| sectorBytes (sectorsOf lo n) })
  else if l.stored then { l with stored := false, valid := BitVec.allOnes 512, dirty := BitVec.allOnes 8 }
  else { l with valid := l.valid ||| BitVec.ofNat 512 ((2 ^ n - 1) <<< lo), dirty := l.dirty ||| sectorsOf lo n }
/-- The bytes of a line that its home slice fetches in stored form: compressed data of LVL 2 or 3 (R305); none for a raw line. -/
def State.storedLen (s : State) (k : Nat) : Option Nat :=
  if !s.hasCw then none
  else (s.cwEntry (512 * k)).bind fun a =>
    let e := Mem.readN s.mem a 4
    if s.metaBad a || bit e 31 || entryBad e || !bit e 30 || bits e 29 28 < 2 then none else some (e % 512)
/-- The metadata cache of a quarter once it has read the entry of a line (R309). -/
def State.metaFetch (s : State) (quarter k : Nat) : SMap (List Nat) :=
  match if s.hasCw then s.cwEntry (512 * k) else none with
  | none => s.metaC
  | some a => SMap.put s.metaC quarter ((a / 64 :: (SMap.get s.metaC quarter []).filter fun x => x != a / 64).take 2048)
/-- Line k becomes present in its home slice, owned by the context that allocates it (R236), as its most recently used line; a line that leaves with
dirty sectors, or with bytes of host memory, is written back (L2_EVICT). -/
def State.l2Use (s : State) (ctx k lo n : Nat) (w : Bool) (attr : BitVec 10) : State :=
  match SMap.get? s.l2 k with
  | some l => { s with l2 := SMap.del s.l2 k ++ [(k, l.use lo n w)] }
  | none =>
    let slice := homeSlice (bits attr.toNat 9 8) (512 * k)
    let len := s.storedLen k
    let l : L2Line := ⟨ctx, 0, (match len with | some c => sectorBytes (sectorsOf 0 c) | none => 0), len.isSome, slice, 0⟩
    let r := l2Add s.l2 (s.claimed slice) k (l.use lo n w)
    { s with
      l2 := r.1, metaC := s.metaFetch (slice / 64) k
      l2out := s.l2out ++ (r.2.toList.filter fun v => v.2.dirty != 0#8 || paHost (512 * v.1)).map fun v => (v.1, v.2, false) }
/-- The lines of n bytes at pa become present (R235). -/
def State.touchL2 (s : State) (ctx pa n : Nat) (w : Bool) (attr : BitVec 10) : State :=
  (linesOf pa n).foldl (fun s k =>
    let lo := max pa (512 * k)
    s.l2Use ctx k (lo - 512 * k) (min (pa + n) (512 * k + 512) - lo) w attr) s
/-- The line of an address becomes the least recently used of its set (R271). -/
def State.l2Last (s : State) (pa : Nat) : State :=
  match SMap.get? s.l2 (pa / 512) with
  | some l => { s with l2 := (pa / 512, l) :: SMap.del s.l2 (pa / 512) }
  | none => s

/-- The host has the bytes that a write of the L2 to a page with SC = 0 covers (R329), until the line is written back. -/
def State.hostKeep (s : State) (pa n : Nat) : State :=
  { s with hostMem := (List.range n).foldl (fun h i => if (SMap.get? h (pa + i)).isSome then h else SMap.put h (pa + i) (Mem.get s.mem (pa + i))) s.hostMem }
/-- The dirty bytes of a line of host memory are written to the host (R235, R329). -/
def State.hostPut (s : State) (k : Nat) (l : L2Line) : State :=
  { s with hostMem := s.hostMem.map fun x =>
      if x.1 / 512 == k && l.dirty.getLsbD (x.1 % 512 / 64) && l.valid.getLsbD (x.1 % 512) then (x.1, Mem.get s.mem x.1) else x }
/-- A line of host memory is written back and leaves (R235, R329): its dirty bytes go to the host, the host's own bytes show elsewhere. -/
def State.hostSync (s : State) (k : Nat) (l : L2Line) : State :=
  if !paHost (512 * k) then s
  else
    let mine := s.hostMem.filter fun x => x.1 / 512 == k
    { s with
      mem := mine.foldl (fun m x => if l.dirty.getLsbD (x.1 % 512 / 64) && l.valid.getLsbD (x.1 % 512) then m else Mem.set m x.1 x.2) s.mem
      hostMem := s.hostMem.filter fun x => x.1 / 512 != k }
/-- The L2 lines of a context's host pages leave when a grid of it starts or ends (R329). -/
def State.hostDrop (s : State) (ctx : Nat) : State :=
  let out := s.l2.filter fun x => paHost (512 * x.1) && x.2.owner == ctx
  let s1 := out.foldl (fun s x => s.hostSync x.1 x.2) s
  { s1 with
    l2 := s.l2.filter fun x => !(paHost (512 * x.1) && x.2.owner == ctx)
    l2out := s.l2out ++ (out.filter fun x => x.2.dirty != 0#8).map fun x => (x.1, x.2, false) }

/-- The poisoned sectors that overlap n bytes at pa, or a poisoned line of a window (R240, R307). -/
def State.poisoned (s : State) (pa n : Nat) : Bool :=
  (s.poison.any fun k => decide (64 * k < pa + n) && decide (pa < 64 * k + 64)) ||
  (s.hasCw && (linesOf pa n).any fun k => (s.lineView k).2)

/-- The 16 entries of a metadata sector become poisoned (R310). -/
def State.poisonMeta (s : State) (a : Nat) : State :=
  let b := a / 64 * 64
  { s with mem := (List.range 16).foldl (fun m i => Mem.writeN m (b + 4 * i) (2 ^ 31) 4) s.mem
           poison := s.poison.filter fun k => k != a / 64 }
/-- After a read that met an uncorrectable metadata sector, its entries are poisoned (R310). -/
def State.ueRead (s : State) (pa n : Nat) : State :=
  if !s.hasCw then s
  else (linesOf pa n).foldl (fun s k => match s.cwEntry (512 * k) with
    | some a => if s.metaBad a then s.poisonMeta a else s
    | none => s) s
/-- A write that covers part of a line whose metadata cannot be read (R310). -/
def State.metaUe (s : State) (pa n : Nat) : Bool :=
  s.hasCw && (linesOf pa n).any fun k => match s.cwEntry (512 * k) with
    | some a => s.metaBad a && !(decide (pa ≤ 512 * k) && decide (512 * k + 512 ≤ pa + n))
    | none => false

/-- A write that metadata does not let happen: the entries of its lines become poisoned (R310). -/
def State.ueWrite (s : State) (pa n : Nat) : State := s.ueRead pa n

/-- Write n bytes as they are; a sector that is wholly written loses its poison (R240). -/
def State.rawWrite (s : State) (pa v n : Nat) : State :=
  { s with
    mem := Mem.writeN s.mem pa v n
    poison := s.poison.filter fun k => !(decide (pa ≤ 64 * k) && decide (64 * k + 64 ≤ pa + n)) }
/-- A partial write of a line whose metadata cannot be read is charged to the context of its writer (R310, R396), as the L2 evicts it. -/
def State.metaNote (s : State) (ctx pa : Nat) : State :=
  { s with l2out := s.l2out ++ [(pa / 512, ⟨ctx, sectorsOf (pa % 512) 1, 0, false, 0, 0⟩, true)] }
/-- Write within one line of a window (R309, R310): a whole line is stored raw; a packed line is expanded first. -/
def State.lineWrite (s : State) (ctx pa v n : Nat) : State :=
  match s.cwEntry pa with
  | none => s.rawWrite pa v n
  | some a =>
    if n == 512 then { s.rawWrite pa v n with mem := Mem.writeN (Mem.writeN s.mem pa v n) a 0 4 }
    else if s.metaBad a then (s.poisonMeta a).metaNote ctx pa
    else
      let k := pa / 512
      let e := Mem.readN s.mem a 4
      if bit e 30 && !(s.lineView k).2 then
        ({ s with mem := Mem.writeN (Mem.put s.mem (512 * k) (s.lineView k).1) a 0 4 }).rawWrite pa v n
      else s.rawWrite pa v n
/-- Write n bytes line by line, at most k lines. -/
def State.linesWrite (s : State) (ctx pa v n : Nat) : Nat → State
  | 0 => s
  | k + 1 =>
    if n == 0 then s
    else let m := min n (512 - pa % 512); State.linesWrite (s.lineWrite ctx pa v m) ctx (pa + m) (v >>> (8 * m)) (n - m) k

/-- Write the low n bytes of v at physical address pa for a context, through a page with these leaf bits. -/
def State.pwrite (s : State) (ctx pa v n : Nat) (attr : BitVec 10) : State :=
  let c := cachedPage pa attr
  let s0 := if c && paHost pa then s.hostKeep pa n else s
  let s1 := if s0.hasCw then s0.linesWrite ctx pa v n (n / 512 + 2) else s0.rawWrite pa v n
  if c then s1.touchL2 ctx pa n true attr else s1

/-- Read n bytes at physical address pa. -/
def State.pread (s : State) (pa n : Nat) : Nat := if s.hasCw then leNat (s.pbytes pa n) else Mem.readN s.mem pa n

/-! ### Translation (R241-R250, R451, R452) -/

/-- Kinds of access by what the leaf must permit (R247); own: a write of the device itself to a pool (R469, log 116). -/
inductive Acc | read | write | trail | pool | own | xt | xl
  deriving DecidableEq, Repr

/-- The outcome of a translation (R246): physical address and leaf bits [9:0], a replayable fault with its reason and level, or
PROTECTION. -/
inductive Tr
  | ok (pa : Nat) (attr : BitVec 10)
  | pf (reason level : Nat)
  | prot
  deriving DecidableEq, Repr

/-- Whether a leaf permits an access (R247). -/
def permits (attr : BitVec 10) : Acc → Bool
  | .read => true
  | .write => attr.getLsbD 1 && !attr.getLsbD 2
  | .trail | .pool => attr.getLsbD 1 && attr.getLsbD 2
  | .own => attr.getLsbD 1
  | .xt => attr.getLsbD 4
  | .xl => attr.getLsbD 5

/-- The lowest VA bit of a level's index (R242). -/
def lvlShift (l : Nat) : Nat := match l with | 3 => 43 | 2 => 34 | 1 => 25 | _ => 16

/-- A malformed entry of a level (R243). -/
def pteBad (l va e : Nat) : Bool :=
  let leaf := bit e 6
  bits e 63 48 != 0 || bits e 11 10 != 0 || (l == 3 && leaf) || (l == 0 && !leaf) || (!leaf && bits e 9 1 != 0) ||
  (leaf && l == 0 && bits e 15 12 != 0) || (leaf && l == 1 && bits e 24 12 != 0) || (leaf && l == 2 && bits e 33 12 != 0) ||
  (bit e 7 && !(leaf && l == 0)) || (bit e 7 && bits e 20 16 != bits va 20 16) || (leaf && 2 ≤ bits e 9 8)

/-- The outcome of a walk: the leaf, or where it stopped. -/
inductive Walk
  | leaf (level e : Nat)
  | stop (reason level : Nat)
  deriving DecidableEq, Repr

/-- The walk from a table (R242, R246, log 12), level k - 1 first, with the table entries it read. -/
def walkGo (rdE : Nat → Nat) (tabOk : Nat → Bool) (va : Nat) : Nat → Nat → List (Nat × Dword) → Walk × List (Nat × Dword)
  | 0, _, us => (.stop 1 0, us)
  | k + 1, tab, us =>
    if !tabOk tab then (.stop 1 k, us)
    else
      let a := tab + 8 * (va >>> lvlShift k % 512)
      let e := rdE a
      if !bit e 0 then (.stop 0 k, us)
      else if pteBad k va e then (.stop 1 k, us)
      else if bit e 6 then (.leaf k e, us)
      else walkGo rdE tabOk va k (bits e 47 12 <<< 12) ((a, BitVec.ofNat 64 e) :: us)

/-- The translation buffer that serves an access (R249). -/
inductive Tlb
  | core (c : Nat)
  | quad (q : Nat)
  | l2 (quarter : Nat)
  deriving DecidableEq, Repr

/-- The quarter of a buffer. -/
def Tlb.quarter : Tlb → Nat
  | .core c => quarterOf c
  | .quad q => q / 8
  | .l2 q => q

/-- An entry that holds an address. -/
def TlbEnt.hits (e : TlbEnt) (ctx va : Nat) : Bool :=
  e.ctx == ctx && decide (e.vbase ≤ va / 4096) && decide (va / 4096 < e.vbase + 2 ^ (e.lg - 12))
/-- The physical address that an entry gives. -/
def TlbEnt.pa (e : TlbEnt) (va : Nat) : Nat := e.pbase + va % 2 ^ e.lg

/-- The entries of a buffer. -/
def State.tlb (s : State) : Tlb → List TlbEnt
  | .core c => (s.core c).tlb
  | .quad q => (s.quad q).tlb
  | .l2 k => SMap.get s.l2tlb k []
/-- The set of an entry among n (R249): its page number modulo n (log 17). -/
def TlbEnt.set (e : TlbEnt) (n : Nat) : Nat := e.vbase / 2 ^ (e.lg - 12) % n
/-- Install an entry in an 8-way buffer of n sets: the oldest of a full set leaves (log 17). -/
def tlbIns (n : Nat) (e : TlbEnt) (l : List TlbEnt) : List TlbEnt :=
  let same := l.filter fun x => x.set n == e.set n
  e :: (if same.length < 8 then l else match same.getLast? with | some v => l.erase v | none => l)
/-- Install an entry (R249): 64 in a core's buffer, 256 in a walk-ahead buffer, 8,192 in a quarter's; the oldest leaves when there is no room (log 17). -/
def State.tlbAdd (s : State) (e : TlbEnt) : Tlb → State
  | .core c => s.modCore c fun x => { x with tlb := (e :: x.tlb).take 64 }
  | .quad q => s.modQuad q fun x => { x with tlb := tlbIns 32 e x.tlb }
  | .l2 k => { s with l2tlb := SMap.put s.l2tlb k (tlbIns 1024 e (SMap.get s.l2tlb k [])) }

/-- The page walk of a quarter for a context (R242-R244, R249, R451, R452): on success the translation is installed in the
quarter's L2 TLB and the tables it used in the table-entry cache. A member of a 2 MiB group is installed as its own 64 KiB page
(log 18). -/
def State.pageWalk (s : State) (quarter ctx va : Nat) : State × (Tlb → Except Tr TlbEnt) :=
  let root := s.regN (ctxReg ctx 0x200)
  if !bit root 0 then (s, fun _ => .error (.pf 2 3))
  else
    let cache := SMap.get s.pteCache quarter []
    let rdE := fun a => match cache.find? (fun x => x.1 == ctx && x.2.1 == a) with | some x => x.2.2.toNat | none => s.pread a 8
    let put : List (Nat × Dword) → State := fun us => { s with pteCache := SMap.put s.pteCache quarter ((((us.filter fun x => !cache.any fun y => y.1 == ctx && y.2.1 == x.1).map fun x => (ctx, x.1, x.2)) ++ cache).take 256) }
    match walkGo rdE (s.allotted ctx) (va % 2 ^ 52) 4 (bits root 47 12 <<< 12) [] with
    | (.stop r l, us) => (put us, fun _ => .error (.pf r l))
    | (.leaf l e, us) =>
      let s1 := put us
      let lg := lvlShift l
      let base := bits e 47 12 <<< 12
      let ent : TlbEnt := ⟨ctx, (va % 2 ^ 52) >>> lg <<< (lg - 12), lg, base, BitVec.ofNat 10 e⟩
      let a := ent.pa (va % 2 ^ 52)
      if paReserved a || paSafe a || !(paHost a || s.allotted ctx a) || (paHost a && !Config.atsAllows ctx (a / 4096)) then (s1, fun _ => .error .prot)
      else (s1.tlbAdd ent (.l2 quarter), fun _ => .ok ent)

/-- Translate an address for an access (R246-R249). -/
def State.translate (s : State) (b : Tlb) (ctx va : Nat) (k : Acc) : State × Tr :=
  let fin := fun (s : State) (e : TlbEnt) =>
    (s, if permits e.attr k then Tr.ok (e.pa (va % 2 ^ 52)) e.attr else .prot)
  if !canonical va then (s, .prot)
  else
    match (s.tlb b).find? (fun e => e.hits ctx (va % 2 ^ 52)) with
    | some e => fin s e
    | none =>
      match (s.tlb (.l2 b.quarter)).find? (fun e => e.hits ctx (va % 2 ^ 52)) with
      | some e => fin (match b with | .l2 _ => s | _ => s.tlbAdd e b) e
      | none =>
        match s.pageWalk b.quarter ctx va with
        | (s1, f) =>
          match f b with
          | .ok e => fin (match b with | .l2 _ => s1 | _ => s1.tlbAdd e b) e
          | .error r => (s1, r)

/-! ### L1 (R230-R233) -/

/-- Byte j of a line. -/
def L1Line.byte (l : L1Line) (j : Nat) : Byte := l.data.extractLsb' (8 * j) 8
/-- Bit mask of n bytes from j. -/
def maskN (j n : Nat) : BitVec 128 := BitVec.ofNat 128 ((2 ^ n - 1) <<< j)
/-- Replace n bytes from j of a line's data. -/
def lineSet (d : BitVec 1024) (j n v : Nat) : BitVec 1024 :=
  BitVec.ofNat 1024 (d.toNat - (d.toNat >>> (8 * j) % 2 ^ (8 * n)) <<< (8 * j) + (v % 2 ^ (8 * n)) <<< (8 * j))

/-- Write back the bytes of a line that a mask selects, one byte at a time under the mask. -/
def State.wbBytes (s : State) (l : L1Line) (m : BitVec 128) : State :=
  (List.range 128).foldl (fun s j => if m.getLsbD j then s.pwrite l.ctx (128 * l.line + j) (l.byte j).toNat 1 l.attr else s) s

/-- The L1 line that holds a physical address. -/
def State.l1? (s : State) (c pa : Nat) : Option L1Line := (s.core c).l1.find? fun l => l.line == pa / 128
/-- Put a line in its core's L1 as the most recently used; a full set first loses its least recently used clean line, else its
least recently used line, written back (R230, R232). -/
def State.l1Put (s : State) (c : Nat) (l : L1Line) : State :=
  let rest := (s.core c).l1.filter fun x => x.line != l.line
  let same := rest.filter fun x => x.line % 256 == l.line % 256
  if same.length < 8 then s.modCore c fun x => { x with l1 := rest ++ [l] }
  else
    match (same.find? fun x => x.dirty == 0#128).or same.head? with
    | none => s.modCore c fun x => { x with l1 := rest ++ [l] }
    | some v => (s.wbBytes v v.dirty).modCore c fun x => { x with l1 := (rest.filter fun y => y.line != v.line) ++ [l] }
/-- Drop a line. -/
def State.l1Drop (s : State) (c line : Nat) : State := s.modCore c fun x => { x with l1 := x.l1.filter fun y => y.line != line }
/-- Replace a line where it stands. -/
def State.l1Upd (s : State) (c : Nat) (l : L1Line) : State :=
  s.modCore c fun x => { x with l1 := x.l1.map fun y => if y.line == l.line then l else y }

/-- Write back every dirty byte of a core's L1 (R232); the lines stay, their dirty bytes now valid. -/
def State.l1Flush (s : State) (c : Nat) : State :=
  let s1 := (s.core c).l1.foldl (fun s l => s.wbBytes l l.dirty) s
  s1.modCore c fun x => { x with l1 := x.l1.map fun l => { l with valid := l.valid ||| l.dirty, dirty := 0#128 } }
/-- Drop every clean line (R231). -/
def State.l1DropClean (s : State) (c : Nat) : State := s.modCore c fun x => { x with l1 := x.l1.filter fun l => l.dirty != 0#128 }

/-- Empty a core's record cache of a context's records (R289). -/
def State.rcEmpty (s : State) (c ctx : Nat) : State := s.modCore c fun x => { x with rcache := x.rcache.filter fun r => r.1 != ctx }
/-- A write by a thread or an engine of the core removes the records it overlaps (R289). -/
def State.rcWrite (s : State) (c ctx va n : Nat) : State :=
  if (s.core c).rcache.isEmpty then s
  else s.modCore c fun x => { x with rcache := x.rcache.filter fun r => !(r.1 == ctx && decide (r.2.1 < va + n) && decide (va < r.2.1 + 64)) }

/-- The L1 actions of a release at a scope (R231, R232): the dirty bytes of the core's L1, of grids of either mode, are written back; other stores
are performed at issue (log 3). -/
def State.release (s : State) (c : Nat) (sc : Scope) : State := if sc == .blk then s else s.l1Flush c
/-- The L1 actions of an acquire at a scope by an agent of a context (R231, R232): dirty bytes are written back, then every line goes; the
context's records leave the record cache with them (R289). -/
def State.acquire (s : State) (c ctx : Nat) (sc : Scope) : State := if sc == .blk then s else ((s.l1Flush c).l1DropClean c).rcEmpty c ctx

/-- Whether some of n bytes at pa are neither valid nor dirty in a core's L1. -/
def State.missing (s : State) (c pa n : Nat) : Bool :=
  match s.l1? c pa with
  | none => true
  | some l => (List.range n).any fun i => !(l.valid ||| l.dirty).getLsbD ((pa + i) % 128)
/-- The value of n bytes at pa from memory, under the core's own dirty bytes (R232). -/
def State.under (s : State) (c pa n : Nat) : Nat :=
  match s.l1? c pa with
  | none => s.pread pa n
  | some l => leNat ((List.range n).map fun i => let j := (pa + i) % 128
      if l.dirty.getLsbD j then l.byte j else BitVec.ofNat 8 (s.pread (pa + i) 1))
/-- The value of n bytes at pa as a core sees it (R230, R232): its L1's where it holds all of them, else memory's under its dirty bytes. -/
def State.seen (s : State) (c pa n : Nat) : Nat :=
  if s.missing c pa n then s.under c pa n
  else match s.l1? c pa with
    | some l => leNat ((List.range n).map fun i => l.byte ((pa + i) % 128))
    | none => 0

/-- Fill the 32-byte sector of pa into a line, under its dirty bytes (R230, R232). -/
def State.l1Fill (s : State) (c ctx pa : Nat) (attr : BitVec 10) : State :=
  let l := (s.l1? c pa).getD ⟨pa / 128, 0, 0, 0, ctx, attr⟩
  let b := pa / 32 * 32
  let j := b % 128
  let v := s.under c b 32
  (s.touchL2 ctx b 32 false attr).l1Put c { l with data := lineSet l.data j 32 v, valid := l.valid ||| maskN j 32 }

/-- The L2 line of an access with hint .cs becomes the least recently used of its set (R271). -/
def State.hinted (s : State) (pa : Nat) (h : Hint) : State := if h == .cs then s.l2Last pa else s

/-- A load of n bytes through L1 (R230-R232, R271): none when the data comes from a poisoned sector (R240). -/
def State.l1Load (s : State) (c ctx pa n : Nat) (h : Hint) (attr : BitVec 10) : State × Option Nat :=
  let v := s.seen c pa n
  if s.missing c pa n then
    if s.poisoned pa n then (s.ueRead pa n, none)
    else if !cachedPage pa attr then (s, some v)
    else if h == .dflt then (s.l1Fill c ctx pa attr, some v)
    else ((s.touchL2 ctx pa n false attr).hinted pa h, some v)
  else
    match s.l1? c pa with
    | some l => ((s.l1Put c l).hinted pa h, some v)
    | none => (s, some v)
/-- A load of n bytes at the home slice, past L1 (R317): none when it meets a poisoned sector. -/
def State.homeLoad (s : State) (ctx pa n : Nat) (h : Hint) (attr : BitVec 10) : State × Option Nat :=
  if s.poisoned pa n then (s.ueRead pa n, none)
  else ((if cachedPage pa attr then (s.touchL2 ctx pa n false attr).hinted pa h else s), some (s.pread pa n))

/-- A store of n bytes through L1 (R231, R232, R271). -/
def State.l1Store (s : State) (c ctx pa n v : Nat) (h : Hint) (wb : Bool) (attr : BitVec 10) : State :=
  let j := pa % 128
  if wb && h == .dflt && cachedPage pa attr then
    let l := (s.l1? c pa).getD ⟨pa / 128, 0, 0, 0, ctx, attr⟩
    s.l1Put c { l with data := lineSet l.data j n v, dirty := l.dirty ||| maskN j n }
  else
    let s1 := match s.l1? c pa with
      | none => s
      | some l =>
        let held := (List.range n).foldl (fun (x : L1Line) i =>
          if (x.valid ||| x.dirty).getLsbD (j + i) then { x with data := lineSet x.data (j + i) 1 (v >>> (8 * i)) } else x) l
        s.l1Upd c { held with
          valid := held.valid ||| (held.dirty &&& maskN j n)
          dirty := held.dirty &&& ~~~(maskN j n) }
    (s1.pwrite ctx pa v n attr).hinted pa h

/-- Before an atomic leaves the core: dirty bytes of the touched sectors are written back and the sectors invalidated (R230). -/
def State.l1Atomic (s : State) (c pa : Nat) : State :=
  match s.l1? c pa with
  | none => s
  | some l =>
    let m := maskN (pa / 32 * 32 % 128) 32
    (s.wbBytes l (l.dirty &&& m)).l1Upd c { l with valid := l.valid &&& ~~~m, dirty := l.dirty &&& ~~~m }

/-- Before n bytes at pa are accessed at their home slice for a thread of the core: as before an atomic, sector by sector (R230, R318). -/
def State.l1Home (s : State) (c pa n : Nat) : State :=
  if (s.core c).l1.isEmpty then s
  else (List.range ((pa % 32 + n + 31) / 32)).foldl (fun s k => s.l1Atomic c (pa + 32 * k)) s

/-- The issuing core's L1 when an engine command writes n bytes at pa (R233). -/
def State.l1Engine (s : State) (c pa n : Nat) : State :=
  let hit := (s.core c).l1.filter fun l => decide (l.line * 128 < pa + n) && decide (pa < l.line * 128 + 128)
  hit.foldl (fun s l =>
    let m := (List.range 128).foldl (fun (m : BitVec 128) j =>
      if pa ≤ l.line * 128 + j && l.line * 128 + j < pa + n then m else m ||| maskN j 1) 0
    (s.wbBytes l (l.dirty &&& m)).l1Drop c l.line) s

/-! ### Registers of threads (R77, R156, R384) -/

/-- A register as the warp's lane names it: v255 reads 0, and in handler mode v0-v31 are the trap row's. -/
def Block.vget (b : Block) (w l : Nat) (r : VReg) : Word :=
  if r == 255#8 then 0
  else
    match b.warps[w]? with
    | none => 0
    | some x =>
      match x.threads[l]? with
      | none => 0
      | some th =>
        if th.hmode && decide (r.toNat < 32) then SMap.get b.traps (x.hsel.getD 0 * 1024 + r.toNat * 32 + l) 0
        else SMap.get th.regs r.toNat 0

/-- A mapped register of a consumer binding (R348); in handler mode v0-v31 are the trap row's (log 19). -/
def Thread.mapped (th : Thread) (r : VReg) : Bool :=
  !(th.hmode && decide (r.toNat < 32)) && th.binds.any fun x => !x.2.prod && x.2.reg == r

/-- Write a register: v255 and a mapped register discard the write (R157, R349). -/
def Block.vset (b : Block) (w l : Nat) (r : VReg) (v : Word) : Block :=
  if r == 255#8 then b
  else
    match b.warps[w]? with
    | none => b
    | some x =>
      match x.threads[l]? with
      | none => b
      | some th =>
        if th.hmode && decide (r.toNat < 32) then { b with traps := SMap.putD b.traps (x.hsel.getD 0 * 1024 + r.toNat * 32 + l) 0 v }
        else if th.mapped r then b
        else b.modThread w l fun th => { th with regs := SMap.putD th.regs r.toNat 0 v }

/-- The physical pool word that holds a register (R56, R217, R218, R384), as State.poolBad numbers it. -/
def Block.regWord (b : Block) (w l : Nat) (r : VReg) : Nat :=
  let base := ((b.warps.take w).map Warp.rows).sum
  let x := b.warps[w]?
  let ws := (x.map Warp.wslot).getD 0
  let trap := decide (r.toNat < 32) && match x.bind fun x => x.threads[l]? with | some th => th.hmode | none => false
  let row := b.rows.getD (if trap then b.rows.length - 2 + ((x.bind Warp.hsel).getD 0) else base + r.toNat / 32) 0
  (b.core * 768 + row) * 512 + 16 * l + (r.toNat % 32 / 2 ^^^ ws % 16)

/-- A write of n registers heals the words that it covers (R240). -/
def State.regHeal (s : State) (t : TRef) (r : VReg) (n : Nat) : State :=
  if s.poolBad.isEmpty || r == 255#8 || n < 2 then s
  else
    match s.block? t.core t.slot with
    | none => s
    | some b =>
      let ws := (List.range (n / 2)).map fun k => b.regWord t.warp t.lane (r + BitVec.ofNat 8 (2 * k))
      { s with poolBad := s.poolBad.filter fun x => !ws.contains x }

/-- A register of a thread. -/
def State.rv (s : State) (t : TRef) (r : VReg) : Word :=
  match s.block? t.core t.slot with
  | some b => b.vget t.warp t.lane r
  | none => 0
/-- Write a register of a thread. -/
def State.wv (s : State) (t : TRef) (r : VReg) (v : Word) : State := s.modBlock t.core t.slot fun b => b.vset t.warp t.lane r v
/-- n registers as one number, the first lowest (R4). -/
def State.rvN (s : State) (t : TRef) (r : VReg) : Nat → Nat
  | 0 => 0
  | n + 1 => (s.rv t r).toNat + 2 ^ 32 * State.rvN s t (r + 1) n
/-- Write n registers from one number, one by one; v255 discards all of it (R263). -/
def State.wvEach (s : State) (t : TRef) (r : VReg) (v : Nat) : Nat → State
  | 0 => s
  | n + 1 => if r == 255#8 then s else State.wvEach (s.wv t r (BitVec.ofNat 32 v)) t (r + 1) (v / 2 ^ 32) n
/-- Write n registers from one number (R263): a pair is one access of its bank word (R77), which it heals (R240). -/
def State.wvN (s : State) (t : TRef) (r : VReg) (v n : Nat) : State := (s.regHeal t r n).wvEach t r v n
/-- A pair (R4). -/
def State.rp (s : State) (t : TRef) (r : VReg) : Nat := s.rvN t r 2
/-- A predicate: p7 reads true (R77). -/
def State.pget (s : State) (t : TRef) (p : PReg) : Bool :=
  p == 7#3 || (match s.thread? t with | some th => th.pred.getLsbD p.toNat | none => false)
/-- Write a predicate; p7 discards the write. -/
def State.pset (s : State) (t : TRef) (p : PReg) (v : Bool) : State :=
  if p == 7#3 then s
  else s.modThread t fun th => { th with pred := if v then th.pred ||| (1#7 <<< p.toNat) else th.pred &&& ~~~(1#7 <<< p.toNat) }

/-! ### Frames and the trace ring (R425, R426): accesses in the context, dropped where the page does not permit them (log 25) -/

/-- Write n bytes at va, in the pieces that its 64 KiB pages make; at most k pieces. -/
def State.ctxW (s : State) (ctx va n v : Nat) : Nat → State
  | 0 => s
  | k + 1 =>
    if n == 0 then s
    else
      let m := min n (65536 - va % 65536)
      let s1 := match s.translate (.l2 0) ctx va .write with
        | (s1, .ok pa a) => s1.pwrite ctx pa v m a
        | (s1, _) => s1
      State.ctxW s1 ctx (va + m) (n - m) (v >>> (8 * m)) k
/-- Read n bytes at va, all in one page: 0 where the page does not permit it. -/
def State.ctxR (s : State) (ctx va n : Nat) : Nat :=
  match s.translate (.l2 0) ctx va .read with | (_, .ok pa _) => s.pread pa n | _ => 0

/-- The thread-side schedule cycle (R425). -/
def scycThread (ws l : Nat) (pc : Dword) : Nat := ws <<< 8 + l <<< 16 + pc.toNat <<< 64
/-- The tile-side schedule cycle (R425). -/
def scycTile (t : TileCtx) : Nat :=
  1 + t.sg.toNat <<< 8 + t.pc.toNat <<< 64 + ((List.range 6).map fun k => (SMap.get t.lc k 0).toNat <<< (128 + 32 * k)).sum

/-- Place a trace record of a core (R426): dropped with OVF when the ring is full; no register frees a record, so it is full once
NEXT has reached its size (log 27). -/
def State.traceRec (s : State) (core slot ctx kind stall : Nat) (scyc : Nat) : State :=
  let c := s.regN (ctxReg ctx 0xC28)
  if !bit (s.regN (ctxReg ctx 0x900)) 1 then s
  else
    let next := bits c 63 32
    if 2 ^ (c % 16 + 6) ≤ next then s.setReg (ctxReg ctx 0xC28) (BitVec.ofNat 64 (c ||| 2 ^ 31))
    else
      let tok := (((s.block? core slot).bind s.gridOf).map fun g => g.token.toNat).getD 0
      let w := (next + 1) % 2 ^ 32 + kind <<< 32 + core <<< 40 + slot <<< 48 + stall <<< 56 + (s.clk % 2 ^ 64) <<< 64 + tok <<< 128 + scyc <<< 192
      (s.ctxW ctx (s.regN (ctxReg ctx 0xC20) + 64 * next) 64 w 2).setReg (ctxReg ctx 0xC28) (setField (BitVec.ofNat 64 c) 63 32 (next + 1))

/-- A trace record of a block's tile side (R426). -/
def State.traceTile (s : State) (b : Block) (kind : Nat) : State := s.traceRec b.core b.slot b.ctx kind 0 (scycTile b.tile)
/-- A trace record of a thread (R426). -/
def State.traceThread (s : State) (t : TRef) (kind : Nat) : State :=
  match s.block? t.core t.slot with
  | none => s
  | some b => s.traceRec t.core t.slot b.ctx kind 0 (scycThread (((b.warps[t.warp]?).map Warp.wslot).getD 0) t.lane (((b.thread? t.warp t.lane).map Thread.pc).getD 0))

/-! ### Taking an exception (R380-R386, R412, R417, R418) -/

/-- Cause codes (R380). -/
def cIllegalOpcode : Nat := 0x01
/-- ILLEGAL_ENCODING. -/
def cIllegalEncoding : Nat := 0x02
/-- EXT_EMULATE. -/
def cExtEmulate : Nat := 0x03
/-- PRIVILEGE. -/
def cPrivilege : Nat := 0x04
/-- LOOKAHEAD_VIOLATION. -/
def cLookahead : Nat := 0x05
/-- MISALIGNED. -/
def cMisaligned : Nat := 0x06
/-- BOUNDS. -/
def cBounds : Nat := 0x07
/-- PAGE_FAULT. -/
def cPageFault : Nat := 0x08
/-- PROTECTION. -/
def cProtection : Nat := 0x09
/-- TRAIL_OVERRUN. -/
def cTrailOverrun : Nat := 0x0A
/-- TRAIL_STATE. -/
def cTrailState : Nat := 0x0B
/-- QUEUE_CLOSED_EMPTY. -/
def cQueueClosed : Nat := 0x0C
/-- BARRIER_POISON. -/
def cBarrierPoison : Nat := 0x0D
/-- CHECKSUM. -/
def cChecksum : Nat := 0x0E
/-- UNCORRECTABLE. -/
def cUncorrectable : Nat := 0x0F
/-- TILE_BINDING. -/
def cTileBinding : Nat := 0x10
/-- WATCHPOINT. -/
def cWatchpoint : Nat := 0x11
/-- BREAKPOINT. -/
def cBreakpoint : Nat := 0x12
/-- TRAP_INSTR. -/
def cTrap : Nat := 0x13
/-- FP_TRAP. -/
def cFpTrap : Nat := 0x14
/-- CONVERGENCE_STALL. -/
def cConvergence : Nat := 0x15
/-- FABRIC. -/
def cFabric : Nat := 0x16
/-- META_UE. -/
def cMetaUe : Nat := 0x18
/-- GATE_MISUSE. -/
def cGateMisuse : Nat := 0x19
/-- SINGLE_STEP. -/
def cSingleStep : Nat := 0x1C

/-- The trace record of a WATCHPOINT that meets a thread (R426). -/
def State.hitTrace (s : State) (t : TRef) (code : Nat) : State := if code == cWatchpoint then s.traceThread t 6 else s

/-- A precise cause at a PC, with h0 (R380, R385). -/
def causeOf (code : Nat) (info : Nat) (pc : Dword) : Cause :=
  ⟨code, BitVec.ofNat 64 info, 0, pc, pc, 0, 0, 0, false, false, 0, 0, 0⟩
/-- A precise cause whose h0 is a virtual address, which FAULTVA then holds (R50). -/
def causeVa (code : Nat) (va : Nat) (pc : Dword) : Cause := { causeOf code va pc with va := BitVec.ofNat 64 va }

/-- A fault of a long-latency instruction after its issue: the resume PC is the thread's first unissued instruction (R87). -/
def Cause.late (c : Cause) (pc : Dword) : Cause := { c with rpc := pc }

/-- The first fault of a grid starts its abort; a later one only counts (R52, R53). -/
def State.abortGrid (s : State) (g : Nat) (lin : Nat) (c : Cause) (snap : Option Block) : State :=
  s.modGrid g fun x =>
    let n := min (x.nfaults + 1) 0xFFFF
    match x.first with
    | some _ => { x with nfaults := n }
    | none => { x with nfaults := n, first := some c, fva := c.va, fblock := lin, snap := snap,
                       phase := if x.phase == .running then .aborting else x.phase,
                       status := if x.status == 0 then 1 else x.status }

/-- A thread's fault that no handler takes aborts its grid; the faulting block is kept for ABORTCSF (R52). -/
def State.abortBy (s : State) (t : TRef) (c : Cause) : State :=
  match s.block? t.core t.slot with
  | none => s
  | some b =>
    let s1 := s.modThread t fun th => { th with cause := some c }
    s1.abortGrid b.grid b.lin c (s1.block? t.core t.slot)

/-- The job of a grid: JOBID of its record (R38, R454). -/
def Grid.jobid (g : Grid) : Nat := bits g.raw.toNat 791 768
/-- JTAG of a grid's record (R38). -/
def Grid.jtag (g : Grid) : Nat := bits g.raw.toNat 927 896
/-- Devices of a grid's job: 1 for a grid without a job (R266, R454). -/
def State.jobDevices (s : State) (g : Grid) : Nat := if g.jobid == 0 then 1 else bits (s.regN (ctxReg g.ctx 0x2C0)) 57 48 + 1
/-- JOBCFG.JOBID of a context (R454). -/
def State.jobOf (s : State) (ctx : Nat) : Nat := bits (s.regN (ctxReg ctx 0x2C0)) 23 0
/-- The link that carries a context's traffic to a device (R455). -/
def State.route (s : State) (ctx d : Nat) : Option Nat :=
  let v := s.regN (ctxReg ctx (0x3000 + 8 * d))
  if bit v 7 then some (v % 16) else none
/-- The links of a context's job: those that its routes to the job's other devices name (R417, R455; log 21). -/
def State.jobLinks (s : State) (ctx : Nat) : List Nat :=
  let v := s.regN (ctxReg ctx 0x2C0)
  let ds := (List.range (bits v 57 48 + 1)).filter fun d => d != bits v 41 32
  (List.range 16).filter fun l => ds.any fun d => s.route ctx d == some l

/-- RB_STATE.STATE of a context (R419). -/
def State.rbState (s : State) (ctx : Nat) : Nat := s.regN (ctxReg ctx 0x928) % 8
/-- The device index of a context's job (R454). -/
def State.devIdx (s : State) (ctx : Nat) : Nat := bits (s.regN (ctxReg ctx 0x2C0)) 41 32

/-- Write the pending results of a block's threads that are known. -/
def Block.land (b : Block) : Block :=
  b.refs.foldl (fun b t =>
    match b.thread? t.warp t.lane with
    | none => b
    | some th =>
      let b1 := th.pend.foldl (fun b p =>
        match p.value with
        | none => b
        | some v => (List.range p.n).foldl (fun b i => if p.dst == 255#8 then b else b.vset t.warp t.lane (p.dst + BitVec.ofNat 8 i) (BitVec.ofNat 32 (v >>> (32 * i)))) b) b
      b1.modThread t.warp t.lane fun th => { th with pend := th.pend.filter (fun p => p.value.isNone) }) b
/-- Stop the threads of a block as a pre-emption or a debug freeze does (R87, R406, R420): results that are known are written, back-offs and snoozes
are discarded (R179). -/
def Block.settle (b : Block) : Block :=
  { b.land with warps := b.land.warps.map fun (w : Warp) => { w with threads := w.threads.map fun (th : Thread) => { th with snooze := none } } }

/-- Freeze a block for a reason; a decision on its variant is discarded (R66). -/
def Block.freeze (b : Block) (w : FreezeWhy) : Block :=
  { b.settle with state := .frozen, deciding := none, why := if b.why.contains w then b.why else w :: b.why }

/-- The block is gated now (R346). -/
def Block.gated (b : Block) : Bool := match b.gate with | some g => g.gated | none => false

/-- The task slots of a context freeze for a wave, each with its trace record (R417, R426). -/
def State.freezeCtx (s : State) (ctx : Nat) : State :=
  let s1 := (s.blocks.filter fun b => b.ctx == ctx).foldl (fun s b => if b.gated then s.traceTile b 4 else match b.live.head? with | some t => s.traceThread t 4 | none => s) s
  { s1 with blocks := s1.blocks.map fun b => if b.ctx == ctx then b.freeze .roadblock else b }

/-- Start or join a roadblock wave of a context (R412, R417, R418): registers, freeze of the context's slots, flits on the job's
links. A device that already holds a wave, or is frozen, counts the trigger in MERGED. The state is freezing until the frames are written (Debug). -/
def State.roadblock (s : State) (ctx code tslot core engid : Nat) (info : Dword) : State :=
  let st := s.regN (ctxReg ctx 0x928)
  if st % 8 != 0 then
    s.setReg (ctxReg ctx 0x928) (setField (BitVec.ofNat 64 st) 63 48 (min (bits st 63 48 + 1) 0xFFFF))
  else
    let w := SMap.get s.lastWave ctx 0 + 1
    let org := s.devIdx ctx
    let cause : Dword := BitVec.ofNat 64 (w <<< 32 + code <<< 24 + tslot <<< 16 + org)
    let aux : Dword := BitVec.ofNat 64 (engid <<< 16 + core)
    let job := s.jobOf ctx
    let s1 := (((s.setReg (ctxReg ctx 0x910) cause).setReg (ctxReg ctx 0x918) aux).setReg (ctxReg ctx 0x920) info).setReg
      (ctxReg ctx 0x928) (setField (BitVec.ofNat 64 st) 2 0 1)
    let s2 := s1.freezeCtx ctx
    { s2 with
      outs := s2.outs ++ (s.jobLinks ctx).map fun l => Out.flit ctx l (Flit.roadblock w job org cause aux info) }

/-- Send a flit of a context's data traffic on a link: after the freeze instant it waits at the outbound port and counts in
HELDOUT (R421, R455). -/
def State.send (s : State) (ctx l : Nat) (f : Flit) : State :=
  let st := s.reg (ctxReg ctx 0x928)
  if st.toNat % 8 == 0 then { s with outs := s.outs ++ [Out.flit ctx l f] }
  else
    { s with outbound := s.outbound ++ [(ctx, l, f)] }.setReg (ctxReg ctx 0x928)
      (setField st 31 16 (min (bits st.toNat 31 16 + 1) 0xFFFF))

/-- HELDOUT of the contexts counts what waits at the outbound ports (R419, R421), after some of it has gone. -/
def State.heldOutSync (s : State) (ctxs : List Nat) : State :=
  ctxs.foldl (fun s c => s.setReg (ctxReg c 0x928) (setField (s.reg (ctxReg c 0x928)) 31 16 (min ((s.outbound.filter fun o => o.1 == c).length) 0xFFFF))) s

/-- Whether a cause starts a roadblock for a context (R412). -/
def State.halts (s : State) (ctx code : Nat) (halt : Bool) : Bool :=
  bit (s.regN (ctxReg ctx 0x900)) 0 && (halt || bit (s.regN (ctxReg ctx 0x908)) code)
/-- Whether a cause enters a handler of a context (R381). -/
def State.handled (s : State) (ctx code : Nat) : Bool := bit (s.regN (ctxReg ctx 0x260)) 0 && bit (s.regN (ctxReg ctx 0x268)) code
/-- The handler entry of a context (R383). -/
def State.hvec (s : State) (ctx : Nat) : Dword := BitVec.ofNat 64 (sext52 (s.regN (ctxReg ctx 0x260) / 8 * 8))

/-- The trap row that a warp would hold: its own, or the lower free one (R384). -/
def Block.trapRow (b : Block) (w : Nat) : Option Nat :=
  match b.warps[w]? with
  | none => none
  | some x =>
    match x.hsel with
    | some k => some k
    | none => [0, 1].find? fun k => !b.warps.any fun y => y.hsel == some k

/-- The handler registers at entry (R385). -/
def Cause.hregs (c : Cause) : SMap Dword :=
  let aux := if c.code == cChecksum then c.chunk else if c.ecls != 0 || c.eng != 0 then c.eng else c.aux
  let h2 : Nat := c.code + b2n c.impr <<< 8 + b2n c.gatef <<< 9 + c.ecls <<< 10 + aux <<< 32
  [(0, c.info), (1, c.rpc), (2, BitVec.ofNat 64 h2), (3, c.fpc), (4, c.h4), (5, c.tpc)]

/-- Enter handler mode if a trap row is free and no result is pending; otherwise wait (R384). Queue elements that the faulting
instruction took stay with the thread for its next execution (R349, log 23). -/
def State.tryEnter (s : State) (t : TRef) : State :=
  match s.block? t.core t.slot with
  | none => s
  | some b =>
    match b.thread? t.warp t.lane, b.trapRow t.warp with
    | some th, some k =>
      match th.trapq with
      | none => s
      | some c =>
        if !th.pend.isEmpty || s.rbState b.ctx != 0 then s
        else
          (s.modWarp t fun x => { x with hsel := some k }).modThread t fun th =>
            { th with st := .running, hmode := true, wait := none, trapq := none, cause := some c, h := c.hregs,
                      kept := some (th.pc, th.taken), taken := [], pc := s.hvec b.ctx }
    | _, _ => s

/-- Insert into a list that an order has sorted, after what is not greater. -/
def insertBy {α : Type} (lt : α → α → Bool) (x : α) : List α → List α
  | [] => [x]
  | y :: ys => if lt x y then x :: y :: ys else y :: insertBy lt x ys
/-- The warp slot of a thread. -/
def Block.wslotOf (b : Block) (t : TRef) : Nat := ((b.warps[t.warp]?).map Warp.wslot).getD 0
/-- Threads in the order of their waiting causes: by clk, then warp slot, then home lane (R384). -/
def Block.trapBefore (b : Block) (x y : TRef) : Bool :=
  let at' := fun (t : TRef) => ((b.thread? t.warp t.lane).map Thread.trapAt).getD 0
  decide (at' x < at' y) || (at' x == at' y && (decide (b.wslotOf x < b.wslotOf y) || (b.wslotOf x == b.wslotOf y && decide (x.lane < y.lane))))
/-- The threads of a block with a cause that waits, in the order in which the causes arose (R384). -/
def Block.trapLine (b : Block) : List TRef :=
  (b.refs.filter fun t => (b.thread? t.warp t.lane).any fun th => th.trapq.isSome).foldl (fun l t => insertBy b.trapBefore t l) []

/-- Let the trap-waiting threads of a block enter as rows are free, in the order of their faults (R384). -/
def State.serveTraps (s : State) (core slot : Nat) : State :=
  match s.block? core slot with
  | none => s
  | some b => b.trapLine.foldl (fun s t => s.tryEnter t) s

/-- Write the pending results of a thread whose values are known (R384 step 1). -/
def State.flushPend (s : State) (t : TRef) : State :=
  match s.thread? t with
  | none => s
  | some th =>
    let s1 := th.pend.foldl (fun s p => match p.value with | some v => s.wvN t p.dst v p.n | none => s) s
    s1.modThread t fun th => { th with pend := th.pend.filter fun p => p.value.isNone }

/-- TAKING AN EXCEPTION: a cause meets a thread (R381, R384-R386, R412). In handler mode it aborts the grid; else it starts a
roadblock, enters the handler, or aborts the grid. A thread that starts a roadblock stands at its resume PC; while its context is frozen
a cause waits for the resume (R410, R418, R423). -/
def State.deliver (s : State) (t : TRef) (c : Cause) (halt : Bool) : State :=
  match s.block? t.core t.slot with
  | none => s
  | some b =>
    match b.thread? t.warp t.lane with
    | none => s
    | some th =>
      let frozen := s.rbState b.ctx != 0
      let halt := !th.hmode && s.halts b.ctx c.code halt
      if frozen && !halt then s.modThread t fun th => { th with st := .trapWaiting, wait := none, trapq := some c, trapAt := s.clk }
      else if th.hmode then s.abortBy t c
      else if halt then
        (s.modThread t fun th => { th with cause := some c, pc := if c.gatef then th.pc else c.rpc }).roadblock b.ctx c.code t.slot t.core c.eng c.info
      else if s.handled b.ctx c.code then
        ((s.flushPend t).modThread t fun th => { th with st := .trapWaiting, wait := none, trapq := some c, trapAt := s.clk }).tryEnter t
      else s.abortBy t c

/-- Leave handler mode, releasing the trap row with the warp's last thread (R384, R387). -/
def State.leaveHandler (s : State) (t : TRef) (st : ThState) (pc : Dword) : State :=
  let s1 := s.modThread t fun th => { th with
    hmode := false, st := st, pc := pc, cause := none, kept := none
    taken := match th.kept with | some (p, l) => if p == pc then l else [] | none => [] }
  let s2 := s1.modWarp t fun x => if x.threads.any (fun th => th.hmode) then x else { x with hsel := none }
  s2.serveTraps t.core t.slot

/-- Queue an imprecise cause at the thread that R381 names: the issuing thread, else the lowest live lane of its warp, else the
lowest live thread of the block; a block that has none aborts its grid. -/
def State.imprecise (s : State) (t : TRef) (c : Cause) : State :=
  match s.block? t.core t.slot with
  | none => s
  | some b =>
    let live := b.live
    match (live.find? (fun u => u == t)).or ((live.find? (fun u => u.warp == t.warp)).or live.head?) with
    | some u => s.modThread u fun th => { th with imps := th.imps ++ [{ c with impr := true }] }
    | none => s.abortGrid b.grid b.lin { c with impr := true } (some b)

/-- A replayable page fault goes to the fault unit of its context (R253). -/
def State.report (s : State) (f : FRep) : State := { s with freps := s.freps ++ [f] }

end Sys2Proof.Machine
end

