-- ==== Sys2Proof/Machine/Flags.lean ====
section
/-! DEFINITION. Conditions and combinations (R104, R159, R163, R344) and the floating-point conditions of FPTE (R145). -/
namespace Sys2Proof.Machine

/-- Compare of R159 on integers. -/
def condInt (c : Cond) (x y : Int) : Bool :=
  match c with
  | .eq => decide (x = y) | .ne => decide (x ≠ y) | .lt => decide (x < y) | .le => decide (x ≤ y)
  | .gt => decide (y < x) | .ge => decide (y ≤ x)

/-- Compare of R163 on floating-point values; nan is the outcome when an operand is a NaN. -/
def condFl (c : Cond) (nan : Bool) (x y : Fl) : Bool :=
  match x.cmp y with
  | none => nan
  | some o =>
    match c with
    | .eq => o == .eq | .ne => o != .eq | .lt => o == .lt | .le => o != .gt | .gt => o == .gt | .ge => o != .lt

/-- BOP of R159. -/
def bopOf (o : Bop) (a b : Bool) : Bool := match o with | .and => a && b | .or => a || b | .xor => a != b

/-- A word read as signed or unsigned (R157). -/
def wInt (u : Bool) (x : Word) : Int := if u then (x.toNat : Int) else x.toInt

/-- COND of POLL (R344). -/
def pollTest (c : PollCond) (v b : Nat) : Bool :=
  match c with
  | .eq => v == b | .ne => v != b | .geu => decide (b ≤ v) | .ltu => decide (v < b) | .any => v &&& b != 0 | .none => v &&& b == 0

/-- COND of SCMP (R104, R185). -/
def scondTest (c : SCond) (x y : Dword) : Bool :=
  match c with
  | .eq => x == y | .ne => x != y | .lt => decide (x.toInt < y.toInt) | .le => decide (x.toInt ≤ y.toInt)
  | .ltu => decide (x.toNat < y.toNat) | .leu => decide (x.toNat ≤ y.toNat)

/-- OVF and INV of R145: the FPTE bit that an operation of these operands and this result meets. -/
def fpMet (ins : List Fl) (out : Fl) : Option Nat :=
  if out.isNan then (if ins.any Fl.isNan then none else some 0)
  else if out.isInf && ins.all Fl.isFin then some 2
  else none

/-- The FPTE bit that traps: a condition met and enabled (R145). -/
def fpTrap (fpte : Nat) (met : Option Nat) : Option Nat := met.filter fun k => bit fpte k

end Sys2Proof.Machine
end

