-- ==== Sys2Proof/Machine/Operands.lean ====
section
/-! DEFINITION. How a thread instruction issues: readiness (R73, R85, R117), the checks of R84, the guard (R78), mapped registers
(R349), the operand forms of thread and tile instructions, and the accesses of threads to memory (R265-R267). -/
namespace Sys2Proof.Machine

/-- The word of a thread instruction. -/
def Instr.wordOf (i : Instr) : Nat := match encode i with | .thread w => w.toNat | _ => 0

/-- What an instruction does to one thread: it completes, transfers, stays at its PC, or meets a cause. -/
inductive Eff
  | done (s : State)
  | goto (s : State) (pc : Dword)
  | stay (s : State)
  | trap (s : State) (c : Cause)

/-! ### Checks -/

/-- A register that only privileged software may write (R72, R390, R394, R411). -/
def sysPrivileged (n : Nat) : Bool :=
  n == 0x20 || n == 0x32 || (0x200 ≤ n && n ≤ 0x217) || n == 0x220 || n == 0x221
/-- A register that exists only in handler mode (R389, R390). -/
def sysHandler (n : Nat) : Bool := (0x40 ≤ n && n ≤ 0x47) || (0x400 ≤ n && n ≤ 0x41F)
/-- A privileged thread (R383): in handler mode with HVEC.PRIV. -/
def State.privileged (s : State) (ctx : Nat) (th : Thread) : Bool := th.hmode && bit (s.regN (ctxReg ctx 0x260)) 1

/-- Check 5 of R84. -/
def State.privBad (s : State) (ctx : Nat) (th : Thread) (i : Instr) : Bool :=
  match i with
  | .sysw _ _ _ n => (sysPrivileged n.toNat && !s.privileged ctx th) || (sysHandler n.toNat && !th.hmode)
  | .sysr _ _ _ n => sysHandler n.toNat && !th.hmode
  | _ => false

/-- A register is allocated (R156, R384). -/
def regAlloc (alloc : Nat) (hmode : Bool) (r : Nat) : Bool := r == 255 || decide (r < 32 * alloc) || (hmode && decide (r < 32))
/-- The first register of the fields that is not allocated. -/
def firstUnalloc (alloc : Nat) (hmode : Bool) (fs : List RField) : Option Nat :=
  (fs.flatMap fun f => (List.range f.n).map fun k => f.reg.toNat + k).find? fun r => !regAlloc alloc hmode r

/-- A field names a pending register (R86). -/
def fieldMeets (f : RField) (p : Pend) : Bool :=
  decide (f.reg.toNat < p.dst.toNat + p.n) && decide (p.dst.toNat < f.reg.toNat + f.n) && p.dst != 255#8 && f.reg != 255#8
/-- Check 7 of R84. -/
def lookBad (i : Instr) (th : Thread) : Bool := i.fields.any fun f => th.pend.any fun p => fieldMeets f p

/-- A special-function opcode (R82). -/
def isSfu : Instr → Bool
  | .frcp _ _ _ | .frsq _ _ _ | .fex2 _ _ _ | .flg2 _ _ _ | .fsin _ _ _ | .fcos _ _ _ => true
  | _ => false
/-- A cross-lane opcode or WSYNC (R169). -/
def crosses : Instr → Bool
  | .lxch _ _ _ _ _ _ _ | .pjoin _ _ _ _ _ | .pmask _ _ _ _ | .leqm _ _ _ _ | .wscan _ _ _ _ _ _ _ | .wred _ _ _ _ _ _ | .wsync _ _ => true
  | _ => false
/-- An opcode of control or of the system registers that accesses nothing but registers. -/
def controls : Instr → Bool
  | .brx _ _ | .call _ _ | .callx _ _ | .ret _ _ | .exit _ | .trap _ _ | .bkpt _ _ | .sysr _ _ _ _ | .sysw _ _ _ _ | .eret _ => true
  | _ => false
/-- An instruction that accesses memory, a scratchpad, a ring or an object, or that orders such accesses (R171, R320, R326). -/
def reaches (i : Instr) : Bool := crosses i || (i.laClass != .short && !isSfu i && !controls i)

/-- The guard (R78). -/
def State.guard (s : State) (t : TRef) (h : Hdr) : Bool := h.pg == 7#3 || (s.pget t h.pg != h.pn)

/-! ### Readiness -/

/-- Something other than a tile fault or a tile fetch stops the block's threads. -/
def Block.stopped (b : Block) : Bool :=
  b.state == .saving || b.why.any fun w => w != .tileFault && w != .fetch

/-- The members of an effective mask have all exited or arrived alike (R169). -/
def Warp.met (w : Warp) (mask opc : Nat) (pc : Dword) : Bool :=
  (List.range 32).all fun l => !bit mask l ||
    match w.threads[l]? with
    | none => true
    | some th => th.st == .exited ||
      (th.st == .arrived && match th.wait with
        | some x => x.kind == .rendezvous && x.mask == mask && x.opc == opc && (opc == 0x4D || x.addr == pc)
        | none => false)

/-- The operations of a class that a list counts (R184, R343). -/
def countOps (ops : List Op) (e : Eng) : Nat := (ops.filter fun o => o.cls == e && !o.ret).length

/-- The first retired operation of a class whose fault a wait with threshold n needs (R393): n is less than 1 plus the operations
issued after it and still counted. -/
def needErr (e : Eng) (n : Nat) : List Op → Option (Nat × Cause)
  | [] => none
  | o :: os =>
    match o.err with
    | some c => if o.cls == e && o.ret && decide (n < 1 + countOps os e) then some (o.id, c) else needErr e n os
    | none => needErr e n os

/-- A wait that its own thread ends by executing again: a rendezvous whose members have arrived, WAITC, ROLE. -/
def Warp.waitOver (w : Warp) (x : Wait) : Bool :=
  match x.kind with
  | .rendezvous => w.met x.mask x.opc x.addr
  | .waitc => match Eng.ofCode (BitVec.ofNat 3 x.opc) with 
    | some e => decide (countOps w.ops e ≤ x.mask) || (needErr e x.mask w.ops).isSome
    | none => true
  | .role => (w.ops.all fun o => o.ret) && w.threads.all fun th => th.st == .exited || (th.st == .arrived && match th.wait with | some y => y.kind == .role && y.arg == x.arg | none => false)
  | _ => false

/-- No destination of the thread is pending, and no access that it issued is still to be performed but pops of rings (R85, R282). -/
def Thread.settled (th : Thread) : Bool := (th.pend.all fun p => p.dst == 255#8) && th.held.all fun o => o.kind == .pop
/-- An operation that is a release, or has a release side (R321, R326). -/
def releases (i : Instr) : Bool :=
  crosses i || match i with
  | .st _ _ _ f _ | .rst _ _ _ f _ => f.rel
  | .atom _ _ _ _ m | .acas _ _ _ _ m | .ratom _ _ _ _ m => m.rel
  | .red _ _ _ m => m.rel
  | .xkick _ _ _ _ r _ | .qpush _ _ _ _ r _ => r
  | .barv _ _ _ _ | .dbar _ _ _ | .trcommit _ _ _ _ _ | .launch _ _ _ _ | .gate _ _ _ | .mile _ _ _ _ => true
  | _ => false
/-- A release at scope job, or one whose object may have that scope (R278, R326). -/
def releasesJob : Instr → Bool
  | .rst _ _ _ f _ => f.rel
  | .ratom _ _ _ _ m => m.rel
  | .dbar _ l _ => l == .job
  | .trcommit _ _ _ _ _ => true
  | _ => false
/-- A remote instruction, which its stream orders (R278). -/
def isRemote : Instr → Bool
  | .rld _ _ _ _ _ | .rst _ _ _ _ _ | .ratom _ _ _ _ _ => true
  | _ => false

/-- A held operation of a thread must be performed before an instruction of it: an access that met a page fault, or whose second half is to come, before
any later access; one that waits for its object before a release, and a push before one to the same queue or of the same class (R327). -/
def HeldOp.before (o : HeldOp) (th : Thread) (i : Instr) : Bool :=
  match o.kind with
  | .pop | .trap => false
  | .access | .half => true
  | _ => releases i || match o.i, i with
    | .qpush _ _ _ c _ _, .qpush _ _ _ c' _ b => c == c' || (match SMap.get? th.binds b.toNat with | some x => x.obj.toNat == o.a | none => false)
    | _, _ => false
/-- FENCE, whose own classes say what it waits for (R323). -/
def isFence : Instr → Bool | .fence _ _ _ => true | _ => false
/-- An outstanding remote operation belongs to a context. -/
def State.remOf (s : State) (ctx : Nat) (o : RemOut) : Bool := match s.grid? o.grid with | some g => g.ctx == ctx | none => false
/-- An outstanding remote operation must have been answered before an instruction of a thread: an acquire; one on this device, before an access that
is not remote (R318); any of the thread's before a release, any of the context's before a release at scope job (R278, R321, R322). -/
def State.remBefore (s : State) (t : TRef) (ctx : Nat) (i : Instr) : Bool :=
  !isFence i && s.remOut.any fun o =>
    (o.t == t && (o.acq || releases i || (o.link == 16 && !isRemote i))) || (releasesJob i && s.remOf ctx o)
/-- An instruction may be performed after what its thread has issued (R171, R278, R286, R320-R322, R326, R327; log 112). -/
def State.clear (s : State) (t : TRef) (i : Instr) : Bool :=
  match s.thread? t with
  | none => false
  | some th =>
    !(reaches i || i.fields.any fun f => !f.dst && th.mapped f.reg) ||
      !((th.held.any fun o => o.before th i) || s.remBefore t (s.ctxOf t) i)

/-- A thread that may issue an instruction of this lookahead class (R73, R85, R117). -/
def State.ready (s : State) (t : TRef) (cl : LaClass) : Bool :=
  match s.block? t.core t.slot with
  | none => false
  | some b =>
    match b.warps[t.warp]? with
    | none => false
    | some w =>
      match w.threads[t.lane]? with
      | none => false
      | some th =>
        !b.stopped && !b.preReq && !b.spillWait && b.deciding.isNone && (!b.gated || th.hmode) &&
        (match s.grid? b.grid with | some g => g.phase == .running | none => false) &&
        (th.imps.isEmpty || th.hmode) && (th.held.all fun o => o.hs == .free) && th.watch.isNone && th.trapq.isNone && th.snooze.isNone &&
        (match th.st with
          | .running => (th.pend.all fun p => decide (0 < p.la)) && (cl != .closing || th.settled)
          | .arrived => (match th.wait with | some x => w.waitOver x | none => false)
          | .waiting => (match th.wait with | some x => w.waitOver x | none => false)
          | _ => false)

/-! ### Progress of the PC -/

/-- The thread goes on at a PC. -/
def State.adv (s : State) (t : TRef) (pc : Dword) : State :=
  s.modThread t fun th => { th with pc := pc, st := .running, wait := none, taken := [], waited := 0 }

/-- Some thread of a warp has not exited. -/
def Warp.alive (w : Warp) : Bool := w.threads.any fun th => th.st != .exited

/-- The urgent warp after progress counts changed (R119): it stays until another live warp's count falls below its own. -/
def Block.urge (b : Block) : Block :=
  let live := (List.range b.warps.length).filter fun k => match b.warps[k]? with | some w => w.alive | none => false
  let cnt := fun (k : Nat) => ((b.warps[k]?).map Warp.progress).getD 0
  match live.foldl (fun (m : Option Nat) k => match m with | none => some k | some j => if cnt k < cnt j then some k else some j) none with
  | none => b
  | some k => if live.contains b.urgent && cnt b.urgent ≤ cnt k then b else { b with urgent := k }

/-- An instruction issues: it counts in every open window and in the warp's progress (R85, R119). -/
def State.countIssue (s : State) (t : TRef) : State :=
  s.modBlock t.core t.slot fun b =>
    (b.modWarp t.warp fun w =>
      { w with progress := w.progress + 1,
               threads := w.threads.modify t.lane fun th => { th with pend := th.pend.map (fun p => { p with la := p.la - 1 }), waited := 0 } }).urge

/-- A sync point of the block: every progress count returns to 0 (R119). -/
def Block.syncPoint (b : Block) : Block := ({ b with warps := b.warps.map fun (w : Warp) => { w with progress := 0 } }).urge

/-- A thread completes a BWAIT for a phase of an object; when every live thread of its block has, that is a sync point (R119). -/
def Block.bwaitDone (b : Block) (pa tok : Nat) (t : TRef) : Block :=
  let n := 32 * t.warp + t.lane
  let l := (pa, tok, n) :: b.bwaits.filter fun x => !(x.1 == pa && x.2.2 == n)
  if b.live.all fun u => l.contains (pa, tok, 32 * u.warp + u.lane) then { b with bwaits := l.filter fun x => x.1 != pa }.syncPoint
  else { b with bwaits := l }

/-- A waiting watchpoint cause is raised once nothing is pending (R413). -/
def State.finishWatch (s : State) (t : TRef) : State :=
  match s.thread? t with
  | none => s
  | some th =>
    match th.watch with
    | none => s
    | some (c, h) => if th.pend.isEmpty then ((s.modThread t fun th => { th with watch := none }).traceThread t 6).deliver t c h else s

/-- The PC of a thread. -/
def State.pcOf (s : State) (t : TRef) : Dword := match s.thread? t with | some th => th.pc | none => 0

/-- The cause of an instruction at a thread's PC, with h0 the word (R380). -/
def wordCause (i : Instr) (code : Nat) (th : Thread) : Cause := causeOf code (Instr.wordOf i) th.pc

/-! ### Mapped registers (R349) -/

/-- The outcome of a take. -/
inductive Take
  | got (s : State) (v : Word)
  | none (s : State)
  | fail (s : State) (c : Cause)

/-- The outcome of an access of an object in memory (R333). -/
inductive Obj
  | ok (s : State) (pa : Nat) (attr : BitVec 10)
  | park (s : State)
  | fail (s : State) (c : Cause)

/-- A replayable page fault of a thread's access: the thread parks at the instruction and the fault is reported (R251, log 22); a convoy's lanes count once for each key (R253). -/
def State.park (s : State) (t : TRef) (va kind reason level : Nat) : State :=
  match s.block? t.core t.slot with
  | none => s
  | some b =>
    let tok := ((s.gridOf b).map Grid.token).getD 0
    let ws := ((b.warps[t.warp]?).map Warp.wslot).getD 0xFF
    let s1 := s.modThread t fun th => { th with st := .parked, wait := some ⟨.access, 0, BitVec.ofNat 64 va, 0, 0⟩ }
    let key := fun (x : Dword) => bits x.toNat 51 16 == bits va 51 16
    let same := s.freps.any fun f => f.src == 0 && f.ctx == b.ctx && key f.va &&
      match f.th with
      | some u => u != t && s.cur.threads.contains u && (match s.thread? u with
        | some x => x.st == .parked || x.held.any fun o => o.hs == .parked && s.cur.again == some o.a && key o.va
        | none => false)
      | none => false
    if same then s1 else s1.report ⟨b.ctx, BitVec.ofNat 64 va, tok, kind, reason, level, 0, t.core, t.slot, ws, some t⟩

/-- Checks 3, 4 and 6 of R266 on a virtual address of a thread: canonical, aligned, translated and permitted. FRep's KIND is
given (R254). -/
def State.vaCheck (s : State) (t : TRef) (pc : Dword) (va align : Nat) (k : Acc) (kind : Nat) : Obj :=
  if !canonical va then .fail s (causeVa cProtection va pc)
  else if va % align != 0 then .fail s (causeVa cMisaligned va pc)
  else
    match s.translate (.core t.core) (s.ctxOf t) va k with
    | (s1, .ok pa a) => .ok s1 pa a
    | (s1, .prot) => .fail s1 (causeVa cProtection va pc)
    | (s1, .pf r l) => .park (s1.park t va kind r l)

/-- An access of a 32-, 64-, 128- or 256-byte object at its home slice (R333): checks 3, 4, 6 and 7 of R266; what the core's L1 holds of it is
written back first (R318). -/
def State.object (s : State) (t : TRef) (pc : Dword) (va size : Nat) (k : Acc) : Obj :=
  match s.vaCheck t pc va size k (match k with | .read => 0 | .trail => 7 | _ => 2) with
  | .ok s1 pa a =>
    let s2 := s1.l1Home t.core pa size
    if s2.poisoned pa size then .fail (s2.ueRead pa size) (causeVa cUncorrectable va pc) else .ok s2 pa a
  | r => r

/-- A malformed queue object (R347). -/
def queueBad (s : State) (pa : Nat) : Bool :=
  let cap := s.pread (pa + 8) 4
  s.pread pa 8 % 64 != 0 || !(16 ≤ cap && cap ≤ 2 ^ 20 && 2 ^ Nat.log2 cap == cap) || 4 < s.pread (pa + 12) 1 ||
  1 < s.pread (pa + 13) 1 || s.pread (pa + 14) 2 != 0 || s.pread (pa + 0x14) 4 != 0 || s.pread (pa + 0x30) 16 != 0

/-- One take from a queue, with an acquire at QSCOPE (R349, R326). -/
def State.takeOne (s : State) (t : TRef) (pc : Dword) (obj : Nat) : Take :=
  match s.object t pc obj 64 .write with
  | .fail s1 c => .fail s1 c
  | .park s1 => .none s1
  | .ok s1 pa at' =>
    if queueBad s1 pa then .fail s1 (causeVa cBounds obj pc)
    else
      let hd := s1.pread (pa + 0x18) 8
      if hd < s1.pread (pa + 0x28) 8 then
        let ea := s1.pread pa 8 + 4 * (hd % s1.pread (pa + 8) 4)
        match s1.vaCheck t pc ea 4 .read 0 with
        | .fail s2 c => .fail s2 c
        | .park s2 => .none s2
        | .ok s2 epa _ =>
          let s3 := s2.l1Home t.core epa 4
          if s3.poisoned epa 4 then .fail (s3.ueRead epa 4) (causeVa cUncorrectable ea pc)
          else
            .got ((s3.pwrite (s3.ctxOf t) (pa + 0x18) (hd + 1) 8 at').acquire t.core (s3.ctxOf t)
              ((Scope.ofCode (BitVec.ofNat 3 (s3.pread (pa + 12) 1))).getD .dev)) (BitVec.ofNat 32 (s3.pread epa 4))
      else if bit (s1.pread (pa + 13) 1) 0 then .fail s1 (causeVa cQueueClosed obj pc)
      else .none (s1.modThread t fun th =>
        if th.st == .parked then th else { th with st := .waiting, wait := some ⟨.queueTake, 0, BitVec.ofNat 64 obj, 0, 0⟩ })

/-- The takes of an instruction's source fields from position n on, one for each that names a mapped register (R349). Taken
elements stay with the thread. -/
def State.takes (s : State) (t : TRef) (pc : Dword) : List RField → Take
  | [] => .got s 0
  | f :: fs =>
    match s.thread? t with
    | none => .none s
    | some th =>
      if f.n == 1 && th.mapped f.reg then
        let obj := match th.binds.find? (fun x => !x.2.prod && x.2.reg == f.reg) with | some x => x.2.obj.toNat | none => 0
        match s.takeOne t pc obj with
        | .got s1 v => State.takes (s1.modThread t fun th => { th with taken := th.taken ++ [v] }) t pc fs
        | r => r
      else State.takes (s.modThread t fun th => { th with taken := th.taken ++ [0] }) t pc fs

/-- The k-th register source of the instruction: a taken element for a mapped register, else the register (R349). -/
def State.src (s : State) (t : TRef) (k : Nat) (r : VReg) : Word :=
  match s.thread? t with
  | some th => if th.mapped r then th.taken.getD k 0 else s.rv t r
  | none => 0
/-- The k-th register source, of n registers. -/
def State.srcN (s : State) (t : TRef) (k : Nat) (r : VReg) (n : Nat) : Nat := if n == 1 then (s.src t k r).toNat else s.rvN t r n

/-! ### Issue (R84) -/

/-- A source register of the instruction holds an uncorrectable word (R240, R396); v255 and mapped registers hold none. -/
def State.regUe (s : State) (b : Block) (t : TRef) (i : Instr) : Bool :=
  !s.poolBad.isEmpty && i.fields.any fun f => !f.dst && f.reg != 255#8 && !(match b.thread? t.warp t.lane with | some th => th.mapped f.reg | none => false) &&
    (List.range f.n).any fun k => s.poolBad.contains (b.regWord t.warp t.lane (f.reg + BitVec.ofNat 8 k))
/-- A thread's access as it is performed again: with the PC and the operands of its issue (R85, R87). -/
def State.trial (s : State) (t : TRef) (o : HeldOp) : State :=
  s.modThread t fun th => { th with pc := o.pc, regs := o.regs, pred := o.pred, taken := o.taken, st := .running, wait := none }
/-- An access that was performed again: it is parked, or done with its value, or its fault is reported with its PC (R87, R434). -/
def State.trialOver (s0 : State) (t : TRef) (o : HeldOp) (e : Eff) : State :=
  match s0.thread? t with
  | none => s0
  | some th =>
    let back := fun (s : State) => s.modThread t fun x =>
      let new := x.pend.drop th.pend.length
      { x with
        pc := th.pc, regs := th.regs, pred := th.pred, taken := th.taken, st := th.st, wait := th.wait
        held := x.held.filter fun y => y.tag != o.tag
        pend := th.pend.flatMap fun p => if p.tag == o.tag then new.map fun q => { q with la := p.la } else [p]
        watch := match x.watch, th.watch with | some (c, h), none => some ({ c with rpc := th.pc }, h) | w, _ => w }
    let stuck : State → Option Wait := fun s => match s.thread? t with
      | some x => if x.st == ThState.parked then x.wait.filter fun (w : Wait) => w.kind == WKind.access else none
      | none => none
    match e with
    | .done s1 => ((back s1).finishWatch t).tryEnter t
    | .goto s1 _ => back s1
    | .stay s1 =>
      match stuck s1 with
      | some w => State.modThread { s0 with freps := s1.freps } t fun (x : Thread) => { x with held := x.held.map fun (y : HeldOp) => if y.tag == o.tag then { y with hs := HoldSt.parked, va := w.addr } else y }
      | none => back s1
    | .trap s1 c => (back s1).deliver t (c.late th.pc) false
/-- A long-latency access that meets a replayable page fault has issued: the fault is detected later, and its window lets the thread go on until then
(R87, R434). -/
def State.issueHeld (s : State) (t : TRef) (i : Instr) (h : Hdr) : State :=
  let f := s.fresh
  f.2.modThread t fun th =>
    let d := match i.fields.find? fun f => f.dst with | some f => if th.mapped f.reg then rd 255 1 else f | none => rd 255 1
    { th with
      pc := th.pc + 8, taken := []
      held := th.held ++ [⟨.access, i, th.pc, s.clk, 0, 0, 0, f.1, .free, th.regs, th.pred, th.taken, 0⟩]
      pend := th.pend ++ [⟨d.reg, d.n, none, h.la.toNat, th.pc, f.1⟩] }

/-- A thread whose guard does not hold has met a queue that gives no element: it raises no operand fault and takes part with a value that the
spec does not state (R170, R349; log 113). -/
def State.noTake (s : State) (t : TRef) : State :=
  let f := s.freeN
  f.2.modThread t fun th => { th with taken := th.taken ++ List.replicate (3 - th.taken.length) (BitVec.ofNat 32 (Config.freeDword f.1).toNat) }

/-- One thread of a convoy issues an instruction: checks 5 to 9 of R84, in order. A thread that waits at the instruction goes on
with its effect. joins: the instruction counts threads whose guard does not hold (R170, R341, R345, R352, R364). -/
def State.issue (i : Instr) (h : Hdr) (joins : Bool) (eff : State → TRef → Bool → Eff) (s : State) (t : TRef) : State :=
  match s.block? t.core t.slot with
  | none => s
  | some b =>
    match b.warps[t.warp]? with
    | none => s
    | some w =>
      match w.threads[t.lane]? with
      | none => s
      | some th =>
        let g := s.guard t h
        let fin := fun (e : Eff) =>
          match e with
          | .done s1 => (s1.adv t (th.pc + 8)).finishWatch t
          | .goto s1 pc => (s1.adv t pc).finishWatch t
          | .stay s1 => s1
          | .trap s1 c => s1.deliver t c false
        let run := fun (s1 : State) =>
          let s2 := s1.countIssue t
          match eff s2 t g with
          | .stay s3 =>
            if i.laClass == .long && !th.hmode && s.rbState b.ctx == 0 && (match s3.thread? t with
              | some x => x.st == .parked && x.wait.any fun w => w.kind == .access | none => false) then s2.issueHeld t i h
            else s3
          | e => fin e
        if s.cur.again.isSome then
          match th.held.find? fun o => o.kind == .access && o.hs != .parked && s.cur.again == some o.a with
          | some o => s.trialOver t o (eff (s.trial t o) t true)
          | none => s
        else if th.st != .running then fin (eff s t g)
        else if s.privBad b.ctx th i then s.deliver t (wordCause i cPrivilege th) false
        else
          match firstUnalloc w.alloc th.hmode i.fields with
          | some r => s.deliver t (causeOf cBounds r th.pc) false
          | none =>
            if lookBad i th then s.deliver t (wordCause i cLookahead th) false
            else if !g && !joins then (s.countIssue t).adv t (th.pc + 8)
            else if g && i.fields.any (fun f => f.n != 1 && (List.range f.n).any fun k => th.mapped (f.reg + BitVec.ofNat 8 k)) then
              s.deliver t (causeOf cBounds ((i.fields.find? fun f => f.n != 1 && (List.range f.n).any fun k => th.mapped (f.reg + BitVec.ofNat 8 k)).elim 0 fun f => f.reg.toNat) th.pc) false
            else if g && s.regUe b t i then s.deliver t (causeOf cUncorrectable 0 th.pc) false
            else
              match (if (g || crosses i) && !th.binds.isEmpty then s.takes t th.pc ((i.fields.filter fun f => !f.dst).drop th.taken.length) else Take.got s 0) with
              | .none s1 => s1
              | .fail s1 c => if g then s1.deliver t c false else run (s1.noTake t)
              | .got s1 _ => run s1

/-- A thread takes part in this step: it is ready for the instruction, or performs its access again. -/
def State.goes (s : State) (t : TRef) (i : Instr) : Bool := s.cur.again.isSome || (s.ready t i.laClass && s.clear t i)
/-- The threads of the convoy that an instruction issues for, in increasing home lane (R116, R117); one that an instruction of a thread before it has
moved on, as a rendezvous does with its arrival set (R169), issues nothing more. -/
def runOver (i : Instr) (h : Hdr) (joins : Bool) (eff : State → TRef → Bool → Eff) (ts : List TRef) (s : State) : State :=
  (ts.map fun t => (t, s.pcOf t)).foldl (fun s x => if s.pcOf x.1 == x.2 then s.issue i h joins eff x.1 else s) s
/-- Issue an instruction for the convoy of this step. -/
def runThreads (i : Instr) (h : Hdr) (joins : Bool) (eff : State → TRef → Bool → Eff) (s : State) : Res :=
  .next (runOver i h joins eff (s.cur.threads.filter fun t => s.goes t i) s)

/-- As runThreads, for the threads that a further condition keeps ready, and whose guard holds (R269, R343). -/
def runThreadsIf (i : Instr) (h : Hdr) (ok : TRef → Bool) (eff : State → TRef → Eff) (s : State) : Res :=
  .next (runOver i h false (fun s t _ => eff s t) (s.cur.threads.filter fun t => s.goes t i && (s.cur.again.isSome || ok t || !s.guard t h)) s)

/-- An instruction that only threads whose guard holds execute. -/
def runGuarded (i : Instr) (h : Hdr) (eff : State → TRef → Eff) (s : State) : Res :=
  runThreads i h false (fun s t _ => eff s t) s

/-- The destination of a long-latency instruction becomes pending with its value (R85); v255 and mapped registers never are, but the window of an
operation still to be performed stays open. -/
def State.addPend (s : State) (t : TRef) (h : Hdr) (d : VReg) (n : Nat) (v : Option Nat) (pc : Dword) (tag : Nat) : State :=
  s.modThread t fun th =>
    if d == 255#8 || th.mapped d then
      (if v.isSome then th else { th with pend := th.pend ++ [⟨255#8, 1, none, h.la.toNat, pc, tag⟩] })
    else { th with pend := th.pend ++ [⟨d, n, v, h.la.toNat, pc, tag⟩] }

/-- A short instruction that writes one register from a function of the state. -/
def aluOp (i : Instr) (h : Hdr) (d : VReg) (f : State → TRef → Word) (s : State) : Res :=
  runGuarded i h (fun s t => .done (s.wv t d (f s t))) s
/-- A short instruction that writes a pair. -/
def aluPair (i : Instr) (h : Hdr) (d : VReg) (f : State → TRef → Nat) (s : State) : Res :=
  runGuarded i h (fun s t => .done (s.wvN t d (f s t) 2)) s
/-- A short instruction that writes a predicate. -/
def aluPred (i : Instr) (h : Hdr) (p : PReg) (f : State → TRef → Bool) (s : State) : Res :=
  runGuarded i h (fun s t => .done (s.pset t p (f s t))) s

/-- The block of a thread's grid runs in WB mode (R231, R232). -/
def State.wbMode (s : State) (t : TRef) : Bool :=
  match (s.block? t.core t.slot).bind s.gridOf with | some g => g.l1wb | none => false
/-- FPTE of a thread's block (R145). -/
def State.fpteOf (s : State) (t : TRef) : Nat := match s.block? t.core t.slot with | some b => b.fpte.toNat | none => 0

end Sys2Proof.Machine
end

