-- ==== Sys2Proof/Machine/ThreadFp.lean ====
section
/-! DEFINITION. Floating-point and conversion instructions of threads, 0x20-0x38 (R141-R145, R161-R166). -/
namespace Sys2Proof.Machine

/-- Write an FP result unless it meets an enabled FPTE condition (R145). -/
def fpDone (s : State) (t : TRef) (d : VReg) (v : Word) (met : Option Nat) : Eff :=
  match fpTrap (s.fpteOf t) met with
  | some k => .trap s (causeOf cFpTrap (2 ^ k) (s.pcOf t))
  | none => .done (s.wv t d v)

/-- The value of a word as FP32. -/
def f32 (w : Word) : Fl := ff32.dec w.toNat
/-- A word of a layout's bits. -/
def wF (F : FF) (rm : Rm) (x : Fl) : Word := BitVec.ofNat 32 (roundF F rm x)

/-- A short FP32 instruction: operands by position, and the exact result. -/
def fpOp (i : Instr) (h : Hdr) (d : VReg) (rm : Rm) (ins : State → TRef → List Fl) (f : List Fl → Fl) (s : State) : Res :=
  runGuarded i h (fun s t =>
    let xs := ins s t
    let v := roundF ff32 rm (f xs)
    fpDone s t d (BitVec.ofNat 32 v) (fpMet xs (ff32.dec v))) s

/-- The first two of a list of values. -/
def two (f : Fl → Fl → Fl) : List Fl → Fl
  | x :: y :: _ => f x y
  | _ => .nan
/-- The first three of a list of values. -/
def three (f : Fl → Fl → Fl → Fl) : List Fl → Fl
  | x :: y :: z :: _ => f x y z
  | _ => .nan
/-- Negate when asked. -/
def negIf (b : Bool) (x : Fl) : Fl := if b then x.neg else x

/-- FADD (R161). -/
def execFadd (h : Hdr) (d a b : VReg) (rm : Rm) (nb : Bool) (s : State) : Res :=
  fpOp (.fadd h d a b rm nb) h d rm (fun s t => [f32 (s.src t 0 a), f32 (s.src t 1 b)]) (two fun x y => x.add rm (negIf nb y)) s
/-- FADDI (R161). -/
def execFaddi (h : Hdr) (d a : VReg) (imm : BitVec 32) (s : State) : Res :=
  fpOp (.faddi h d a imm) h d .rn (fun s t => [f32 (s.src t 0 a), f32 imm]) (two fun x y => x.add .rn y) s
/-- FMUL (R161). -/
def execFmul (h : Hdr) (d a b : VReg) (rm : Rm) (s : State) : Res :=
  fpOp (.fmul h d a b rm) h d rm (fun s t => [f32 (s.src t 0 a), f32 (s.src t 1 b)]) (two Fl.mul) s
/-- FMULI (R161). -/
def execFmuli (h : Hdr) (d a : VReg) (imm : BitVec 32) (s : State) : Res :=
  fpOp (.fmuli h d a imm) h d .rn (fun s t => [f32 (s.src t 0 a), f32 imm]) (two Fl.mul) s
/-- FFMA (R161): one rounding. -/
def execFfma (h : Hdr) (d a b c : VReg) (rm : Rm) (np nc : Bool) (s : State) : Res :=
  fpOp (.ffma h d a b c rm np nc) h d rm (fun s t => [f32 (s.src t 0 a), f32 (s.src t 1 b), f32 (s.src t 2 c)])
    (three fun x y z => (negIf np (x.mul y)).add rm (negIf nc z)) s

/-- FMIN (R143). -/
def execFmin (h : Hdr) (d a b : VReg) (s : State) : Res :=
  aluOp (.fmin h d a b) h d (fun s t => BitVec.ofNat 32 (minMaxNum ff32 false (s.src t 0 a).toNat (s.src t 1 b).toNat)) s
/-- FMAX (R143). -/
def execFmax (h : Hdr) (d a b : VReg) (s : State) : Res :=
  aluOp (.fmax h d a b) h d (fun s t => BitVec.ofNat 32 (minMaxNum ff32 true (s.src t 0 a).toNat (s.src t 1 b).toNat)) s
/-- FSETP (R163). -/
def execFsetp (h : Hdr) (p : PReg) (a b : VReg) (pc : PReg) (cond : Cond) (u : Bool) (bop : Bop) (s : State) : Res :=
  aluPred (.fsetp h p a b pc cond u bop) h p (fun s t =>
    bopOf bop (condFl cond u (f32 (s.src t 0 a)) (f32 (s.src t 1 b))) (s.pget t pc)) s

/-- A special function or a fold has met an enabled condition, of which k is the FPTE bit (R145, R174): its destination stays pending, and FP_TRAP is
raised when it completes (R87). -/
def State.trapLater (s : State) (t : TRef) (i : Instr) (h : Hdr) (d : VReg) (k : Nat) : State :=
  let pc := s.pcOf t
  let f := s.fresh
  (f.2.addPend t h d 1 none pc f.1).modThread t fun th => { th with held := th.held ++ [⟨.trap, i, pc, 2 ^ k, 0, 0, 0, f.1, .free, [], 0, [], 0⟩] }
/-- A special-function instruction (R144, R145): long-latency; dz: FRCP, FRSQ or FLG2, whose zero operand meets DZ alone. -/
def sfuOp (i : Instr) (h : Hdr) (d a : VReg) (dz : Bool) (f : Nat → Nat) (s : State) : Res :=
  runGuarded i h (fun s t =>
    let x := (s.src t 0 a).toNat
    let v := f x
    let met := if dz && (ff32.dec x).isZero then some 1 else fpMet [ff32.dec x] (ff32.dec v)
    match fpTrap (s.fpteOf t) met with
    | some k => .done (s.trapLater t i h d k)
    | none => .done (s.addPend t h d 1 (some v) (s.pcOf t) 0)) s
/-- FRCP (R144). -/
def execFrcp (h : Hdr) (d a : VReg) (s : State) : Res := sfuOp (.frcp h d a) h d a true frcpBits s
/-- FRSQ (R144). -/
def execFrsq (h : Hdr) (d a : VReg) (s : State) : Res := sfuOp (.frsq h d a) h d a true frsqBits s
/-- FEX2 (R144). -/
def execFex2 (h : Hdr) (d a : VReg) (s : State) : Res := sfuOp (.fex2 h d a) h d a false fex2Bits s
/-- FLG2 (R144). -/
def execFlg2 (h : Hdr) (d a : VReg) (s : State) : Res := sfuOp (.flg2 h d a) h d a true flg2Bits s
/-- FSIN (R144). -/
def execFsin (h : Hdr) (d a : VReg) (s : State) : Res := sfuOp (.fsin h d a) h d a false fsinBits s
/-- FCOS (R144). -/
def execFcos (h : Hdr) (d a : VReg) (s : State) : Res := sfuOp (.fcos h d a) h d a false fcosBits s

/-- FRND (R161). -/
def execFrnd (h : Hdr) (d a : VReg) (rm : Rm) (s : State) : Res :=
  aluOp (.frnd h d a rm) h d (fun s t => BitVec.ofNat 32 (roundIntegral ff32 rm (s.src t 0 a).toNat)) s

/-- FCLASS (R164). -/
def fclassW (w : Word) : Word :=
  let x := w.toNat
  let s := bit x 31
  let e := bits x 30 23
  let f := x % 2 ^ 23
  let k := if e == 255 then (if f == 0 then (if s then 0 else 7) else (if bit x 22 then 9 else 8))
    else if e == 0 then (if f == 0 then (if s then 3 else 4) else (if s then 2 else 5))
    else (if s then 1 else 6)
  BitVec.ofNat 32 (2 ^ k)
/-- FCLASS (R164). -/
def execFclass (h : Hdr) (d a : VReg) (s : State) : Res := aluOp (.fclass h d a) h d (fun s t => fclassW (s.src t 0 a)) s

/-- The lane format of a half instruction (R162). -/
def halfFF (bf : Bool) : FF := if bf then ffb16 else ff16
/-- Lane k of a word (R162). -/
def half (F : FF) (w : Word) (k : Nat) : Fl := F.dec (bits w.toNat (16 * k + 15) (16 * k))
/-- A half instruction: both lanes by one function, an FPTE condition of either lane traps; lane 0's is reported first (R162). -/
def halfOp (i : Instr) (h : Hdr) (d : VReg) (bf : Bool) (rm : Rm) (ins : State → TRef → List Word) (f : List Fl → Fl) (s : State) : Res :=
  runGuarded i h (fun s t =>
    let F := halfFF bf
    let ws := ins s t
    let r := fun k => let xs := ws.map fun w => half F w k; (roundF F rm (f xs), xs)
    let r0 := r 0
    let r1 := r 1
    let m0 := fpTrap (s.fpteOf t) (fpMet r0.2 (F.dec r0.1))
    let m1 := fpTrap (s.fpteOf t) (fpMet r1.2 (F.dec r1.1))
    fpDone s t d (BitVec.ofNat 32 (r0.1 + r1.1 <<< 16)) (m0.or m1)) s
/-- HADD2 (R162). -/
def execHadd2 (h : Hdr) (d a b : VReg) (rm : Rm) (bf : Bool) (s : State) : Res :=
  halfOp (.hadd2 h d a b rm bf) h d bf rm (fun s t => [s.src t 0 a, s.src t 1 b]) (two fun x y => x.add rm y) s
/-- HMUL2 (R162). -/
def execHmul2 (h : Hdr) (d a b : VReg) (rm : Rm) (bf : Bool) (s : State) : Res :=
  halfOp (.hmul2 h d a b rm bf) h d bf rm (fun s t => [s.src t 0 a, s.src t 1 b]) (two Fl.mul) s
/-- HFMA2 (R162). -/
def execHfma2 (h : Hdr) (d a b c : VReg) (rm : Rm) (bf : Bool) (s : State) : Res :=
  halfOp (.hfma2 h d a b c rm bf) h d bf rm (fun s t => [s.src t 0 a, s.src t 1 b, s.src t 2 c])
    (three fun x y z => (x.mul y).add rm z) s
/-- HSETP2 (R162). -/
def execHsetp2 (h : Hdr) (p : PReg) (a b : VReg) (pc : PReg) (cond : Cond) (u : Bool) (bop : Bop) (bf any : Bool) (s : State) : Res :=
  aluPred (.hsetp2 h p a b pc cond u bop bf any) h p (fun s t =>
    let c := fun k => condFl cond u (half (halfFF bf) (s.src t 0 a) k) (half (halfFF bf) (s.src t 1 b) k)
    bopOf bop (if any then c 0 || c 1 else c 0 && c 1) (s.pget t pc)) s

/-- The layout of a float format of conversions (R165). -/
def FFmtFF : FFmt → FF | .fp32 => ff32 | .fp16 => ff16 | .bf16 => ffb16
/-- Bits of a float format. -/
def FFmtBits : FFmt → Nat | .fp32 => 32 | _ => 16
/-- An integer source of CVTIF (R165). -/
def ifmtInt (f : IFmt) (w : Word) : Int :=
  match f with | .i32 => w.toInt | .u32 => w.toNat | .i8 => sextN 8 w.toNat | .u8 => (w.toNat % 256 : Nat)
/-- The range of an integer destination of CVTFI (R141, R165). -/
def ifmtRange : IFmt → Int × Int
  | .i32 => (-2147483648, 2147483647) | .u32 => (0, 4294967295) | .i8 => (-128, 127) | .u8 => (0, 255)
/-- CVTIF (R165). -/
def execCvtif (h : Hdr) (d a : VReg) (rm : Rm) (src : IFmt) (dst : FFmt) (s : State) : Res :=
  runGuarded (.cvtif h d a rm src dst) h (fun s t =>
    let x := Fl.ofInt (ifmtInt src (s.src t 0 a))
    let v := roundF (FFmtFF dst) rm x
    fpDone s t d (BitVec.ofNat 32 v) (fpMet [x] ((FFmtFF dst).dec v))) s
/-- CVTFI's value (R141, R165). -/
def cvtfiW (rm : Rm) (dst : IFmt) (x : Fl) : Word :=
  let r := ifmtRange dst
  match x with
  | .nan => 0
  | .inf sg => wOfI (if sg then r.1 else r.2)
  | .fin sg m e => let q := ratio m e; wOfI (clampI (roundInt rm sg q.1 q.2) r.1 r.2)
where wOfI (i : Int) : Word := BitVec.ofInt 32 i
/-- CVTFI (R165). -/
def execCvtfi (h : Hdr) (d a : VReg) (rm : Rm) (src : FFmt) (dst : IFmt) (s : State) : Res :=
  aluOp (.cvtfi h d a rm src dst) h d (fun s t => cvtfiW rm dst ((FFmtFF src).dec ((s.src t 0 a).toNat % 2 ^ FFmtBits src))) s
/-- CVTFF (R165). -/
def execCvtff (h : Hdr) (d a : VReg) (rm : Rm) (src dst : FFmt) (s : State) : Res :=
  runGuarded (.cvtff h d a rm src dst) h (fun s t =>
    let x := (FFmtFF src).dec ((s.src t 0 a).toNat % 2 ^ FFmtBits src)
    let v := roundF (FFmtFF dst) rm x
    fpDone s t d (BitVec.ofNat 32 v) (fpMet [x] ((FFmtFF dst).dec v))) s
/-- CVTT (R166). -/
def cvttW (sc : BitVec 6) (tf6 dec : Bool) (w : Word) : Word :=
  let n := if tf6 then 6 else 8
  if dec then wF ff32 .rn (tfDecode n (w.toNat % 2 ^ n) sc.toInt)
  else BitVec.ofNat 32 (tfEncode n (f32 w) sc.toInt).bits
/-- CVTT (R166). -/
def execCvtt (h : Hdr) (d a : VReg) (sc : BitVec 6) (tf6 dec : Bool) (s : State) : Res :=
  aluOp (.cvtt h d a sc tf6 dec) h d (fun s t => cvttW sc tf6 dec (s.src t 0 a)) s
/-- sa times 2^k (R161): beyond 1,000 binades every k gives the same rounding. -/
def scaleFl (x : Fl) (k : Int) : Fl :=
  match x with
  | .fin s m e => .fin s m (e + clampI k (-1000) 1000)
  | x => x
/-- FSCALE (R161): zeros, infinities and NaNs are returned. -/
def execFscale (h : Hdr) (d a b : VReg) (rm : Rm) (s : State) : Res :=
  runGuarded (.fscale h d a b rm) h (fun s t =>
    let x := f32 (s.src t 0 a)
    let v := roundF ff32 rm (scaleFl x (s.src t 1 b).toInt)
    fpDone s t d (BitVec.ofNat 32 v) (fpMet [x] (ff32.dec v))) s

end Sys2Proof.Machine
end

