-- ==== Sys2Proof/Machine/ThreadInt.lean ====
section
/-! DEFINITION. Integer and logic instructions of threads, 0x00-0x1F (R157-R160), and CRCW (R181). -/
namespace Sys2Proof.Machine

/-- An integer reduced to a word. -/
def wOfInt (i : Int) : Word := BitVec.ofInt 32 i
/-- Clamp to the signed words. -/
def clampS (i : Int) : Int := clampI i (-2147483648) 2147483647

/-- SAT of IADD and ISUB (R158) on the two exact results. -/
def satOf (sat : Sat) (u sg : Int) : Word :=
  match sat with
  | .wrap => wOfInt sg
  | .signed => wOfInt (clampS sg)
  | .unsigned => wOfInt (clampI u 0 4294967295)

/-- Bit i of a truth table by operand bits (R158). -/
def tlogBits (tt : Nat) (a b c : Word) : Word :=
  BitVec.ofNat 32 ((List.range 32).foldl (fun r i =>
    r + b2n (bit tt (b2n (a.getLsbD i) + 2 * b2n (b.getLsbD i) + 4 * b2n (c.getLsbD i))) <<< i) 0)

/-- SHL, SHR and SAR by an amount (R158). -/
def shlW (a : Word) (n : Nat) : Word := if 32 ≤ n then 0 else a <<< n
/-- SHR. -/
def shrW (a : Word) (n : Nat) : Word := if 32 ≤ n then 0 else a >>> n
/-- SAR. -/
def sarW (a : Word) (n : Nat) : Word := a.sshiftRight (min n 32)

/-- FSHF (R158). -/
def fshfW (r : Bool) (a b c : Word) : Word :=
  let x := a.toNat + 2 ^ 32 * b.toNat
  let n := c.toNat % 32
  if r then BitVec.ofNat 32 (x >>> n) else BitVec.ofNat 32 ((x <<< n) >>> 32)

/-- POPC. -/
def popcW (a : Word) : Word := BitVec.ofNat 32 ((List.range 32).countP fun i => a.getLsbD i)
/-- CLZ. -/
def clzW (a : Word) : Word := if a == 0 then 32 else BitVec.ofNat 32 (31 - Nat.log2 a.toNat)
/-- BREV. -/
def brevW (a : Word) : Word := BitVec.ofNat 32 ((List.range 32).foldl (fun r i => r + b2n (a.getLsbD (31 - i)) <<< i) 0)

/-- BFX (R160). -/
def bfxW (sx : Bool) (a f : Word) : Word :=
  let pos := f.toNat % 256
  let len := min (bits f.toNat 15 8) 32
  let x : Int := if sx then a.toInt else a.toNat
  if len == 0 then 0
  else
    let y := ((x / 2 ^ pos) % 2 ^ len).toNat
    if sx then wOfInt (sextN len y) else BitVec.ofNat 32 y

/-- BFI (R160). -/
def bfiW (a b f : Word) : Word :=
  let pos := f.toNat % 256
  let len := min (bits f.toNat 15 8) 32
  let m : Word := BitVec.ofNat 32 ((2 ^ len - 1) <<< pos)
  (b &&& ~~~m) ||| (BitVec.ofNat 32 (a.toNat <<< pos) &&& m)

/-- Byte i of a word, read as signed or unsigned. -/
def byteInt (u : Bool) (a : Word) (i : Nat) : Int := let x := bits a.toNat (8 * i + 7) (8 * i); if u then (x : Int) else sextN 8 x

/-- IDOT4 (R158). -/
def idot4W (ua ub sat : Bool) (a b c : Word) : Word :=
  let s : Int := (List.range 4).foldl (fun s i => s + byteInt ua a i * byteInt ub b i) c.toInt
  if sat then wOfInt (clampS s) else wOfInt s

/-- nb steps of the reflected CRC-32C (R181). -/
def crcStep (c : Nat) : Nat → Nat
  | 0 => c
  | n + 1 => crcStep (if c % 2 == 1 then (c / 2) ^^^ 0x82F63B78 else c / 2) n
/-- CRCW's bits by size (R181). -/
def CrcBits : CrcSz → Nat | .w => 32 | .b => 8 | .h => 16
/-- CRCW (R181). -/
def crcW (sz : CrcSz) (a b : Word) : Word := BitVec.ofNat 32 (crcStep (a.toNat ^^^ (b.toNat % 2 ^ CrcBits sz)) (CrcBits sz))

/-- A short instruction of two register sources. -/
def alu2 (i : Instr) (h : Hdr) (d a b : VReg) (f : Word → Word → Word) (s : State) : Res :=
  aluOp i h d (fun s t => f (s.src t 0 a) (s.src t 1 b)) s
/-- A short instruction of one register source. -/
def alu1 (i : Instr) (h : Hdr) (d a : VReg) (f : Word → Word) (s : State) : Res := aluOp i h d (fun s t => f (s.src t 0 a)) s
/-- A short instruction of three register sources. -/
def alu3 (i : Instr) (h : Hdr) (d a b c : VReg) (f : Word → Word → Word → Word) (s : State) : Res :=
  aluOp i h d (fun s t => f (s.src t 0 a) (s.src t 1 b) (s.src t 2 c)) s

/-- IADD (R158). -/
def execIadd (h : Hdr) (d a b : VReg) (sat : Sat) (s : State) : Res :=
  alu2 (.iadd h d a b sat) h d a b (fun x y => satOf sat (x.toNat + y.toNat) (x.toInt + y.toInt)) s
/-- IADDI (R158). -/
def execIaddi (h : Hdr) (d a : VReg) (imm : BitVec 32) (s : State) : Res := alu1 (.iaddi h d a imm) h d a (fun x => x + imm) s
/-- ISUB (R158). -/
def execIsub (h : Hdr) (d a b : VReg) (sat : Sat) (s : State) : Res :=
  alu2 (.isub h d a b sat) h d a b (fun x y => satOf sat (x.toNat - y.toNat) (x.toInt - y.toInt)) s
/-- IMUL (R158). -/
def execImul (h : Hdr) (d a b : VReg) (s : State) : Res := alu2 (.imul h d a b) h d a b (fun x y => x * y) s
/-- IMULI (R158). -/
def execImuli (h : Hdr) (d a : VReg) (imm : BitVec 32) (s : State) : Res := alu1 (.imuli h d a imm) h d a (fun x => x * imm) s
/-- IMULH (R158). -/
def execImulh (h : Hdr) (d a b : VReg) (u : Bool) (s : State) : Res :=
  alu2 (.imulh h d a b u) h d a b (fun x y => wOfInt (wInt u x * wInt u y / 4294967296)) s
/-- IMAD (R158). -/
def execImad (h : Hdr) (d a b c : VReg) (s : State) : Res := alu3 (.imad h d a b c) h d a b c (fun x y z => x * y + z) s
/-- IMADW (R158). -/
def execImadw (h : Hdr) (d a b c : VReg) (u : Bool) (s : State) : Res :=
  aluPair (.imadw h d a b c u) h d (fun s t =>
    (BitVec.ofInt 64 (wInt u (s.src t 0 a) * wInt u (s.src t 1 b) + (s.rp t c : Int))).toNat) s
/-- IMIN (R158). -/
def execImin (h : Hdr) (d a b : VReg) (u : Bool) (s : State) : Res :=
  alu2 (.imin h d a b u) h d a b (fun x y => if wInt u x ≤ wInt u y then x else y) s
/-- IMAX (R158). -/
def execImax (h : Hdr) (d a b : VReg) (u : Bool) (s : State) : Res :=
  alu2 (.imax h d a b u) h d a b (fun x y => if wInt u x ≤ wInt u y then y else x) s
/-- IABS (R158). -/
def execIabs (h : Hdr) (d a : VReg) (sat : Bool) (s : State) : Res :=
  alu1 (.iabs h d a sat) h d a (fun x => if sat then wOfInt (clampS x.toInt.natAbs) else wOfInt x.toInt.natAbs) s
/-- INEG (R158). -/
def execIneg (h : Hdr) (d a : VReg) (sat : Bool) (s : State) : Res :=
  alu1 (.ineg h d a sat) h d a (fun x => if sat then wOfInt (clampS (-x.toInt)) else wOfInt (-x.toInt)) s
/-- TLOG (R158). -/
def execTlog (h : Hdr) (d a b c : VReg) (tt : BitVec 8) (s : State) : Res :=
  alu3 (.tlog h d a b c tt) h d a b c (fun x y z => tlogBits tt.toNat x y z) s
/-- TLOGI (R158): x is the sign-extended IMM24. -/
def execTlogi (h : Hdr) (d a : VReg) (imm : BitVec 24) (tt : BitVec 4) (s : State) : Res :=
  alu1 (.tlogi h d a imm tt) h d a (fun x => tlogBits tt.toNat x (imm.signExtend 32) 0) s
/-- SHL (R158). -/
def execShl (h : Hdr) (d a b : VReg) (s : State) : Res := alu2 (.shl h d a b) h d a b (fun x y => shlW x y.toNat) s
/-- SHLI (R158). -/
def execShli (h : Hdr) (d a : VReg) (amt : BitVec 5) (s : State) : Res := alu1 (.shli h d a amt) h d a (fun x => shlW x amt.toNat) s
/-- SHR (R158). -/
def execShr (h : Hdr) (d a b : VReg) (s : State) : Res := alu2 (.shr h d a b) h d a b (fun x y => shrW x y.toNat) s
/-- SHRI (R158). -/
def execShri (h : Hdr) (d a : VReg) (amt : BitVec 5) (s : State) : Res := alu1 (.shri h d a amt) h d a (fun x => shrW x amt.toNat) s
/-- SAR (R158). -/
def execSar (h : Hdr) (d a b : VReg) (s : State) : Res := alu2 (.sar h d a b) h d a b (fun x y => sarW x y.toNat) s
/-- SARI (R158). -/
def execSari (h : Hdr) (d a : VReg) (amt : BitVec 5) (s : State) : Res := alu1 (.sari h d a amt) h d a (fun x => sarW x amt.toNat) s
/-- FSHF (R158). -/
def execFshf (h : Hdr) (d a b c : VReg) (r : Bool) (s : State) : Res := alu3 (.fshf h d a b c r) h d a b c (fshfW r) s
/-- POPC (R158). -/
def execPopc (h : Hdr) (d a : VReg) (s : State) : Res := alu1 (.popc h d a) h d a popcW s
/-- CLZ (R158). -/
def execClz (h : Hdr) (d a : VReg) (s : State) : Res := alu1 (.clz h d a) h d a clzW s
/-- BREV (R158). -/
def execBrev (h : Hdr) (d a : VReg) (s : State) : Res := alu1 (.brev h d a) h d a brevW s
/-- BFX (R160). -/
def execBfx (h : Hdr) (d a b : VReg) (sx : Bool) (s : State) : Res := alu2 (.bfx h d a b sx) h d a b (bfxW sx) s
/-- BFI (R160). -/
def execBfi (h : Hdr) (d a b c : VReg) (s : State) : Res := alu3 (.bfi h d a b c) h d a b c bfiW s
/-- ISETP (R159). -/
def execIsetp (h : Hdr) (p : PReg) (a b : VReg) (pc : PReg) (cond : Cond) (u : Bool) (bop : Bop) (s : State) : Res :=
  aluPred (.isetp h p a b pc cond u bop) h p (fun s t =>
    bopOf bop (condInt cond (wInt u (s.src t 0 a)) (wInt u (s.src t 1 b))) (s.pget t pc)) s
/-- ISETPI (R159). -/
def execIsetpi (h : Hdr) (p : PReg) (a : VReg) (imm : BitVec 24) (cond : Cond) (u : Bool) (s : State) : Res :=
  aluPred (.isetpi h p a imm cond u) h p (fun s t => condInt cond (wInt u (s.src t 0 a)) (wInt u (imm.signExtend 32))) s
/-- IADD64 (R158). -/
def execIadd64 (h : Hdr) (d a b : VReg) (s : State) : Res :=
  aluPair (.iadd64 h d a b) h d (fun s t => (s.rp t a + s.rp t b) % 2 ^ 64) s
/-- LEA64 (R158). -/
def execLea64 (h : Hdr) (d a b : VReg) (sx : Bool) (sh : BitVec 3) (s : State) : Res :=
  aluPair (.lea64 h d a b sx sh) h d (fun s t =>
    let x : Nat := if sx then ((s.src t 1 b).signExtend 64).toNat else (s.src t 1 b).toNat
    (s.rp t a + x <<< sh.toNat) % 2 ^ 64) s
/-- ICLAMP (R158). -/
def execIclamp (h : Hdr) (d a b c : VReg) (u : Bool) (s : State) : Res :=
  alu3 (.iclamp h d a b c u) h d a b c (fun x y z =>
    let m := if wInt u x ≤ wInt u y then y else x
    if wInt u m ≤ wInt u z then m else z) s
/-- IDOT4 (R158). -/
def execIdot4 (h : Hdr) (d a b c : VReg) (ua ub sat : Bool) (s : State) : Res :=
  alu3 (.idot4 h d a b c ua ub sat) h d a b c (idot4W ua ub sat) s
/-- CRCW (R181). -/
def execCrcw (h : Hdr) (d a b : VReg) (sz : CrcSz) (s : State) : Res := alu2 (.crcw h d a b sz) h d a b (crcW sz) s

end Sys2Proof.Machine
end

