-- ==== Sys2Proof/Machine/ThreadMove.lean ====
section
/-! DEFINITION. Movement, predicates and special values (R167, R168), and the cross-lane instructions and WSYNC (R169-R175). -/
namespace Sys2Proof.Machine

/-- GRID[k] of a launch record (R38). -/
def Grid.dim (g : Grid) (k : Nat) : Nat := bits g.raw.toNat (64 + 32 * k + 31) (64 + 32 * k)

/-- An S2V value (R168). -/
def s2vValue (s : State) (t : TRef) (sel : Nat) : Nat :=
  match s.block? t.core t.slot with
  | none => 0
  | some b =>
    let w := b.warps[t.warp]?
    let g := s.gridOf b
    let dim := fun k => (g.map fun g => g.dim k).getD 1
    match sel with
    | 0x00 => t.lane
    | 0x01 => 32 * t.warp + t.lane
    | 0x02 => 32 * (w.map Warp.rwarp).getD 0 + t.lane
    | 0x03 => (w.map Warp.role).getD 0
    | 0x04 => t.warp
    | 0x05 => (w.map Warp.wslot).getD 0
    | 0x06 => t.slot
    | 0x07 => t.core
    | 0x08 => quadOf t.core
    | 0x09 => quarterOf t.core
    | 0x0A => s.clk % 2 ^ 32
    | 0x0B => s.clk / 2 ^ 32 % 2 ^ 32
    | 0x0C => b.lin % dim 0
    | 0x0D => b.lin / dim 0 % dim 1
    | 0x0E => b.lin / dim 0 / dim 1
    | 0x0F => dim 0
    | 0x10 => dim 1
    | 0x11 => dim 2
    | 0x12 => 32 * b.warps.length
    | 0x13 => b.variant
    | 0x14 => b.milestone
    | 0x15 => b.sclass
    | 0x16 => b.sizep
    | n => (b.dom.getD (n - 0x17) 0).toNat

/-- MOV (R167). -/
def execMov (h : Hdr) (d a : VReg) (s : State) : Res := alu1 (.mov h d a) h d a (fun x => x) s
/-- MOVI (R167). -/
def execMovi (h : Hdr) (d : VReg) (imm : BitVec 32) (s : State) : Res := aluOp (.movi h d imm) h d (fun _ _ => imm) s
/-- SEL (R167). -/
def execSel (h : Hdr) (d a b : VReg) (pc : PReg) (s : State) : Res :=
  aluOp (.sel h d a b pc) h d (fun s t => if s.pget t pc then s.src t 0 a else s.src t 1 b) s
/-- S2V (R168). -/
def execS2v (h : Hdr) (d : VReg) (sel : BitVec 16) (s : State) : Res :=
  aluOp (.s2v h d sel) h d (fun s t => BitVec.ofNat 32 (s2vValue s t sel.toNat)) s
/-- PLOP (R167). -/
def execPlop (h : Hdr) (p pa pb pc : PReg) (tt : BitVec 8) (s : State) : Res :=
  aluPred (.plop h p pa pb pc tt) h p (fun s t =>
    tt.getLsbD (b2n (s.pget t pa) + 2 * b2n (s.pget t pb) + 4 * b2n (s.pget t pc))) s
/-- P2V (R167). -/
def execP2v (h : Hdr) (d : VReg) (s : State) : Res :=
  aluOp (.p2v h d) h d (fun s t => match s.thread? t with | some th => th.pred.setWidth 32 | none => 0) s
/-- V2P (R167). -/
def execV2p (h : Hdr) (a : VReg) (m : BitVec 7) (s : State) : Res :=
  runGuarded (.v2p h a m) h (fun s t =>
    let x : BitVec 7 := (s.src t 0 a).setWidth 7
    .done (s.modThread t fun th => { th with pred := (th.pred &&& ~~~m) ||| (x &&& m) })) s

/-! ### Rendezvous (R169-R171) -/

/-- The threads of a warp that have arrived at a rendezvous (R169), in increasing home lane. -/
def Warp.arrivals (w : Warp) (core slot k mask opc : Nat) (pc : Dword) : List TRef :=
  ((List.range w.threads.length).filter fun l => bit mask l &&
    match w.threads[l]? with
    | some th => th.st == .arrived && (match th.wait with
      | some x => x.kind == .rendezvous && x.mask == mask && x.opc == opc && (opc == 0x4D || x.addr == pc)
      | none => false)
    | none => false).map fun l => ⟨core, slot, k, l⟩

/-- Arrive at a rendezvous with a member mask; when every member has exited or arrived, all complete together: fin writes what
one thread of the arrival set receives, from the state before any of it, and says whether the thread goes on (R169, R170). -/
def rendezvous (i : Instr) (h : Hdr) (mask : State → TRef → Word) (fin : State → List TRef → TRef → State → Eff) (s : State) : Res :=
  runThreads i h true (fun s t _ =>
    match s.thread? t with
    | none => .stay s
    | some th =>
      let m := ((mask s t) ||| (1#32 <<< t.lane)).toNat
      let opc := Instr.wordOf i / 2 ^ 56
      let s1 := s.modThread t fun th => { th with st := .arrived, wait := some ⟨.rendezvous, m, th.pc, opc, 0⟩ }
      match s1.warp? t with
      | none => .stay s1
      | some w =>
        if w.met m opc th.pc then
          let A := w.arrivals t.core t.slot t.warp m opc th.pc
          .stay (A.foldl (fun s2 u =>
            if opc != 0x4D && s1.guard u h then
              match fin s1 A u s2 with
              | .done s3 => s3.adv u (th.pc + 8)
              | .goto s3 pc => s3.adv u pc
              | .stay s3 => s3
              | .trap s3 c => s3.deliver u c false
            else s2.adv u (s1.pcOf u + 8)) s1)
        else .stay s1) s

/-- Source lane of LXCH (R172). -/
def lxLane (mode : LxMode) (wd l d : Nat) : Option Nat :=
  let b := l - l % wd
  match mode with
  | .abs => some (b + d % wd)
  | .lo => if d ≤ l - b then some (l - d) else none
  | .hi => if d < b + wd - l then some (l + d) else none
  | .flip => some (l ^^^ (d % wd))

/-- LXCH (R172). -/
def execLxch (h : Hdr) (d a b c : VReg) (mode : LxMode) (wl : BitVec 3) (s : State) : Res :=
  rendezvous (.lxch h d a b c mode wl) h (fun s t => s.src t 2 c) (fun s1 A u s2 =>
    let j := (lxLane mode (32 >>> wl.toNat) u.lane (s1.src u 1 b).toNat).bind fun j => A.find? fun x => x.lane == j
    .done (s2.wv u d (s1.src (j.getD u) 0 a))) s
/-- PJOIN (R173). -/
def execPjoin (h : Hdr) (p pa : PReg) (b : VReg) (mode : PjMode) (s : State) : Res :=
  rendezvous (.pjoin h p pa b mode) h (fun s t => s.src t 0 b) (fun s1 A u s2 =>
    let any := A.any fun x => s1.pget x pa
    let all := A.all fun x => s1.pget x pa
    .done (s2.pset u p (match mode with | .any => any | .all => all | .same => all || !any))) s
/-- A lane mask of the arrival set by a test. -/
def laneMask (A : List TRef) (f : TRef → Bool) : Word :=
  A.foldl (fun m x => if f x then m ||| (1#32 <<< x.lane) else m) 0
/-- PMASK (R173). -/
def execPmask (h : Hdr) (d : VReg) (pa : PReg) (b : VReg) (s : State) : Res :=
  rendezvous (.pmask h d pa b) h (fun s t => s.src t 0 b) (fun s1 A u s2 =>
    .done (s2.wv u d (laneMask A fun x => s1.pget x pa))) s
/-- LEQM (R173). -/
def execLeqm (h : Hdr) (d a b : VReg) (s : State) : Res :=
  rendezvous (.leqm h d a b) h (fun s t => s.src t 1 b) (fun s1 A u s2 =>
    .done (s2.wv u d (laneMask A fun x => s1.src x 0 a == s1.src u 0 a))) s

/-- Op of R174; an f32 add rounds an exact real, so an exact zero is +0 (R140, log 8). -/
def wsOp (op : WsOp) (ty : WsTy) (x y : Word) : Word :=
  match ty with
  | .f32 =>
    match op with
    | .add => BitVec.ofNat 32 (rne ff32 ((f32 x).add .rn (f32 y)))
    | .min => BitVec.ofNat 32 (minMaxNum ff32 false x.toNat y.toNat)
    | .max => BitVec.ofNat 32 (minMaxNum ff32 true x.toNat y.toNat)
  | _ =>
    match op with
    | .add => x + y
    | .min => if wInt (ty == .u32) x ≤ wInt (ty == .u32) y then x else y
    | .max => if wInt (ty == .u32) x ≤ wInt (ty == .u32) y then y else x
/-- Identity of R174. -/
def wsId (op : WsOp) (ty : WsTy) : Word :=
  match op, ty with
  | .add, _ => 0
  | .min, .i32 => 0x7FFFFFFF#32
  | .min, .u32 => 0xFFFFFFFF#32
  | .min, .f32 => 0x7F800000#32
  | .max, .i32 => 0x80000000#32
  | .max, .u32 => 0
  | .max, .f32 => 0xFF800000#32
/-- Fold of R174 over a list; of a single FP32 value that is a NaN, the canonical one (R142). -/
def wsFold (op : WsOp) (ty : WsTy) : List Word → Word
  | [] => wsId op ty
  | [x] => if ty == .f32 && (f32 x).isNan then BitVec.ofNat 32 ff32.nanBits else x
  | x :: xs => xs.foldl (wsOp op ty) x
/-- The first FPTE bit that an add of the fold meets and that is enabled (R145, R174). -/
def wsMet (fpte : Nat) (op : WsOp) (ty : WsTy) (xs : List Word) : Option Nat :=
  match op, ty, xs with
  | .add, .f32, x :: ys =>
    (ys.foldl (fun (acc : Word × Option Nat) y =>
      let v := wsOp op ty acc.1 y
      (v, acc.2.or (fpTrap fpte (fpMet [f32 acc.1, f32 y] (f32 v))))) (x, none)).2
  | _, _, _ => none

/-- WSCAN and WRED (R174): k says how many values from the lowest lane on a thread's fold takes. -/
def wsRun (i : Instr) (h : Hdr) (d a b : VReg) (op : WsOp) (ty : WsTy) (k : List TRef → TRef → Nat) (s : State) : Res :=
  rendezvous i h (fun s t => s.src t 1 b) (fun s1 A u s2 =>
    let xs := A.map fun x => s1.src x 0 a
    let top := A.foldl (fun m x => max m (k A x)) 0
    match wsMet (s1.fpteOf u) op ty (xs.take top) with
    | some e => .done (s2.trapLater u i h d e)
    | none => .done (s2.addPend u h d 1 (some (wsFold op ty (xs.take (k A u))).toNat) (s1.pcOf u) 0)) s
/-- WSCAN (R174). -/
def execWscan (h : Hdr) (d a b : VReg) (op : WsOp) (excl : Bool) (ty : WsTy) (s : State) : Res :=
  wsRun (.wscan h d a b op excl ty) h d a b op ty (fun A u => (A.takeWhile fun x => x != u).length + (if excl then 0 else 1)) s
/-- WRED (R174). -/
def execWred (h : Hdr) (d a b : VReg) (op : WsOp) (ty : WsTy) (s : State) : Res :=
  wsRun (.wred h d a b op ty) h d a b op ty (fun A _ => A.length) s
/-- WSYNC (R175). -/
def execWsync (h : Hdr) (a : VReg) (s : State) : Res :=
  rendezvous (.wsync h a) h (fun s t => s.src t 0 a) (fun _ _ _ s2 => .done s2) s

end Sys2Proof.Machine
end

