-- ==== Sys2Proof/Machine/ThreadMem.lean ====
section
/-! DEFINITION. Loads, stores, atomics, remote instructions, stream pops, cache control and transform kicks of threads
(R260-R286), core watchpoints (R413) and the retirement of engine counters (R343). -/
namespace Sys2Proof.Machine

/-- The address of LD, ST, RLD and RST (R265). -/
def memAddr (base : Nat) (off : BitVec 14) (n : Nat) : Nat := (BitVec.ofNat 64 base + (off.signExtend 64) * BitVec.ofNat 64 n).toNat
/-- The scratchpad byte of LDS and STS (R265). -/
def spadAddr (base : Word) (off : BitVec 14) (n : Nat) : Nat := (base + off.signExtend 32 * BitVec.ofNat 32 n).toNat
/-- Extend a loaded value of n bytes (R263). -/
def extendLd (sx : Bool) (n v : Nat) : Nat := if sx && decide (n ≤ 2) then (BitVec.ofInt 32 (sextN (8 * n) v)).toNat else v

/-- The lowest watched byte address of n bytes at va that a core watchpoint matches, with its HALT bit; lower i first (R413). -/
def State.watchHit (s : State) (core ctx va n : Nat) (rdA wrA : Bool) : Option (Nat × Bool) :=
  (List.range 8).findSome? fun i =>
    let w := (SMap.get (s.core core).dbg (0x200 + 2 * i) 0).toNat
    let c := (SMap.get (s.core core).dbg (0x201 + 2 * i) 0).toNat
    if bit c 0 && bits c 47 32 == ctx && ((bit c 2 && rdA) || (bit c 1 && wrA)) then
      ((List.range n).find? fun k => (va + k) % 2 ^ 52 / 16 == w % 2 ^ 52 / 16 && bit c (16 + (va + k) % 16)).map fun k => (va + k, bit c 3)
    else none

/-- A performed access raises WATCHPOINT after it when a core watchpoint matches (R413). -/
def State.watchAccess (s : State) (t : TRef) (pc : Dword) (va n : Nat) (rdA wrA : Bool) : State :=
  match s.watchHit t.core (s.ctxOf t) va n rdA wrA with
  | none => s
  | some (a, halt) => s.modThread t fun th => { th with watch := some ({ causeVa cWatchpoint a pc with rpc := pc + 8 }, halt) }

/-- A 128-bit access to host memory is two 64-bit halves, in either order (R268). -/
def halved (pa n : Nat) : Bool := paHost pa && n == 16
/-- LD reads n bytes: an acquire at scope quad or wider at the home slice, else through L1 (R317). -/
def State.ldRead (s : State) (t : TRef) (f : Flg) (m : MemF) (pa n : Nat) (at' : BitVec 10) : State × Option Nat :=
  if f.acq && m.scope != .blk then (s.l1Home t.core pa n).homeLoad (s.ctxOf t) pa n f.ch at'
  else s.l1Load t.core (s.ctxOf t) pa n f.ch at'
/-- After LD has bound its value, an acquire's L1 actions (R321). -/
def State.ldOver (s : State) (t : TRef) (f : Flg) (m : MemF) : State := if f.acq then s.acquire t.core (s.ctxOf t) m.scope else s
/-- A thread's access of two halves (R268): one has been performed, the other, at pa, waits; v is the value read, or the data to write. -/
def State.holdHalf (s : State) (t : TRef) (i : Instr) (h : Hdr) (d : VReg) (n : Nat) (pc : Dword) (va pa v : Nat) (hi : Bool) (at' : BitVec 10) : State :=
  let f := s.fresh
  let s1 := f.2.modThread t fun th => { th with held := th.held ++ [⟨.half, i, pc, pa, v, b2n hi, BitVec.ofNat 64 va, f.1, .free, [], 0, [], at'⟩] }
  s1.addPend t h d n none pc f.1
/-- Two 64-bit halves as one value: hi says which the second is. -/
def joinHalves (first second : Nat) (hi : Bool) : Nat := if hi then first + second <<< 64 else second + first <<< 64

/-- LD of one thread (R270, R271); an acquire binds its value, then has the L1 actions (R321). -/
def ldEff (h : Hdr) (d a : VReg) (f : Flg) (m : MemF) (s : State) (t : TRef) : Eff :=
  let n := m.sz.bytes
  let pc := s.pcOf t
  let va := memAddr (s.rp t a) m.off n
  match s.vaCheck t pc va n .read 0 with
  | .fail s1 c => .trap s1 c
  | .park s1 => .stay s1
  | .ok s1 pa at' =>
    if halved pa n then
      let c := s1.freeN
      let hi := Config.freeBool c.1
      match c.2.ldRead t f m (if hi then pa else pa + 8) 8 at' with
      | (s2, none) => .trap s2 (causeVa cUncorrectable va pc)
      | (s2, some v) => .done ((s2.holdHalf t (.ld h d a f m) h d m.sz.regs pc va (if hi then pa + 8 else pa) v hi at').watchAccess t pc va n true false)
    else
      match s1.ldRead t f m pa n at' with
      | (s2, none) => .trap s2 (causeVa cUncorrectable va pc)
      | (s2, some v) =>
        .done (((s2.ldOver t f m).addPend t h d m.sz.regs (some (extendLd f.sx n v)) pc 0).watchAccess t pc va n true false)
/-- LD. -/
def execLd (h : Hdr) (d a : VReg) (f : Flg) (m : MemF) (s : State) : Res := runGuarded (.ld h d a f m) h (ldEff h d a f m) s

/-- A store that covers part of a poisoned sector (R240, R269). -/
def State.partPoison (s : State) (pa n : Nat) : Bool := s.poison.any fun k =>
  decide (64 * k < pa + n) && decide (pa < 64 * k + 64) && !(decide (pa ≤ 64 * k) && decide (64 * k + 64 ≤ pa + n))

/-- ST writes n bytes: found poisoned, or with metadata that cannot be read, it is reported imprecisely and changes nothing but that metadata (R240,
R269, R310; log 24). A store that WB mode holds in L1 meets neither. -/
def State.stWrite (s : State) (t : TRef) (pc : Dword) (f : Flg) (va pa n v : Nat) (at' : BitVec 10) : State :=
  let wb := s.wbMode t
  let held := wb && f.ch == .dflt && cachedPage pa at'
  if !held && s.partPoison pa n then s.imprecise t { causeVa cUncorrectable va pc with rpc := pc + 8 }
  else if !held && s.metaUe pa n then (s.ueWrite pa n).imprecise t { causeVa cMetaUe va pc with rpc := pc + 8 }
  else (s.rcWrite t.core (s.ctxOf t) va n).l1Store t.core (s.ctxOf t) pa n v f.ch wb at'
/-- ST of one thread (R270, R271): a release first, then the store. -/
def stEff (h : Hdr) (a b : VReg) (f : Flg) (m : MemF) (s : State) (t : TRef) : Eff :=
  let n := m.sz.bytes
  let pc := s.pcOf t
  let va := memAddr (s.rp t a) m.off n
  match s.vaCheck t pc va n .write 1 with
  | .fail s1 c => .trap s1 c
  | .park s1 => .stay s1
  | .ok s1 pa at' =>
    let s2 := if f.rel then s1.release t.core m.scope else s1
    let v := s2.srcN t 1 b m.sz.regs
    if halved pa n then
      let c := s2.freeN
      let hi := Config.freeBool c.1
      let s3 := c.2.stWrite t pc f (if hi then va else va + 8) (if hi then pa else pa + 8) 8 (if hi then v else v >>> 64) at'
      .done ((s3.holdHalf t (.st h a b f m) h 255 1 pc va (if hi then pa + 8 else pa) (if hi then v >>> 64 else v) hi at').watchAccess t pc va n false true)
    else .done ((s2.stWrite t pc f va pa n v at').watchAccess t pc va n false true)
/-- The second half of an access (R268): the value of the whole, none when it meets a poisoned sector. -/
def State.halfDo (s : State) (t : TRef) (o : HeldOp) : State × Option Nat :=
  let hi := bit o.c 0
  let at' := o.attr
  match o.i with
  | .ld _ _ _ f m =>
    match s.ldRead t f m o.a 8 at' with
    | (s1, none) => (s1, none)
    | (s1, some v) => (s1.ldOver t f m, some (joinHalves o.b v hi))
  | .st _ _ _ f _ => (s.stWrite t o.pc f (o.va.toNat + 8 * b2n hi) o.a 8 o.b at', some 0)
  | _ => (s, none)
/-- ST. -/
def execSt (h : Hdr) (a b : VReg) (f : Flg) (m : MemF) (s : State) : Res := runGuarded (.st h a b f m) h (stEff h a b f m) s

/-- A write of a thread at home slices; where metadata does not let it happen, it is reported imprecisely (R310). -/
def State.homeStore (s : State) (t : TRef) (pc : Dword) (va pa n v : Nat) (at' : BitVec 10) : State :=
  let s1 := s.l1Home t.core pa n
  if s1.metaUe pa n then (s1.ueWrite pa n).imprecise t { causeVa cMetaUe va pc with rpc := pc + 8 }
  else (s1.rcWrite t.core (s1.ctxOf t) va n).pwrite (s1.ctxOf t) pa v n at'

/-- The pool word of a scratchpad byte (R56, R217, R219), as State.poolBad numbers it. -/
def Block.spadWord (b : Block) (x : Nat) : Nat :=
  let base := (b.warps.map Warp.rows).sum
  let n := b.rows.length - 2 - base - b.sprows
  (b.core * 768 + b.rows.getD (base + n + x / 4096) 0) * 512 + x / 8 % 512
/-- Some byte of n at scratchpad byte x is uncorrectable (R240). -/
def State.spadUe (s : State) (b : Block) (x n : Nat) : Bool :=
  !s.poolBad.isEmpty && (List.range n).any fun k => s.poolBad.contains (b.spadWord (x + k))

/-- Checks 4, 5 and 7 of R266 for scratchpad, on a block: the cause, if any. -/
def State.spadCheck (s : State) (b : Block) (pc : Dword) (x n : Nat) (rdA : Bool) : Option Cause :=
  if x % n != 0 then some (causeOf cMisaligned x pc)
  else if 4096 * b.sprows < x + n then some (causeOf cBounds x pc)
  else if rdA && s.spadUe b x n then some (causeOf cUncorrectable x pc)
  else none

/-- LDS of one thread (R272). -/
def ldsEff (h : Hdr) (d a : VReg) (f : Flg) (m : MemF) (s : State) (t : TRef) : Eff :=
  let n := m.sz.bytes
  let pc := s.pcOf t
  let x := spadAddr (s.src t 0 a) m.off n
  match s.block? t.core t.slot with
  | none => .stay s
  | some b =>
    match s.spadCheck b pc x n true with
    | some c => .trap s c
    | none => .done (s.addPend t h d m.sz.regs (some (extendLd f.sx n (Mem.readN b.spad x n))) pc 0)
/-- LDS. -/
def execLds (h : Hdr) (d a : VReg) (f : Flg) (m : MemF) (s : State) : Res := runGuarded (.lds h d a f m) h (ldsEff h d a f m) s

/-- Write n bytes of a block's scratchpad; words that are wholly written are no longer uncorrectable. -/
def State.spadWrite (s : State) (b : Block) (x n v : Nat) : State :=
  let s1 := s.modBlock b.core b.slot fun b => { b with spad := Mem.writeN b.spad x v n }
  if s.poolBad.isEmpty then s1
  else
    let full := (List.range (n / 8 + 1)).filterMap fun k =>
      let w := roundUpTo x 8 + 8 * k
      if w + 8 ≤ x + n then some (b.spadWord w) else none
    { s1 with poolBad := s1.poolBad.filter fun w => !full.contains w }

/-- STS writes n bytes: where it covers part of an uncorrectable word, it is reported imprecisely and the word stays (R240, R269; log 24). -/
def State.spadStore (s : State) (t : TRef) (b : Block) (pc : Dword) (x n v : Nat) : State :=
  let part := !s.poolBad.isEmpty && (List.range n).any fun k =>
    let w := (x + k) / 8 * 8
    s.poolBad.contains (b.spadWord (x + k)) && !(decide (x ≤ w) && decide (w + 8 ≤ x + n))
  if part then s.imprecise t { causeOf cUncorrectable x pc with rpc := pc + 8 } else s.spadWrite b x n v
/-- STS of one thread (R272). -/
def stsEff (a b : VReg) (m : MemF) (s : State) (t : TRef) : Eff :=
  let n := m.sz.bytes
  let pc := s.pcOf t
  let x := spadAddr (s.src t 0 a) m.off n
  match s.block? t.core t.slot with
  | none => .stay s
  | some blk =>
    match s.spadCheck blk pc x n false with
    | some c => .trap s c
    | none => .done (s.spadStore t blk pc x n (s.srcN t 1 b m.sz.regs))
/-- STS. -/
def execSts (h : Hdr) (a b : VReg) (f : Flg) (m : MemF) (s : State) : Res := runGuarded (.sts h a b f m) h (stsEff a b m) s

/-- AtomicNew of R273 on w-bit values, w = 32 or 64; an FP32 sum rounds an exact real (R140, log 8). -/
def atomicNew (op : AOp) (ty : ATy) (w old b : Nat) : Nat :=
  let lt := fun (x y : Nat) => match ty with | .signed => decide (sextN w x < sextN w y) | _ => decide (x < y)
  match op with
  | .add => if ty == .fp32 then rne ff32 ((ff32.dec old).add .rn (ff32.dec b)) else (old + b) % 2 ^ w
  | .min => if ty == .fp32 then minMaxNum ff32 false old b else if lt b old then b else old
  | .max => if ty == .fp32 then minMaxNum ff32 true old b else if lt old b then b else old
  | .and => old &&& b
  | .or => old ||| b
  | .xor => old ^^^ b
  | .exch => b
  | .inc => if b ≤ old then 0 else old + 1
  | .dec => if old == 0 || decide (b < old) then b else old - 1

/-- What a PCIe AtomicOp can carry (R276). -/
def hostAtomic (op : AOp) (ty : ATy) : Bool := (op == .add && ty == .unsigned) || op == .exch

/-- An atomic at the home slice for one thread (R274, R276): upd gives the new value from the old one; the old value, or the cause. One without a
result that meets a poisoned sector has been accepted: it is reported imprecisely (R269). -/
def State.atomicAt (s : State) (t : TRef) (pc : Dword) (va n align : Nat) (host acq rel res : Bool) (scope : Scope) (upd : Nat → Nat) :
    Obj × Nat :=
  match s.vaCheck t pc va align .write 2 with
  | .fail s1 c => (.fail s1 c, 0)
  | .park s1 => (.park s1, 0)
  | .ok s1 pa at' =>
    let snoop := !cachedPage pa at'
    if snoop && !host then (.fail s1 (causeVa cProtection va pc), 0)
    else if snoop && Config.atomicRefused s1.free then
      (.fail { s1 with free := s1.free + 1 } (causeVa cProtection va pc), 0)
    else
      let s2 := if rel then s1.release t.core scope else s1
      let s3 := (if snoop then { s2 with free := s2.free + 1 } else s2).l1Home t.core pa n
      if s3.poisoned pa n then
        if res then (.fail (s3.ueRead pa n) (causeVa cUncorrectable va pc), 0)
        else (.ok (((s3.ueRead pa n).imprecise t { causeVa cUncorrectable va pc with rpc := pc + 8 }).watchAccess t pc va n true true) pa at', 0)
      else
        let old := s3.pread pa n
        let s4 := (s3.rcWrite t.core (s3.ctxOf t) va n).pwrite (s3.ctxOf t) pa (upd old) n at'
        let s5 := if acq then s4.acquire t.core (s4.ctxOf t) scope else s4
        (.ok (s5.watchAccess t pc va n true true) pa at', old)

/-- ATOM and RED of one thread (R274). -/
def atomEff (h : Hdr) (d : Option VReg) (a b : VReg) (m : AtomF) (s : State) (t : TRef) : Eff :=
  let n := m.sz.bytes
  let pc := s.pcOf t
  let va := s.rp t a
  let x := s.srcN t 1 b m.sz.regs
  match s.atomicAt t pc va n n (hostAtomic m.op m.ty) m.acq m.rel d.isSome m.scope (fun old => atomicNew m.op m.ty (8 * n) old x) with
  | (.fail s1 c, _) => .trap s1 c
  | (.park s1, _) => .stay s1
  | (.ok s1 _ _, old) =>
    .done (match d with | some r => s1.addPend t h r m.sz.regs (some old) pc 0 | none => s1)
/-- ATOM. -/
def execAtom (h : Hdr) (d a b : VReg) (m : AtomF) (s : State) : Res := runGuarded (.atom h d a b m) h (atomEff h (some d) a b m) s
/-- RED. -/
def execRed (h : Hdr) (a b : VReg) (m : AtomF) (s : State) : Res := runGuarded (.red h a b m) h (atomEff h none a b m) s

/-- ACAS of one thread (R274): 16-byte alignment for 64 bits (R266 check 4). -/
def acasEff (h : Hdr) (d a b : VReg) (m : AtomF) (s : State) (t : TRef) : Eff :=
  let n := m.sz.bytes
  let pc := s.pcOf t
  let cmp := s.rvN t b m.sz.regs
  let swp := s.rvN t (b + BitVec.ofNat 8 m.sz.regs) m.sz.regs
  match s.atomicAt t pc (s.rp t a) n (if n == 8 then 16 else n) true m.acq m.rel true m.scope (fun old => if old == cmp then swp else old) with
  | (.fail s1 c, _) => .trap s1 c
  | (.park s1, _) => .stay s1
  | (.ok s1 _ _, old) => .done (s1.addPend t h d m.sz.regs (some old) pc 0)
/-- ACAS. -/
def execAcas (h : Hdr) (d a b : VReg) (m : AtomF) (s : State) : Res := runGuarded (.acas h d a b m) h (acasEff h d a b m) s

/-- ATOMS of one thread (R275). -/
def atomsEff (h : Hdr) (d a b : VReg) (m : AtomF) (s : State) (t : TRef) : Eff :=
  let n := m.sz.bytes
  let pc := s.pcOf t
  let x := (s.src t 0 a).toNat
  match s.block? t.core t.slot with
  | none => .stay s
  | some blk =>
    match s.spadCheck blk pc x n true with
    | some c => .trap s c
    | none =>
      let old := Mem.readN blk.spad x n
      .done ((s.spadWrite blk x n (atomicNew m.op m.ty (8 * n) old (s.srcN t 1 b m.sz.regs))).addPend t h d m.sz.regs (some old) pc 0)
/-- ATOMS. -/
def execAtoms (h : Hdr) (d a b : VReg) (m : AtomF) (s : State) : Res := runGuarded (.atoms h d a b m) h (atomsEff h d a b m) s

/-! ### Engine counters (R184, R343) -/

/-- The operation that this convoy's threads of a warp count as: the one counted since id0, else a new one (R269). -/
def State.convoyOp (s : State) (t : TRef) (e : Eng) (id0 : Nat) : State × Nat :=
  match (s.warp? t).bind fun w => w.ops.find? fun o => o.cls == e && decide (id0 ≤ o.id) with
  | some o => (s, o.id)
  | none =>
    let f := s.fresh
    (f.2.modWarp t fun w => { w with ops := w.ops ++ [⟨f.1, e, false, false, none⟩] }, f.1)

/-- A thread's warp can count one more operation of a class (R269, R343). -/
def State.counterRoom (s : State) (e : Eng) (t : TRef) : Bool :=
  match s.warp? t with | some w => decide (countOps w.ops e < 63) | none => false

/-- Retire the leading done operations of a class (R343); one that carries a fault stays, no longer counted, until the fault is
delivered (R393). -/
def retireOps (e : Eng) : List Op → List Op
  | [] => []
  | o :: os =>
    if o.cls != e || o.ret then o :: retireOps e os
    else if !o.done then o :: os
    else if o.err.isSome then { o with ret := true } :: retireOps e os
    else retireOps e os

/-- Some access of an operation is outstanding. -/
def State.opBusy (s : State) (id : Nat) : Bool := (s.remOut.any fun r => r.op == id) || s.xreqs.any fun r => r.op == id

/-- An asynchronous fault of the engine section as fields: offset, bytes, value; fl: bits 0 and 2 of FLAGS (R399, R431). -/
def efFields (o : Nat) (c : Cause) (fl : Nat) : List (Nat × Nat × Nat) :=
  [(o, 1, c.code), (o + 1, 1, c.ecls), (o + 2, 1, fl + 2 * b2n c.gatef), (o + 4, 4, c.chunk), (o + 8, 8, if c.gatef then c.tpc.toNat else c.fpc.toNat),
   (o + 16, 8, c.va.toNat), (o + 24, 2, c.eng)]

/-- A fault of a block whose frame is in memory is noted there: EF, NEF or NLOST (R399). -/
def State.efNote (s : State) (b : Block) (va : Nat) (c : Cause) : State :=
  let o := va + 0x100 + 1024 * b.warps.length + 4096
  let n := s.ctxR b.ctx (o + 12) 2
  if n < 16 then ((efFields (16 + 32 * n) c 0).foldl (fun s f => s.ctxW b.ctx (o + f.1) f.2.1 f.2.2 2) s).ctxW b.ctx (o + 12) 2 (n + 1) 1
  else s.ctxW b.ctx (o + 14) 2 (min (s.ctxR b.ctx (o + 14) 2 + 1) 0xFFFF) 1
/-- A completion of a block whose frame is in memory is noted there: HELD, and its fault (R399, R404, R420). -/
def State.heldNote (s : State) (b : Block) (va : Nat) (e : Eng) (err : Option Cause) : State :=
  let o := va + 0x100 + 1024 * b.warps.length + 4096
  let h := o + 2 * (Eng.code e).toNat
  let s1 := s.ctxW b.ctx h 2 (s.ctxR b.ctx h 2 + 1) 1
  match err with | none => s1 | some c => s1.efNote b va c
/-- Some list of a block counts an operation. -/
def Block.counts (b : Block) (id : Nat) : Bool := (b.tile.ops.any fun o => o.id == id) || b.warps.any fun w => w.ops.any fun o => o.id == id

/-- Mark an operation done wherever it is counted, and retire what can (R343); a frame in memory notes it (R399). -/
def State.opDone (s : State) (id : Nat) (e : Eng) (err : Option Cause) : State :=
  let upd := fun (ops : List Op) => ops.map fun o => if o.id == id then { o with done := true, err := err } else o
  let fixW := fun (w : Warp) => if w.ops.any (fun o => o.id == id) then { w with ops := retireOps e (upd w.ops) } else w
  let fixB := fun (b : Block) => { b with
    warps := b.warps.map fixW
    tile := if b.tile.ops.any (fun o => o.id == id) then { b.tile with ops := retireOps e (upd b.tile.ops) } else b.tile }
  let s1 := { s with blocks := s.blocks.map fixB, saved := s.saved.map fun v => { v with snap := fixB v.snap } }
  match s.saved.find? fun v => v.snap.counts id with
  | some v => s1.heldNote v.snap v.frame.toNat e err
  | none =>
    match s.blocks.find? fun b => b.frame.isSome && b.counts id with
    | some b => (match b.frame with | some f => s1.heldNote b f.va.toNat e err | none => s1)
    | none => s1

/-! ### Remote instructions (R264, R277-R279) -/

/-- The destination device of a remote group, and whether check 2 of R266 holds. -/
def State.remoteIdx (s : State) (t : TRef) (a : VReg) : Option Nat :=
  let x := (s.rv t (a + 2)).toNat
  let n := match (s.block? t.core t.slot).bind s.gridOf with | some g => s.jobDevices g | none => 1
  if x < n then some x else none

/-- Send one thread's remote operation (R277, R278): to this device's own queue, or on its link; an unreachable device ends it
with FABRIC. kind: 0 RLD, 1 RST, 2 RATOM. -/
def State.sendRemote (s : State) (t : TRef) (pc : Dword) (op idx va kind data : Nat) (cls : BitVec 4) (sz : Sz) (am : AtomF) (sx pend acq : Bool) :
    State × Nat :=
  let f := s.fresh
  let s1 := f.2
  let b := s.block? t.core t.slot
  let ctx := s.ctxOf t
  let own := s.devIdx ctx
  let job := s.jobOf ctx
  let grid := (b.map Block.grid).getD 0
  let lin := (b.map Block.lin).getD 0
  let mk := fun l => (⟨f.1, t, grid, lin, op, pc, BitVec.ofNat 64 va, pend, idx, l, kind == 2, cls.toNat, acq⟩ : RemOut)
  let local' := match b.bind s.gridOf with | some g => g.jobid == 0 || idx == own | none => true
  if local' then
    ({ s1 with
      remOut := s1.remOut ++ [mk 16]
      remIn := s1.remIn ++ [⟨f.1, own, f.1, job, cls.toNat, kind, BitVec.ofNat 64 va, data, sz, am, sx, false, false, true, none⟩] }, f.1)
  else
    match s.route ctx idx with
    | some l =>
      if bit (s.regN (devReg (0x300 + 8 * l))) 0 then
        ({ s1 with remOut := s1.remOut ++ [mk l] }.send ctx l
          (.request own f.1 job cls.toNat kind (BitVec.ofNat 64 va) data sz am sx), f.1)
      else ({ s1 with remOut := s1.remOut ++ [mk 17], inputs := s1.inputs ++ [.remoteReply f.1 cFabric 0] }, f.1)
    | none => ({ s1 with remOut := s1.remOut ++ [mk 17], inputs := s1.inputs ++ [.remoteReply f.1 cFabric 0] }, f.1)

/-- A neutral atomic layout for RLD and RST. -/
def noAtom : AtomF := ⟨0, .b32, .blk, .add, .unsigned, false, false⟩

/-- A remote instruction of one thread (R264-R266, R277): id0 is the first identity of this convoy. -/
def remoteEff (h : Hdr) (d : Option VReg) (a : VReg) (off : BitVec 14) (sz : Sz) (cls : BitVec 4) (kind : Nat) (data : State → TRef → Nat)
    (am : AtomF) (sx acq rel : Bool) (id0 : Nat) (s : State) (t : TRef) : Eff :=
  let n := sz.bytes
  let pc := s.pcOf t
  let va := memAddr (s.rp t a) off n
  match s.remoteIdx t a with
  | none => .trap s (causeOf cBounds (s.rv t (a + 2)).toNat pc)
  | some idx =>
    if !canonical va then .trap s (causeVa cProtection va pc)
    else if va % n != 0 then .trap s (causeVa cMisaligned va pc)
    else
      let s0 := if rel then s.release t.core .job else s
      let o := s0.convoyOp t .remote id0
      let dst := d.filter fun r => r != 255#8
      let r := o.1.sendRemote t pc o.2 idx va kind (data s t) cls sz am sx dst.isSome acq
      let s1 := match dst with
        | some x => r.1.addPend t h x sz.regs none pc r.2
        | none => r.1
      .done s1

/-- RLD (R277). -/
def execRld (h : Hdr) (d a : VReg) (f : Flg) (m : MemF) (s : State) : Res :=
  runThreadsIf (.rld h d a f m) h (s.counterRoom .remote)
    (remoteEff h (some d) a m.off m.sz m.cls 0 (fun _ _ => 0) noAtom f.sx f.acq false s.nextId) s
/-- RST (R277). -/
def execRst (h : Hdr) (a b : VReg) (f : Flg) (m : MemF) (s : State) : Res :=
  runThreadsIf (.rst h a b f m) h (s.counterRoom .remote)
    (remoteEff h none a m.off m.sz m.cls 1 (fun s t => s.srcN t 1 b m.sz.regs) noAtom false false f.rel s.nextId) s
/-- RATOM (R277). -/
def execRatom (h : Hdr) (d a b : VReg) (m : AtomF) (s : State) : Res :=
  runThreadsIf (.ratom h d a b m) h (s.counterRoom .remote)
    (remoteEff h (some d) a 0 m.sz m.cls 2 (fun s t => s.srcN t 1 b m.sz.regs) m false m.acq m.rel s.nextId) s

/-! ### Stream pops, prefetch, cache control, transform kicks -/

/-- An unconfigured ring. -/
def Ring.none : Ring := ⟨false, 0, 0, 0, 0, 0, [], [], []⟩
/-- A ring of a block (R222). -/
def Block.ring (b : Block) (q : Nat) : Ring := SMap.get b.rings q Ring.none
/-- Change a ring. -/
def Block.modRing (b : Block) (q : Nat) (f : Ring → Ring) : Block := { b with rings := SMap.put b.rings q (f (b.ring q)) }
/-- RSIZE (R222). -/
def Ring.size (r : Ring) : Nat := 2 ^ (r.lsize + 8)

/-- SPOP of one thread joins the ring's pop queue (R282). -/
def spopEff (i : Instr) (h : Hdr) (d : VReg) (sz : Sz) (q : Nat) (s : State) (t : TRef) : Eff :=
  let pc := s.pcOf t
  match s.block? t.core t.slot with
  | none => .stay s
  | some b =>
    if !(b.ring q).cfg then .trap s (causeOf cTileBinding q pc)
    else
      let f := s.fresh
      let s1 := f.2.modBlock t.core t.slot fun b => b.modRing q fun r => { r with pops := r.pops ++ [t] }
      let s2 := s1.modThread t fun th => { th with
        held := th.held ++ [⟨.pop, i, pc, q, 0, 0, 0, f.1, .free, [], 0, [], 0⟩] }
      .done (s2.addPend t h d sz.regs none pc f.1)
/-- SPOP (R281, R282). -/
def execSpop (h : Hdr) (d : VReg) (sx : Bool) (sz : Sz) (ring : BitVec 4) (s : State) : Res :=
  runGuarded (.spop h d sx sz ring) h (spopEff (.spop h d sx sz ring) h d sz ring.toNat) s

/-- PREF (R284): a prefetch that would fault is dropped. -/
def execPref (h : Hdr) (a : VReg) (l1 : Bool) (off : BitVec 14) (s : State) : Res :=
  runGuarded (.pref h a l1 off) h (fun s t =>
    let va := memAddr (s.rp t a) off 1
    let ctx := s.ctxOf t
    match s.translate (.core t.core) ctx va .read with
    | (s1, .ok pa at') =>
      if !cachedPage pa at' then .done s1
      else
        let s2 := s1.touchL2 ctx pa 1 false at'
        let base := pa / 128 * 128
        if l1 && !s2.poisoned base 128 then
          .done ((List.range 4).foldl (fun s k => s.l1Fill t.core ctx (base + 32 * k) at') s2)
        else .done s2
    | (s1, _) => .done s1) s

/-- The dirty sectors of an L2 line are written to memory; the line stays valid (R285, R329). -/
def State.l2Clean (s : State) (k : Nat) : State :=
  match SMap.get? s.l2 k with
  | none => s
  | some l => { s.hostPut k l with l2 := s.l2.map fun x => if x.1 == k then (k, { l with dirty := 0 }) else x }
/-- CCTL (R285). -/
def execCctl (h : Hdr) (a : VReg) (op : CctlOp) (cls : BitVec 4) (off : BitVec 14) (s : State) : Res :=
  runGuarded (.cctl h a op cls off) h (fun s t =>
    let va := memAddr (s.rp t a) off 1
    let at' := fun (f : State → Nat → State) =>
      match s.translate (.core t.core) (s.ctxOf t) va .read with
      | (s1, .ok pa _) => Eff.done (f s1 pa)
      | (s1, _) => .done s1
    match op with
    | .ivl => at' fun s1 pa => match s1.l1? t.core pa with | some l => (s1.wbBytes l l.dirty).l1Drop t.core l.line | none => s1
    | .wb => at' fun s1 pa => match s1.l1? t.core pa with
      | some l => (s1.wbBytes l l.dirty).l1Upd t.core { l with valid := l.valid ||| l.dirty, dirty := 0 }
      | none => s1
    | .ivall => .done ((s.l1Flush t.core).l1DropClean t.core)
    | .l2wb => at' fun s1 pa => match SMap.get? s1.l2 (pa / 512) with
      | some _ => s1.l2Clean (pa / 512)
      | none => s1) s

/-- A request ring's registers (R311). -/
def xrReg (ctx r k : Nat) : Nat := ctxReg ctx (0x300 + 32 * r + 8 * k)

/-- XRHEAD counts the requests started: it stands at the first that has not, so that requests dropped by an abort no longer fill the ring
(R52, R311). -/
def State.xrSync (s : State) (ctx r : Nat) : State :=
  let h := match s.xreqs.find? fun q => q.ctx == ctx && q.ring == r && !q.started with
    | some q => BitVec.ofNat 64 q.idx
    | none => s.reg (xrReg ctx r 3)
  s.setReg (xrReg ctx r 2) h

/-- Post a request block at a ring's tail (R286, R311): none while the ring is full. -/
def State.xkickPost (s : State) (t : TRef) (pc : Dword) (blk ring op : Nat) : Option Obj × Nat :=
  let ctx := s.ctxOf t
  let n := bits (s.regN (xrReg ctx ring 1)) 11 8
  let tl := s.regN (xrReg ctx ring 3)
  if (tl + 2 ^ 32 - s.regN (xrReg ctx ring 2)) % 2 ^ 32 == 2 ^ n then (none, 0)
  else
    match s.vaCheck t pc (s.regN (xrReg ctx ring 0) + 64 * (tl % 2 ^ n)) 64 .write 1 with
    | .ok s1 pa at' =>
      let b := s.block? t.core t.slot
      let s2 := (s1.pwrite ctx pa blk 64 at').setReg (xrReg ctx ring 3) (BitVec.ofNat 64 ((tl + 1) % 2 ^ 32))
      (some (.ok { s2 with xreqs := s2.xreqs ++ [⟨ctx, ring, tl, t, (b.map Block.grid).getD 0, (b.map Block.lin).getD 0, op, pc,
        false, 0, 0, false, 0, 0, 0, 0, 0, 0, none, 0, false⟩] } pa at'), tl % 2 ^ 32)
    | r => (some r, 0)

/-- Another request of the ring waits for room with an earlier place in the order of issue (R286). -/
def State.xkickBefore (s : State) (t : TRef) (ring tag : Nat) : Bool :=
  (s.blocks.filter fun b => b.ctx == s.ctxOf t).any fun b => b.warps.any fun w => w.threads.any fun th => th.held.any fun o =>
    o.kind == .full && o.hs != .parked && o.b == ring && decide (o.tag < tag) && match o.i with | .xkick _ _ _ _ _ _ => true | _ => false
/-- XKICK of one thread (R286). -/
def xkickEff (i : Instr) (h : Hdr) (d a : VReg) (rel : Bool) (ring id0 : Nat) (s : State) (t : TRef) : Eff :=
  let pc := s.pcOf t
  let va := s.rp t a
  match s.object t pc va 64 .read with
  | .fail s1 c => .trap s1 c
  | .park s1 => .stay s1
  | .ok s1 pa _ =>
    if !bit (s1.regN (xrReg (s1.ctxOf t) ring 1)) 0 then .trap s1 (causeVa cProtection va pc)
    else
      let s2 := if rel then s1.release t.core .dev else s1
      let blk := s2.pread pa 64
      match (if s2.xkickBefore t ring s2.nextId then (none, 0) else s2.xkickPost t pc blk ring 0) with
      | (some (.fail s3 c), _) => .trap s3 c
      | (some (.park s3), _) => .stay s3
      | (some (.ok s3 _ _), idx) =>
        let o := s3.convoyOp t .xform id0
        let ctx := s.ctxOf t
        .done ({ o.1 with xreqs := o.1.xreqs.map fun (r : XReq) =>
          if r.ctx == ctx && r.ring == ring && r.idx % 2 ^ 32 == idx && !r.started then { r with op := o.2 } else r }.addPend t h d 1 (some idx) pc 0)
      | (none, _) =>
        let o := s2.convoyOp t .xform id0
        let f := o.1.fresh
        .done ((f.2.modThread t fun th => { th with
          held := th.held ++ [⟨.full, i, pc, blk, ring, o.2, BitVec.ofNat 64 va, f.1, .free, [], 0, [], 0⟩] }).addPend t h d 1 none pc f.1)
/-- XKICK. -/
def execXkick (h : Hdr) (d a : VReg) (cls : BitVec 4) (rel : Bool) (ring : BitVec 3) (s : State) : Res :=
  runThreadsIf (.xkick h d a cls rel ring) h (s.counterRoom .xform)
    (xkickEff (.xkick h d a cls rel ring) h d a rel ring.toNat s.nextId) s

end Sys2Proof.Machine
end

