-- ==== Sys2Proof/Machine/Sync.lean ====
section
/-! DEFINITION. Barriers, domain barriers, fences, waits, POLL, GATE, queues, ROLE and MILE (R332-R353, R364). -/
namespace Sys2Proof.Machine

/-! ### Barrier objects (R334-R340) -/

/-- A malformed barrier object (R334). -/
def barBad (s : State) (pa : Nat) : Bool :=
  let fl := s.pread (pa + 0x15) 1
  !bit fl 0 || 3 < fl || 4 < s.pread (pa + 0x14) 1 || s.pread (pa + 8) 4 == 0 || s.pread (pa + 0x17) 9 != 0
/-- POISON. -/
def barPoisoned (s : State) (pa : Nat) : Bool := bit (s.pread (pa + 0x15) 1) 1
/-- The object's scope (R334). -/
def barScope (s : State) (pa : Nat) : Scope := (Scope.ofCode (BitVec.ofNat 3 (s.pread (pa + 0x14) 1))).getD .dev
/-- A token has passed (R339). -/
def tokenPassed (phase tok : Nat) : Bool := let d := (phase + 2 ^ 32 - tok % 2 ^ 32) % 2 ^ 32; 1 ≤ d && d < 2 ^ 31

/-- Threads that wait in a way a test selects, in running blocks. -/
def State.waiters (s : State) (p : Wait → Bool) : List TRef :=
  s.blocks.flatMap fun b => if b.stopped then [] else b.refs.filter fun t =>
    match b.thread? t.warp t.lane with
    | some th => th.st == .waiting && (match th.wait with | some w => p w | none => false)
    | none => false

/-- Wake the BWAITs of an object that now complete: with BARRIER_POISON, or because their token has passed (R338, R339). -/
def State.wakeBar (s : State) (pa : Nat) : State :=
  let poison := barPoisoned s pa
  let phase := s.pread (pa + 0x10) 4
  (s.waiters fun w => w.kind == .bwait && w.mask == pa).foldl (fun s t =>
    match s.thread? t with
    | none => s
    | some th =>
      match th.wait with
      | none => s
      | some w =>
        if poison then s.deliver t (causeVa cBarrierPoison w.addr.toNat th.pc) false
        else if tokenPassed phase w.arg.toNat then
          ((s.acquire t.core (s.ctxOf t) (barScope s pa)).adv t (th.pc + 8)).modBlock t.core t.slot fun b => b.bwaitDone pa w.arg.toNat t
        else s) s

/-- Poison an object; the first cause stays (R340). -/
def State.barPoison (s : State) (ctx pa cause : Nat) (at' : BitVec 10) : State :=
  if barPoisoned s pa then s
  else ((s.pwrite ctx (pa + 0x15) (s.pread (pa + 0x15) 1 ||| 2) 1 at').pwrite ctx (pa + 0x16) cause 1 at').wakeBar pa

/-- CheckPhase (R338). -/
def State.checkPhase (s : State) (ctx pa : Nat) (at' : BitVec 10) : State :=
  if s.pread (pa + 0xC) 4 == s.pread (pa + 8) 4 && s.pread pa 8 == 0 then
    ((s.pwrite ctx (pa + 0x10) (s.pread (pa + 0x10) 4 + 1) 4 at').pwrite ctx (pa + 0xC) 0 4 at').wakeBar pa
  else s

/-- Add a signed count to PEND and check the phase (R337, R338); a sum outside the range poisons. -/
def State.barAdd (s : State) (ctx pa : Nat) (d : Int) (at' : BitVec 10) : State × Bool :=
  let p := (BitVec.ofNat 64 (s.pread pa 8)).toInt + d
  if p < -(2 ^ 63) || 2 ^ 63 ≤ p then (s.barPoison ctx pa cBarrierPoison at', false)
  else ((s.pwrite ctx pa (BitVec.ofInt 64 p).toNat 8 at').checkPhase ctx pa at', true)

/-- BINIT (R335). -/
def execBinit (h : Hdr) (a b : VReg) (scope : Scope) (s : State) : Res :=
  runGuarded (.binit h a b scope) h (fun s t =>
    let pc := s.pcOf t
    let va := s.rp t a
    match s.object t pc va 32 .write with
    | .fail s1 c => .trap s1 c
    | .park s1 => .stay s1
    | .ok s1 pa at' =>
      let n := (s1.src t 1 b).toNat
      if n == 0 then .trap s1 (causeOf cBounds 0 pc)
      else
        let s2 := (s1.waiters fun w => w.kind == .bwait && w.mask == pa).foldl (fun s u =>
          s.deliver u (causeVa cBarrierPoison (match s.thread? u with | some th => (match th.wait with | some w => w.addr.toNat | none => 0) | none => 0) (s.pcOf u)) false) s1
        let s3 := s2.release t.core scope
        let w := n <<< 64 + (scope.code.toNat + 256) <<< 160
        .done (s3.pwrite (s3.ctxOf t) pa w 32 at')) s

/-- One arrival at an object (R336): the token, or the cause. -/
def State.arrive (s : State) (t : TRef) (pc : Dword) (va : Nat) : Obj × Nat :=
  match s.object t pc va 32 .write with
  | .fail s1 c => (.fail s1 c, 0)
  | .park s1 => (.park s1, 0)
  | .ok s1 pa at' =>
    let ctx := s1.ctxOf t
    let bp := causeVa cBarrierPoison va pc
    if barBad s1 pa || barPoisoned s1 pa then (.fail s1 bp, 0)
    else
      let arr := s1.pread (pa + 0xC) 4
      if arr == s1.pread (pa + 8) 4 then (.fail (s1.barPoison ctx pa cBarrierPoison at') bp, 0)
      else
        let s2 := s1.release t.core (barScope s1 pa)
        let tok := s2.pread (pa + 0x10) 4
        (.ok ((s2.pwrite ctx (pa + 0xC) (arr + 1) 4 at').checkPhase ctx pa at') pa at', tok)

/-- The token that an earlier lane of this convoy's warp has for its arrival at an object: its pending result after identity id0 (R336). -/
def State.groupToken (s0 s : State) (t : TRef) (a : VReg) (id0 : Nat) : Option Nat :=
  s.cur.threads.findSome? fun u =>
    if u.core == t.core && u.slot == t.slot && u.warp == t.warp && s0.rp u a == s0.rp t a then
      ((s.thread? u).bind fun th => th.pend.find? fun p => decide (id0 < p.tag)).bind Pend.value
    else none
/-- BARV of one thread (R336). With W, the guard-true threads of one warp that name one object arrive once, by the lowest lane that reaches it; the
others of the group receive its token, or meet the object's fault. -/
def barvEff (h : Hdr) (d a : VReg) (w : Bool) (s0 s : State) (t : TRef) : Eff :=
  let pc := s.pcOf t
  let va := s.rp t a
  match if w then s.groupToken s0 t a s0.nextId else none with
  | some tok =>
    match s.object t pc va 32 .write with
    | .fail s1 c => .trap s1 c
    | .park s1 => .stay s1
    | .ok s1 _ _ => .done (s1.addPend t h d 1 (some tok) pc 0)
  | none =>
    match s.arrive t pc va with
    | (.fail s1 c, _) => .trap s1 c
    | (.park s1, _) => .stay s1
    | (.ok s1 _ _, tok) =>
      if w then
        let f := s1.fresh.2.fresh
        .done (f.2.modThread t fun th => { th with pend := th.pend ++ [⟨if th.mapped d then 255#8 else d, 1, some tok, h.la.toNat, pc, f.1⟩] })
      else .done (s1.addPend t h d 1 (some tok) pc 0)
/-- BARV (R336). -/
def execBarv (h : Hdr) (d a : VReg) (w : Bool) (s : State) : Res := runGuarded (.barv h d a w) h (barvEff h d a w s) s

/-- BTX (R337). -/
def execBtx (h : Hdr) (a b : VReg) (s : State) : Res :=
  runGuarded (.btx h a b) h (fun s t =>
    let pc := s.pcOf t
    let va := s.rp t a
    match s.object t pc va 32 .write with
    | .fail s1 c => .trap s1 c
    | .park s1 => .stay s1
    | .ok s1 pa at' =>
      if barBad s1 pa || barPoisoned s1 pa then .trap s1 (causeVa cBarrierPoison va pc)
      else
        match s1.barAdd (s1.ctxOf t) pa (BitVec.ofNat 64 (s1.rp t b)).toInt at' with
        | (s2, true) => .done s2
        | (s2, false) => .trap s2 (causeVa cBarrierPoison va pc)) s

/-- BWAIT (R339). -/
def execBwait (h : Hdr) (a b : VReg) (s : State) : Res :=
  runGuarded (.bwait h a b) h (fun s t =>
    let pc := s.pcOf t
    let va := s.rp t a
    match s.object t pc va 32 .read with
    | .fail s1 c => .trap s1 c
    | .park s1 => .stay s1
    | .ok s1 pa _ =>
      let tok := s1.src t 1 b
      if barBad s1 pa || barPoisoned s1 pa then .trap s1 (causeVa cBarrierPoison va pc)
      else if tokenPassed (s1.pread (pa + 0x10) 4) tok.toNat then .done ((s1.acquire t.core (s1.ctxOf t) (barScope s1 pa)).modBlock t.core t.slot fun b => b.bwaitDone pa tok.toNat t)
      else .stay (s1.modThread t fun th => { th with
        st := .waiting, wait := some ⟨.bwait, pa, BitVec.ofNat 64 va, 0x83, tok.setWidth 64⟩ })) s

/-- BTEST (R339; log 11). -/
def execBtest (h : Hdr) (d a b : VReg) (s : State) : Res :=
  runGuarded (.btest h d a b) h (fun s t =>
    let pc := s.pcOf t
    let va := s.rp t a
    match s.object t pc va 32 .read with
    | .fail s1 c => .trap s1 c
    | .park s1 => .stay s1
    | .ok s1 pa _ =>
      if barBad s1 pa then .trap s1 (causeVa cBarrierPoison va pc)
      else
        let r := if barPoisoned s1 pa then 2 else if tokenPassed (s1.pread (pa + 0x10) 4) (s1.src t 1 b).toNat then 1 else 0
        let s2 := if r == 1 then s1.acquire t.core (s1.ctxOf t) (barScope s1 pa) else s1
        .done (s2.addPend t h d 1 (some r) pc 0)) s

/-! ### Domain barriers (R341) -/

/-- The scope of a domain level. -/
def levelScope : Nat → Scope | 0 => .blk | 1 => .quad | 2 => .die | 3 => .dev | _ => .job
/-- The number of a level (R332). -/
def levelNum : Level → Nat | .blk => 0 | .quad => 1 | .die => 2 | .dev => 3 | .job => 4
/-- The word that a thread at DBAR or MILE shows as its effective mask: id and level (R398). -/
def levelMask (l id : Nat) : Nat := id + 256 * l

/-- A thread that has arrived at a wait of a kind with a mask. -/
def Thread.at (th : Thread) (k : WKind) (mask : Nat) : Bool :=
  th.st == .arrived && (match th.wait with | some w => w.kind == k && w.mask == mask | none => false)

/-- Every live thread of the block has arrived at a wait of this kind and mask. -/
def Block.allAt (b : Block) (k : WKind) (mask : Nat) : Bool :=
  b.live.all fun t => match b.thread? t.warp t.lane with | some th => th.at k mask | none => false

/-- The resident and saved blocks of a grid. -/
def State.blocksOf (s : State) (g : Nat) : List Block :=
  (s.blocks.filter fun b => b.grid == g) ++ (s.saved.filter fun v => v.grid == g).map Saved.snap

/-- Blocks of the grid (R39). -/
def Grid.nblkAll (g : Grid) : Nat := g.dim 0 * g.dim 1 * g.dim 2

/-- A barrier (level, id) is complete for a block of the grid, the job's other devices apart (R341). -/
def State.dbarLocal (s : State) (g : Grid) (l m : Nat) (b : Block) : Bool :=
  let bs := s.blocksOf g.id
  match l with
  | 0 => b.allAt .dbar m
  | 1 => g.next == g.nblkAll && (bs.all fun x => x.dom.getD 1 0 != b.dom.getD 1 0 || x.allAt .dbar m)
  | 2 => g.next == g.nblkAll && (bs.all fun x => x.dom.getD 2 0 != b.dom.getD 2 0 || x.allAt .dbar m)
  | _ => g.next == g.nblkAll && bs.all fun x => x.allAt .dbar m

/-- The threads of a block that have arrived at a barrier go on; a sync point of the block (R119). -/
def Block.passDbar (b : Block) (m : Nat) : Block :=
  (b.refs.foldl (fun b t => b.modThread t.warp t.lane fun th =>
    if th.at .dbar m then { th with pc := th.pc + 8, st := .running, wait := none, taken := [], waited := 0 } else th) b).syncPoint

/-- The selected blocks pass a barrier with an acquire at its level (R68, R341). -/
def State.passLevel (s : State) (l m : Nat) (sel : Block → Bool) : State :=
  let s1 := (s.blocks.filter sel).foldl (fun s b => s.acquire b.core b.ctx (levelScope l)) s
  { s1 with
    blocks := s1.blocks.map fun b => if sel b then b.passDbar m else b
    saved := s1.saved.map fun v => if sel v.snap then { v with snap := v.snap.passDbar m, parked := false, passed := m :: v.passed } else v }

/-- The job's other devices. -/
def State.otherDevs (s : State) (g : Grid) : List Nat := (List.range (s.jobDevices g)).filter fun d => d != s.devIdx g.ctx

/-- Send this device's arrival at a job-level barrier to the other devices (R341). -/
def State.sendDbar (s : State) (g : Grid) (id : Nat) : State :=
  (s.otherDevs g).foldl (fun s d => match s.route g.ctx d with
    | some l => s.send g.ctx l (.dbar g.jobid g.jtag id (s.devIdx g.ctx))
    | none => s) s

/-- Complete one barrier of a grid if its arrivals are in. -/
def State.dbarOne (s : State) (gid m : Nat) : State :=
  match s.grid? gid with
  | none => s
  | some g =>
    let l := m / 256
    let id := m % 256
    if l ≤ 2 then
      s.passLevel l m (fun b => b.grid == gid && (b.live.any fun t => match b.thread? t.warp t.lane with
        | some th => th.at .dbar m | none => false) && s.dbarLocal g l m b)
    else
      match s.blocksOf gid with
      | [] => s
      | b :: _ =>
        if !s.dbarLocal g l m b then s
        else if l == 3 then s.passLevel l m (fun b => b.grid == gid)
        else
          let s1 := if g.jobSent.contains id then s
            else (s.sendDbar g id).modGrid gid fun x => { x with jobSent := id :: x.jobSent }
          if (s.otherDevs g).all fun d => decide (0 < SMap.get g.jobArr (id * 1024 + d) 0) then
            (s1.modGrid gid fun x => { x with
              jobSent := x.jobSent.filter fun k => k != id
              jobArr := (s.otherDevs g).foldl (fun m d => SMap.putD m (id * 1024 + d) 0 (SMap.get m (id * 1024 + d) 0 - 1)) x.jobArr }).passLevel
              l m (fun b => b.grid == gid)
          else s1

/-- A grid of which every block has ended counts as arrived at each later barrier of level job: it answers every arrival with its own (R341,
log 126). -/
def State.dbarEnded (s : State) (gid : Nat) : State :=
  match s.grid? gid with
  | none => s
  | some g =>
    if g.jobid != 0 && g.next == g.nblkAll && (s.blocksOf gid).isEmpty then
      (g.jobArr.foldl (fun s a => match s.route g.ctx (a.1 % 1024) with
        | some l => (List.range a.2).foldl (fun s _ => s.send g.ctx l (.dbar g.jobid g.jtag (a.1 / 1024) (s.devIdx g.ctx))) s
        | none => s) s).modGrid gid fun x => { x with jobArr := [] }
    else s
/-- Complete every barrier of a grid whose arrivals are in: after an arrival, an EXIT, a block's end and an arrival over the
fabric. -/
def State.dbarCheck (s : State) (gid : Nat) : State :=
  let ms := (s.blocksOf gid).flatMap fun b => b.live.filterMap fun t => match b.thread? t.warp t.lane with
    | some th => (match th.wait with | some w => if th.st == .arrived && w.kind == .dbar then some w.mask else none | none => none)
    | none => none
  (ms.eraseDups.foldl (fun s m => s.dbarOne gid m) s).dbarEnded gid

/-- A thread arrives at a wait of the block or the warp. -/
def State.arriveAt (s : State) (t : TRef) (w : Wait) : State := s.modThread t fun th => { th with st := .arrived, wait := some w }

/-- DBAR (R341): in a grid without a job, level job names the barrier of level dev. -/
def execDbar (h : Hdr) (level : Level) (id : BitVec 4) (s : State) : Res :=
  runThreads (.dbar h level id) h true (fun s t _ =>
    match (s.block? t.core t.slot).bind s.gridOf with
    | none => .stay s
    | some g =>
      let l := levelNum level
      let l1 := if l == 4 && g.jobid == 0 then 3 else l
      if (l1 == 1 || l1 == 2) && !g.coop then .trap s (causeOf cBounds id.toNat (s.pcOf t))
      else
        let s1 := s.release t.core (levelScope l1)
        let s2 := (s1.arriveAt t ⟨.dbar, levelMask l1 id.toNat, 0, 0x85, BitVec.ofNat 64 g.arrivals⟩).modGrid g.id
          fun x => { x with arrivals := x.arrivals + 1 }
        .stay (s2.dbarCheck g.id)) s

/-! ### FENCE, WAITC, POLL (R342-R344) -/

/-- FENCE waits for the thread's remote operations of its classes, and at scope job for those of the context's other threads (R322, R323). -/
def State.fenceWaits (s : State) (t : TRef) (scope : Scope) (mask : BitVec 16) : Bool :=
  s.remOut.any fun o => if o.t == t then mask.getLsbD o.cls else mask != 0 && scope == .job && s.remOf (s.ctxOf t) o
/-- FENCE (R323, R342). -/
def execFence (h : Hdr) (scope : Scope) (mask : BitVec 16) (s : State) : Res :=
  runThreadsIf (.fence h scope mask) h (fun t => !s.fenceWaits t scope mask)
    (fun s t => if mask == 0 then .done s else .done ((s.release t.core scope).acquire t.core (s.ctxOf t) scope)) s

/-- Forget the fault of an operation in every warp of the block and in its tile context (R393). -/
def Block.clearErr (b : Block) (id : Nat) : Block :=
  let f := fun (ops : List Op) => ops.filter fun o => !(o.id == id && o.ret)
  { b with warps := b.warps.map (fun w => { w with ops := f w.ops }), tile := { b.tile with ops := f b.tile.ops } }

/-- WAITC (R343, R393): a fault that the wait needs is delivered here, and the wait continues after it. -/
def execWaitc (h : Hdr) (eng : Eng) (n : BitVec 6) (s : State) : Res :=
  runGuarded (.waitc h eng n) h (fun s t =>
    match s.warp? t with
    | none => .stay s
    | some w =>
      match needErr eng n.toNat w.ops with
      | some (id, c) => .trap ((s.hitTrace t c.code).modBlock t.core t.slot fun b => b.clearErr id) { c with impr := true, rpc := s.pcOf t }
      | none =>
        if countOps w.ops eng ≤ n.toNat then .done s
        else .stay (s.modThread t fun th => { th with
          st := .waiting, wait := some ⟨.waitc, n.toNat, 0, (Eng.code eng).toNat, 0⟩ })) s

/-- One read of POLL (R344): the value at the home slice, and the thread's wait when the condition does not hold. -/
def State.pollRead (s : State) (t : TRef) (i : Instr) (d : VReg) (m : PollF) (pc : Dword) (va cmp : Nat) : Eff :=
  let n := m.sz.bytes
  match s.vaCheck t pc va n .read 0 with
  | .fail s1 c => .trap s1 c
  | .park s1 => .stay s1
  | .ok s0 pa _ =>
    let s1 := s0.l1Home t.core pa n
    if s1.poisoned pa n then .trap (s1.ueRead pa n) (causeVa cUncorrectable va pc)
    else
      let v := s1.pread pa n
      let s2 := s1.watchAccess t pc va n true false
      if pollTest m.cond v cmp then
        let s3 := s2.wvN t d v m.sz.regs
        .done (if m.acq then s3.acquire t.core (s3.ctxOf t) m.scope else s3)
      else .stay (s2.modThread t fun th => { th with
        st := .waiting, wait := some ⟨.poll, Instr.wordOf i, BitVec.ofNat 64 va, 0x88, BitVec.ofNat 64 cmp⟩ })
/-- POLL. -/
def execPoll (h : Hdr) (d a b : VReg) (m : PollF) (s : State) : Res :=
  runGuarded (.poll h d a b m) h (fun s t =>
    s.pollRead t (.poll h d a b m) d m (s.pcOf t) (s.rp t a) (s.srcN t 1 b m.sz.regs)) s

/-! ### GATE (R345, R346) -/

/-- The role of a warp takes part in GATE (R14). -/
def Grid.gateRole (g : Grid) (r : Nat) : Bool := bit ((g.img.roles.find? fun x => x.1 == r).elim 0 Prod.snd) 0
/-- The layout maps of a variant (R15). -/
def Image.lmapsOf (im : Image) (v : VarE) : List LMapE := (im.lmaps.drop v.lmFirst).take v.lmN
/-- The milestone map of a variant for an identifier (R17). -/
def Image.msOf (im : Image) (v : VarE) (m : Nat) : Option MsE := ((im.mss.drop v.msFirst).take v.msN).find? fun e => e.id == m
/-- The size class of a size parameter (R11). -/
def Image.classOf (im : Image) (p : Nat) : Option Nat :=
  (List.range im.nsc).find? fun k => decide (p ≤ im.scb.getD k 0)
/-- Elements of a register in a format (R21). -/
def Fmt.perReg : Fmt → Nat | .fp16 | .bf16 => 2 | .tf8 | .int8 | .uint8 | .e8 => 4 | _ => 1

/-- The threads that GATE counts (R345). -/
def Block.gateThreads (b : Block) (g : Grid) : List TRef :=
  b.live.filter fun t => match b.warps[t.warp]? with | some w => g.gateRole w.role | none => false

/-- The block-warp that is warp k of a role. -/
def Block.roleWarp (b : Block) (r k : Nat) : Option Nat :=
  (List.range b.warps.length).find? fun w => match b.warps[w]? with | some x => x.role == r && x.rwarp == k | none => false

/-- The handle that a layout map binds (R20, R21): lane is set for COLLANE. -/
def Block.mapHandle (b : Block) (m : LMapE) : Handle :=
  let f := (Fmt.ofCode (BitVec.ofNat 4 m.fmt)).getD .fp32
  let e := Fmt.perReg f * m.rn
  let w := (b.roleWarp m.role (m.t0 / 32)).getD 0
  ⟨f, m.mode == 1, m.role, m.t0, m.reg0, ((b.warps.take w).map Warp.rows).sum + m.reg0 / 32,
    if m.mode == 1 then e else m.tn, if m.mode == 1 then m.tn else e⟩

/-- The gate thread (R392): the lowest live thread of those that GATE counted. -/
def Block.gateThread (b : Block) : Option TRef :=
  b.live.find? fun t => match b.thread? t.warp t.lane with
    | some th => (match th.wait with | some w => w.kind == .gate | none => th.hmode && (match th.cause with | some c => c.gatef | none => false))
    | none => false

/-- A synchronous tile fault (R183, R392): the tile side freezes at its bundle and the gate thread takes the cause. -/
def State.tileFault (s : State) (core slot : Nat) (c : Cause) (halt : Bool) : State :=
  match s.block? core slot with
  | none => s
  | some b =>
    let c1 := { c with gatef := true, rpc := (b.gate.map GateFrame.pc).getD 0 }
    let s1 := (if c.code == cWatchpoint then s.traceTile b 6 else s).modBlock core slot fun b => { b with
      state := .frozen, frozenTile := true, why := if b.why.contains .tileFault then b.why else .tileFault :: b.why, tcause := some c1 }
    match b.gateThread with
    | some t => s1.deliver t c1 halt
    | none => s1.abortGrid b.grid b.lin c1 (s1.block? core slot)

/-- The first fault that an engine raised against the gate frame and that has not been delivered (R393). -/
def Block.pendingErr (b : Block) : Option (Nat × Cause) :=
  ((b.tile.ops ++ b.warps.flatMap Warp.ops).findSome? fun o => if o.ret then o.err.bind fun c => if c.gatef then some (o.id, c) else none else none)

/-- GATE misuse of a block whose counted threads have all arrived (R346). -/
def Block.gateBad (b : Block) (g : Grid) (v : VarE) (ws : List Wait) : Bool :=
  match ws with
  | [] => true
  | w :: rest =>
    let sel := (g.img.lmapsOf v).filter fun m => bit w.mask m.tile
    !bit v.vflags 0 || rest.any (fun x => x.addr != w.addr || x.mask != w.mask || x.arg != w.arg) ||
    ((List.range 16).any fun k => bit w.mask k && !sel.any fun m => m.tile == k) ||
    (sel.any fun m => (List.range (m.tn / 32)).any fun k => (b.roleWarp m.role (m.t0 / 32 + k)).isNone) ||
    decide (g.img.tileSize ≤ v.tentry + 32 * w.arg.toNat)

/-- GATE takes effect when every counted thread has arrived (R346). -/
def State.gateCheck (s : State) (core slot : Nat) : State :=
  match s.block? core slot with
  | none => s
  | some b =>
    match s.gridOf b, s.varOf b with
    | some g, some v =>
      let ts := b.gateThreads g
      let ths := ts.filterMap fun t => b.thread? t.warp t.lane
      let ws := ths.filterMap fun th => th.wait.filter fun w => th.st == .arrived && w.kind == .gate
      if ts.isEmpty || ws.length != ts.length || b.gated then s
      else if b.gateBad g v ws then
        ts.foldl (fun s t => s.deliver t (causeOf cGateMisuse ((ws.head?.map Wait.opc).getD 0) (s.pcOf t)) false) s
      else
        match ws.head? with
        | none => s
        | some w =>
          let e := w.arg.toNat
          let sel := (g.img.lmapsOf v).filter fun m => bit w.mask m.tile
          let s1 := (s.l1Flush core).rcEmpty core b.ctx
          let s2 := s1.modBlock core slot fun b =>
            let b1 := b.land
            let b2 := b1.refs.foldl (fun b t => b.modThread t.warp t.lane fun th =>
              if th.st == .running && !th.hmode then { th with st := .gated }
              else if th.st == .arrived && (match th.wait with | some x => x.kind == .gate | none => false) then { th with st := .gated }
              else th) b1
            { b2 with
              warps := b2.warps.map fun (x : Warp) => { x with inGate := x.threads.any fun th => th.st == .gated && (match th.wait with | some y => y.kind == .gate | none => false) }
              gate := some ⟨w.addr, BitVec.ofNat 16 w.mask, e, true⟩
              tile := { b2.tile with
                pc := BitVec.ofNat 64 (sext52 (g.img.base + g.img.tileOff + v.tentry + 32 * e)), joined := true,
                handles := sel.foldl (fun m x => SMap.put m x.tile (b2.mapHandle x)) b2.tile.handles } }
          match b.pendingErr with
          | some (id, c) => (s2.modBlock core slot fun b => b.clearErr id).tileFault core slot c false
          | none => match s2.block? core slot with | some b2 => s2.traceTile b2 1 | none => s2
    | _, _ => s

/-- GATE (R345, R346). -/
def execGate (h : Hdr) (a : VReg) (mask : BitVec 16) (s : State) : Res :=
  runThreads (.gate h a mask) h true (fun s t g =>
    match (s.block? t.core t.slot).bind s.gridOf, s.warp? t, s.thread? t with
    | some gr, some w, some th =>
      if !gr.gateRole w.role then
        (if g then .trap s (wordCause (.gate h a mask) cGateMisuse th) else .done s)
      else
        let v := s.src t 0 a
        .stay ((s.arriveAt t ⟨.gate, mask.toNat, th.pc, Instr.wordOf (.gate h a mask), v.setWidth 64⟩).gateCheck t.core t.slot)
    | _, _, _ => .stay s) s

/-! ### Queues (R347-R351) -/

/-- QMAP (R348). -/
def execQmap (h : Hdr) (d a : VReg) (prod : Bool) (b : BitVec 2) (s : State) : Res :=
  runGuarded (.qmap h d a prod b) h (fun s t =>
    if !prod && (d == 0#8 || d == 1#8 || d == 255#8) then .trap s (causeOf cBounds d.toNat (s.pcOf t))
    else
      let obj := BitVec.ofNat 64 (s.rp t a)
      .done (s.modThread t fun th => { th with
        binds := SMap.put (if prod then th.binds else th.binds.filter fun x => !(!x.2.prod && x.2.reg == d)) b.toNat ⟨obj, prod, d⟩ })) s

/-- One push (R350): none while the queue is full, else the outcome and the index. -/
def State.qpushAt (s : State) (t : TRef) (pc : Dword) (obj v : Nat) (rel : Bool) : Option Obj × Nat :=
  match s.object t pc obj 64 .write with
  | .fail s1 c => (some (.fail s1 c), 0)
  | .park s1 => (some (.park s1), 0)
  | .ok s1 pa at' =>
    if queueBad s1 pa || bit (s1.pread (pa + 13) 1) 0 then (some (.fail s1 (causeVa cBounds obj pc)), 0)
    else
      let hd := s1.pread (pa + 0x18) 8
      let tl := s1.pread (pa + 0x20) 8
      let cap := s1.pread (pa + 8) 4
      if hd + cap ≤ tl then (none, 0)
      else
        match s1.vaCheck t pc (s1.pread pa 8 + 4 * (tl % cap)) 4 .write 1 with
        | .fail s2 c => (some (.fail s2 c), 0)
        | .park s2 => (some (.park s2), 0)
        | .ok s2 epa eat =>
          let sc := (Scope.ofCode (BitVec.ofNat 3 (s2.pread (pa + 12) 1))).getD .dev
          let s3 := if rel then s2.release t.core sc else s2
          let ctx := s3.ctxOf t
          let s4 := s3.homeStore t pc (s2.pread pa 8 + 4 * (tl % cap)) epa 4 v eat
          (some (.ok ((s4.pwrite ctx (pa + 0x20) (tl + 1) 8 at').pwrite ctx (pa + 0x28) (tl + 1) 8 at') pa at'), tl % 2 ^ 32)

/-- Another push waits for room in a queue with an earlier place in the order in which pushes reached it (R333, R350). -/
def State.pushBefore (s : State) (t : TRef) (obj tag : Nat) : Bool :=
  (s.blocks.filter fun b => b.ctx == s.ctxOf t).any fun b => b.warps.any fun w => w.threads.any fun th => th.held.any fun o =>
    o.kind == .full && o.hs != .parked && o.a == obj && decide (o.tag < tag) && match o.i with | .qpush _ _ _ _ _ _ => true | _ => false
/-- QPUSH (R350): while the queue is full the push is held and its destination stays pending. -/
def execQpush (h : Hdr) (d a : VReg) (cls : BitVec 4) (rel : Bool) (b : BitVec 2) (s : State) : Res :=
  runGuarded (.qpush h d a cls rel b) h (fun s t =>
    let pc := s.pcOf t
    match (s.thread? t).bind fun th => SMap.get? th.binds b.toNat with
    | none => .trap s (causeOf cBounds b.toNat pc)
    | some x =>
      if !x.prod then .trap s (causeOf cBounds b.toNat pc)
      else
        let v := (s.src t 0 a).toNat
        match (if s.pushBefore t x.obj.toNat s.nextId then (none, 0) else s.qpushAt t pc x.obj.toNat v rel) with
        | (some (.fail s1 c), _) => .trap s1 c
        | (some (.park s1), _) => .stay s1
        | (some (.ok s1 _ _), i) => .done (s1.addPend t h d 1 (some i) pc 0)
        | (none, _) =>
          let f := s.fresh
          .done ((f.2.modThread t fun th => { th with
            held := th.held ++ [⟨.full, .qpush h d a cls rel b, pc, x.obj.toNat, v, 0, x.obj, f.1, .free, [], 0, [], 0⟩] }).addPend t h d 1 none pc f.1)) s

/-- Close a binding of a thread (R351): the value for dst. -/
def State.qcloseAt (s : State) (t : TRef) (pc : Dword) (b : Nat) : Obj × Nat :=
  match (s.thread? t).bind fun th => SMap.get? th.binds b with
  | none => (.ok s 0 0, 0)
  | some x =>
    let drop := fun (s : State) => s.modThread t fun th => { th with binds := SMap.del th.binds b }
    if !x.prod then (.ok (drop s) 0 0, 0)
    else
      match s.object t pc x.obj.toNat 64 .write with
      | .fail s1 c => (.fail s1 c, 0)
      | .park s1 => (.park s1, 0)
      | .ok s1 pa at' =>
        if queueBad s1 pa then (.fail s1 (causeVa cBounds x.obj.toNat pc), 0)
        else
          let n := s1.pread (pa + 0x10) 4
          let ctx := s1.ctxOf t
          let s2 := s1.pwrite ctx (pa + 0x10) (n - 1) 4 at'
          let s3 := if n == 1 then s2.pwrite ctx (pa + 13) 1 1 at' else s2
          (.ok (drop s3) pa at', n - 1)

/-- QCLOSE (R351). -/
def execQclose (h : Hdr) (d : VReg) (b : BitVec 2) (s : State) : Res :=
  runGuarded (.qclose h d b) h (fun s t =>
    let pc := s.pcOf t
    match s.qcloseAt t pc b.toNat with
    | (.fail s1 c, _) => .trap s1 c
    | (.park s1, _) => .stay s1
    | (.ok s1 _ _, n) => .done (s1.addPend t h d 1 (some n) pc 0)) s

/-! ### ROLE and MILE (R352, R353, R364) -/

/-- The VA of a thread-code offset of an image. -/
def Image.codeVa (im : Image) (off : Nat) : Dword := BitVec.ofNat 64 (sext52 (im.base + im.threadOff + off))

/-- The warp of a thread moves to a role (R352): the range, the role-warp number, and every thread at the role's entry. -/
def State.moveRole (s : State) (t : TRef) (r alloc : Nat) (entry : Dword) : State :=
  s.modBlock t.core t.slot fun b =>
    let taken := (List.range b.warps.length).filterMap fun k =>
      match b.warps[k]? with | some x => if k != t.warp && x.role == r then some x.rwarp else none | none => none
    let n := ((List.range 64).find? fun k => !taken.contains k).getD 0
    b.modWarp t.warp fun w => { w with
      role := r, rwarp := n, alloc := alloc
      threads := w.threads.map fun th => if th.st == .exited then th else { th with st := .running, wait := none, pc := entry, taken := [], waited := 0 } }

/-- ROLE (R352): a thread waits with every lane of its warp as its effective mask. -/
def execRole (h : Hdr) (r : BitVec 2) (s : State) : Res :=
  runThreads (.role h r) h true (fun s t _ =>
    match s.block? t.core t.slot with
    | none => .stay s
    | some b =>
      match s.gridOf b, s.varOf b, s.warp? t with
      | some g, some v, some w =>
        let pc := s.pcOf t
        let rows := v.rows.getD r.toNat 0
        let entry := v.entry.getD r.toNat 0xFFFFFFFF
        if entry == 0xFFFFFFFF || decide (w.rows < rows) then .trap s (causeOf cBounds r.toNat pc)
        else
          let x : Wait := ⟨.role, 2 ^ 32 - 1, pc, 0x8D, BitVec.ofNat 64 r.toNat⟩
          let s1 := s.arriveAt t x
          match s1.warp? t with
          | none => .stay s1
          | some w1 =>
            if !w1.waitOver x then .stay s1
            else
              match w1.ops.findSome? fun o => o.err.map fun c => (o.id, c) with
              | some (id, c) => .trap (s1.modBlock t.core t.slot fun b => b.clearErr id) { c with impr := true, rpc := pc }
              | none => .stay (s1.moveRole t r.toNat rows (g.img.codeVa entry))
      | _, _, _ => .stay s) s

/-- P' of a milestone: the size that the lowest arrived thread names, else the launch's SIZEP (R63, R364). -/
def Block.milePrime (b : Block) (g : Grid) (m : Nat) : Nat :=
  match b.live.findSome? fun t => (b.thread? t.warp t.lane).bind fun th => th.wait.filter fun w => th.st == .arrived && w.kind == .mile && w.mask == m with
  | some w => if 2 ^ 32 ≤ w.arg.toNat then w.arg.toNat % 2 ^ 32 else bits g.raw.toNat 191 160
  | none => bits g.raw.toNat 191 160

/-- The milestone at which every live thread of a block has arrived (R63). -/
def Block.mileAt (b : Block) : Option Nat :=
  (b.live.head?.bind fun t => (b.thread? t.warp t.lane).bind fun th => th.wait.filter fun w => th.st == .arrived && w.kind == .mile).bind
    fun w => if b.allAt .mile w.mask then some w.mask else none

/-- The milestone that a block gathers: that of its lowest arrived thread (R397). -/
def Block.mileGather (b : Block) : Option Nat :=
  b.live.findSome? fun t => (b.thread? t.warp t.lane).bind fun th => (th.wait.filter fun w => th.st == .arrived && w.kind == .mile).map Wait.mask
/-- The size that the arrived threads name, else the size in force (R168). -/
def Block.mileSize (b : Block) (m : Nat) : Nat :=
  match b.live.findSome? fun t => (b.thread? t.warp t.lane).bind fun th => th.wait.filter fun w => th.st == .arrived && w.kind == .mile && w.mask == m with
  | some w => if 2 ^ 32 ≤ w.arg.toNat then w.arg.toNat % 2 ^ 32 else b.sizep
  | none => b.sizep

/-- The check of P' when the last thread has arrived (R364). -/
def State.mileCheck (s : State) (core slot : Nat) : State :=
  match s.block? core slot with
  | none => s
  | some b =>
    match b.mileAt, s.gridOf b with
    | some m, some g =>
      let p := b.milePrime g m
      let bad := match g.img.classOf p with
        | none => true
        | some k => k != b.sclass && !g.coop && !g.img.vars.any fun v => v.cls == k && (g.img.msOf v m).isSome
      if bad then b.live.foldl (fun s t => s.deliver t (causeOf cBounds p (s.pcOf t)) false) s else s
    | _, _ => s

/-- MILE (R364). -/
def execMile (h : Hdr) (a : VReg) (sz : Bool) (id : BitVec 8) (s : State) : Res :=
  runThreads (.mile h a sz id) h true (fun s t _ =>
    match s.block? t.core t.slot, s.thread? t with
    | some b, some th =>
      match s.gridOf b, s.varOf b with
      | some g, some v =>
        if (g.img.msOf v id.toNat).isNone || !th.binds.isEmpty then .trap s (causeOf cBounds id.toNat th.pc)
        else
          let arg : Dword := if sz then BitVec.ofNat 64 (2 ^ 32 + (s.src t 0 a).toNat) else 0
          .stay ((s.arriveAt t ⟨.mile, levelMask 0 id.toNat, 0, 0x97, arg⟩).mileCheck t.core t.slot)
      | _, _ => .stay s
    | _, _ => .stay s) s

end Sys2Proof.Machine
end

