-- ==== Sys2Proof/Machine/Trail.lean ====
section
/-! DEFINITION. Trails, their reference counts and the audit log (R354-R362, R444, R445), and LAUNCH (R363). -/
namespace Sys2Proof.Machine

/-! ### Accesses in a thread's context -/

/-- Read n bytes at a virtual address for a thread at home slices, after the core's own stores there (R318); a poisoned sector faults it (R240). -/
def State.vRd (s : State) (t : TRef) (pc : Dword) (va n align : Nat) : Except Obj (State × Nat) :=
  match s.vaCheck t pc va align .read 0 with
  | .ok s1 pa _ =>
    let s2 := s1.l1Home t.core pa n
    if s2.poisoned pa n then .error (.fail (s2.ueRead pa n) (causeVa cUncorrectable va pc)) else .ok (s2, s2.pread pa n)
  | r => .error r
/-- Write n bytes at a virtual address for a thread at home slices. -/
def State.vWr (s : State) (t : TRef) (pc : Dword) (va n align v : Nat) (k : Acc) : Except Obj State :=
  match s.vaCheck t pc va align k 1 with
  | .ok s1 pa at' => .ok (s1.homeStore t pc va pa n v at')
  | r => .error r
/-- A trail header's physical address and leaf bits (R333). -/
def State.hdr (s : State) (t : TRef) (pc : Dword) (va : Nat) (k : Acc) : Except Obj (State × Nat × BitVec 10) :=
  match s.object t pc va 256 k with
  | .ok s1 pa at' => .ok (s1, pa, at')
  | r => .error r
/-- A condition of an instruction: its fault when it does not hold. -/
def State.need (s : State) (ok : Bool) (c : Cause) : Except Obj Unit := if ok then .ok () else .error (.fail s c)
/-- The effect of an instruction that is a chain of checks. -/
def Obj.eff (r : Except Obj Eff) : Eff :=
  match r with
  | .ok e => e
  | .error (.fail s c) => .trap s c
  | .error (.park s) => .stay s
  | .error (.ok s _ _) => .done s

/-- The state before an instruction that stops on a fault on its way: it has changed nothing but what reports the fault (R251, log 125). -/
def State.back (s s1 : State) : State := { s with blocks := s1.blocks, freps := s1.freps, nextId := s1.nextId, free := s1.free }
/-- The effect of a chain of checks and accesses that takes place whole or not at all (R251, R354, log 125). -/
def Obj.whole (s : State) (r : Except Obj Eff) : Eff :=
  match r with
  | .error (.fail s1 c) => .trap (s.back s1) c
  | .error (.park s1) => .stay (s.back s1)
  | r => Obj.eff r

/-! ### Reference counts and the audit log (R361, R444, R445) -/

/-- Append an audit record (R444, R445). -/
def State.audit (s : State) (addr block kind ctx token : Nat) : State :=
  let c := s.regN 0x2B8
  let next := bits c 63 32
  let lost := s.setReg 0x2B8 (BitVec.ofNat 64 (c ||| 0x20))
  if !bit c 4 then lost
  else if (next + 2 ^ 32 - s.regN 0x2A8) % 2 ^ 32 < 2 ^ (c % 16) then
    let w := addr + block <<< 64 + kind <<< 96 + ctx <<< 112 + token <<< 128 + ((next + 1) % 2 ^ 32) <<< 224
    let a := bits (s.regN 0x2B0) 47 12 * 4096 + 32 * (next % 2 ^ (c % 16))
    let s1 := s.pwrite 64 a w 32 (physAttr a)
    { s1.setReg 0x2B8 (setField (BitVec.ofNat 64 c) 63 32 (next + 1)) with outs := s1.outs ++ [.msix 0 (bits c 31 16)] }
  else lost

/-- The grid token of a thread's grid. -/
def State.tokenOf (s : State) (t : TRef) : Nat := (((s.block? t.core t.slot).bind s.gridOf).map fun g => g.token.toNat).getD 0

/-- RefInc of a block of a pool (R361). -/
def State.refInc (s : State) (t : TRef) (pc : Dword) (pool b : Nat) : Except Obj State := do
  let (s1, rc) ← s.vRd t pc (pool + 0x20) 8 8
  let (s2, c) ← s1.vRd t pc (rc + 2 * b) 2 2
  if c == 0xFFFF then pure s2
  else
    let s3 ← s2.vWr t pc (rc + 2 * b) 2 2 (c + 1) .pool
    pure (if c == 0xFFFE then s3.audit pool b 1 (s3.ctxOf t) (s3.tokenOf t) else s3)

/-- RefDec of a block of a pool (R361, R29): whether the block became free. -/
def State.refDec (s : State) (t : TRef) (pc : Dword) (pool b : Nat) : Except Obj (State × Bool) := do
  let (s1, rc) ← s.vRd t pc (pool + 0x20) 8 8
  let (s2, c) ← s1.vRd t pc (rc + 2 * b) 2 2
  if c == 0xFFFF then pure (s2, false)
  else if c == 0 then
    let s3 ← s2.vWr t pc (rc + 2 * b) 2 2 0xFFFF .pool
    pure (s3.audit pool b 2 (s3.ctxOf t) (s3.tokenOf t), false)
  else
    let s3 ← s2.vWr t pc (rc + 2 * b) 2 2 (c - 1) .pool
    if c == 1 then
      let (s4, fl) ← s3.vRd t pc (pool + 0x28) 8 8
      let (s5, nf) ← s4.vRd t pc (pool + 0x18) 8 8
      let s6 ← s5.vWr t pc (fl + 4 * nf) 4 4 b .pool
      let s7 ← s6.vWr t pc (pool + 0x18) 8 8 (nf + 1) .pool
      pure (s7, true)
    else pure (s3, false)

/-! ### Headers (R27, R354) -/

/-- CLEN. -/
def trClen (s : State) (pa : Nat) : Nat := s.pread (pa + 0x10) 8
/-- RLEN. -/
def trRlen (s : State) (pa : Nat) : Nat := s.pread (pa + 0x18) 8
/-- HWMAP. -/
def trHw (s : State) (pa : Nat) : Nat := s.pread (pa + 0x50) 32
/-- SCOPE of a header. -/
def trScope (s : State) (pa : Nat) : Scope := (Scope.ofCode (BitVec.ofNat 3 (s.pread (pa + 0x34) 1))).getD .dev
/-- A committed slot (R354). -/
def trDone (s : State) (pa j : Nat) : Bool := decide (j < trClen s pa) || (decide (j < trClen s pa + 256) && bit (trHw s pa) (j - trClen s pa))
/-- A reserved slot that is not committed. -/
def trOpen (s : State) (pa j : Nat) : Bool := decide (j < trRlen s pa) && !trDone s pa j

/-- A trail or pool declaration of the thread's image. -/
def State.declOf (s : State) (t : TRef) (d : Nat) : Option TrailE :=
  ((s.block? t.core t.slot).bind s.gridOf).bind fun g => (g.img.trails[d]?).filter fun e => e.kind == 0
/-- The grid's reservation for a pool declaration (R40). -/
def State.resvOf (s : State) (t : TRef) (pool : Nat) : Option PoolRes :=
  ((s.block? t.core t.slot).bind s.gridOf).bind fun g => g.resv.find? fun r => r.decl == pool
/-- Take the first n blocks of a reservation. -/
def State.takeResv (s : State) (t : TRef) (pool n : Nat) : State :=
  match s.block? t.core t.slot with
  | none => s
  | some b => s.modGrid b.grid fun g => { g with resv := g.resv.map fun r => if r.decl == pool then { r with blocks := r.blocks.drop n } else r }

/-- A block table's address is aligned, and every page it covers is ordinary and writable (R355 check 3). -/
def State.btabOk (s : State) (t : TRef) (pc : Dword) (va n : Nat) : Except Obj State :=
  let pages := va :: ((List.range (4 * n / 65536 + 1)).map fun k => (va / 65536 + k + 1) * 65536).filter fun a => decide (a < va + 4 * n)
  pages.foldlM (fun s a => match s.vaCheck t pc a 4 .write 1 with
    | .ok s1 _ _ => .ok s1
    | r => .error r) s

/-- Write block-table entries and make each block's count 1 (R355). -/
def State.fillBlocks (s : State) (t : TRef) (pc : Dword) (pool : Nat) : Nat → List Nat → Except Obj State
  | _, [] => .ok s
  | va, b :: bs => do
    let s1 ← s.vWr t pc va 4 4 b .write
    let (s2, rc) ← s1.vRd t pc (pool + 0x20) 8 8
    let s3 ← s2.vWr t pc (rc + 2 * b) 2 2 1 .pool
    State.fillBlocks s3 t pc pool (va + 4) bs

/-- Write all 256 bytes of a header (R27, R355, R360); the device's own bytes are free values (log 13). -/
def State.writeHdr (s : State) (t : TRef) (pc : Dword) (va pa : Nat) (at' : BitVec 10) (d : TrailE) (btab poolh parent len fork : Nat) : State :=
  let w := 1 + d.slotb <<< 32 + d.maxlen <<< 64 + len <<< 128 + len <<< 192 + btab <<< 256 + poolh <<< 320 + d.bslots <<< 384 +
    d.scope <<< 416 + fork <<< 424 + parent <<< 448 + len <<< 512 + len <<< 576
  let own := leNat ((List.range 144).map fun i => Config.freeByte (s.free + i))
  let s1 := { s with free := s.free + 144 }.release t.core ((Scope.ofCode (BitVec.ofNat 3 d.scope)).getD .dev)
  s1.homeStore t pc va pa 256 (w + own <<< 896) at'

/-- TRNEW (R355). -/
def execTrnew (h : Hdr) (d a b : VReg) (decl : BitVec 8) (s : State) : Res :=
  runGuarded (.trnew h d a b decl) h (fun s t => Obj.whole s do
    let pc := s.pcOf t
    let va := s.rp t a
    let bt := s.rp t b
    let (s1, pa, at') ← s.hdr t pc va .trail
    match s1.declOf t decl.toNat with
    | none => .error (.fail s1 (causeOf cBounds decl.toNat pc))
    | some e =>
      let n := (e.maxlen + e.bslots - 1) / e.bslots
      let s2 ← s1.btabOk t pc bt n
      s2.need (s2.pread pa 4 != 1) (causeVa cTrailState va pc)
      let r := s2.resvOf t e.pool
      let blocks := (r.map PoolRes.blocks).getD []
      s2.need (n == 0 || (r.isSome && decide (n ≤ blocks.length))) (causeVa cTrailOverrun va pc)
      let poolh := (r.map fun r => r.hdr.toNat).getD 0
      let s3 ← s2.fillBlocks t pc poolh bt (blocks.take n)
      let s4 := (s3.takeResv t e.pool n).writeHdr t pc va pa at' e bt poolh 0 0 0
      pure (.done (s4.addPend t h d 1 (some n) pc 0))) s

/-- TRRES (R356). -/
def execTrres (h : Hdr) (d a b : VReg) (s : State) : Res :=
  runGuarded (.trres h d a b) h (fun s t => Obj.eff do
    let pc := s.pcOf t
    let va := s.rp t a
    let n := (s.src t 1 b).toNat
    let (s1, pa, at') ← s.hdr t pc va .trail
    s1.need (s1.pread pa 4 == 1) (causeVa cTrailState va pc)
    let r := trRlen s1 pa
    s1.need (decide (r + n ≤ s1.pread (pa + 8) 8)) (causeVa cTrailOverrun va pc)
    pure (.done ((s1.pwrite (s1.ctxOf t) (pa + 0x18) (r + n) 8 at').addPend t h d 2 (some r) pc 0))) s

/-- TRST (R357). -/
def execTrst (h : Hdr) (a b c : VReg) (off : BitVec 12) (sz : Sz) (s : State) : Res :=
  runGuarded (.trst h a b c off sz) h (fun s t => Obj.eff do
    let pc := s.pcOf t
    let va := s.rp t a
    let j := s.rp t b
    let n := sz.bytes
    let (s1, pa, _) ← s.hdr t pc va .read
    s1.need (s1.pread pa 4 == 1) (causeVa cTrailState va pc)
    s1.need (trOpen s1 pa j) (causeVa cTrailState va pc)
    let slotb := s1.pread (pa + 4) 4
    s1.need (decide (n * (off.toNat + 1) ≤ slotb)) (causeOf cBounds (n * off.toNat) pc)
    let bs := s1.pread (pa + 0x30) 4
    let pool := s1.pread (pa + 0x28) 8
    let (s2, blk) ← s1.vRd t pc (s1.pread (pa + 0x20) 8 + 4 * (j / bs)) 4 4
    let (s3, rc) ← s2.vRd t pc (pool + 0x20) 8 8
    let (s4, cnt) ← s3.vRd t pc (rc + 2 * blk) 2 2
    s4.need (cnt == 1) (causeVa cTrailState va pc)
    let (s5, base) ← s4.vRd t pc pool 8 8
    let (s6, blkb) ← s5.vRd t pc (pool + 8) 8 8
    let w := base + blk * blkb + slotb * (j % bs) + n * off.toNat
    match s6.vaCheck t pc w n .trail 1 with
    | .ok s7 wpa at' =>
      pure (.done ((s7.homeStore t pc w wpa n (s7.srcN t 2 c sz.regs) at').watchAccess t pc w n false true))
    | r => .error r) s

/-- The trailing ones of a hole window, at most n. -/
def trailingOnes (hw : Nat) : Nat → Nat
  | 0 => 0
  | n + 1 => if bit hw 0 then 1 + trailingOnes (hw / 2) n else 0

/-- Commit slots from j while they lie in the window (R358): the state and the first slot not marked. -/
def State.commitGo (s : State) (ctx pa j : Nat) (at' : BitVec 10) : Nat → State × Nat
  | 0 => (s, j)
  | k + 1 =>
    let cl := trClen s pa
    if cl + 256 ≤ j then (s, j)
    else
      let hw := trHw s pa ||| (1 <<< (j - cl))
      let n := trailingOnes hw 256
      let s1 := ((s.pwrite ctx (pa + 0x50) (hw >>> n) 32 at').pwrite ctx (pa + 0x10) (cl + n) 8 at').pwrite ctx (pa + 0x48) (cl + n) 8 at'
      State.commitGo s1 ctx pa (j + 1) at' k

/-- Complete the TRWAITs whose target CLEN has reached (R358, R359). -/
def State.wakeTrail (s : State) (pa : Nat) : State :=
  let cl := trClen s pa
  (s.waiters fun w => w.kind == .trwait && w.mask == pa && decide (w.arg.toNat ≤ cl)).foldl (fun s t =>
    match (s.thread? t).bind Thread.wait with
    | none => s
    | some w =>
      let pc := s.pcOf t
      ((s.acquire t.core (s.ctxOf t) (trScope s pa)).wvN t (BitVec.ofNat 8 (w.opc / 256)) cl 2).adv t (pc + 8)) s

/-- TRCOMMIT (R358): beyond the hole window the commit is held with its first unmarked slot. -/
def execTrcommit (h : Hdr) (d a b c : VReg) (s : State) : Res :=
  runGuarded (.trcommit h d a b c) h (fun s t => Obj.eff do
    let pc := s.pcOf t
    let va := s.rp t a
    let j := s.rp t b
    let n := (s.src t 2 c).toNat
    let (s1, pa, at') ← s.hdr t pc va .trail
    s1.need (s1.pread pa 4 == 1) (causeVa cTrailState va pc)
    s1.need (n != 0 && decide (n ≤ 256)) (causeOf cBounds n pc)
    s1.need ((List.range n).all fun k => trOpen s1 pa (j + k)) (causeVa cTrailState va pc)
    let s2 := s1.release t.core (trScope s1 pa)
    let r := s2.commitGo (s2.ctxOf t) pa j at' n
    let s3 := r.1.wakeTrail pa
    if r.2 == j + n then pure (.done (s3.addPend t h d 2 (some (trClen s3 pa)) pc 0))
    else
      let f := s3.fresh
      pure (.done ((f.2.modThread t fun th => { th with
        held := th.held ++ [⟨.commit, .trcommit h d a b c, pc, pa, r.2, j + n, BitVec.ofNat 64 va, f.1, .free, [], 0, [], at'⟩] }).addPend t h d 2 none pc f.1))) s

/-- TRLEN (R359). -/
def execTrlen (h : Hdr) (d a : VReg) (s : State) : Res :=
  runGuarded (.trlen h d a) h (fun s t => Obj.eff do
    let pc := s.pcOf t
    let (s1, pa, _) ← s.hdr t pc (s.rp t a) .read
    let s2 := s1.acquire t.core (s1.ctxOf t) (trScope s1 pa)
    pure (.done (s2.addPend t h d 2 (some (trClen s1 pa)) pc 0))) s

/-- TRWAIT (R359). -/
def execTrwait (h : Hdr) (d a b : VReg) (s : State) : Res :=
  runGuarded (.trwait h d a b) h (fun s t => Obj.eff do
    let pc := s.pcOf t
    let va := s.rp t a
    let tgt := s.rp t b
    let (s1, pa, at') ← s.hdr t pc va .read
    let cl := trClen s1 pa
    if tgt ≤ cl then pure (.done ((s1.acquire t.core (s1.ctxOf t) (trScope s1 pa)).wvN t d cl 2))
    else
      s1.need (s1.pread pa 4 == 1) (causeVa cTrailState va pc)
      s1.need (decide (tgt ≤ s1.pread (pa + 8) 8)) (causeVa cTrailOverrun va pc)
      pure (.stay (s1.modThread t fun th => { th with
        st := .waiting, wait := some ⟨.trwait, pa, BitVec.ofNat 64 va, 0x93 + 256 * d.toNat, BitVec.ofNat 64 tgt⟩ }))) s

/-- RefInc on blocks in order, each written at the child's next entry (R360). -/
def State.shareBlocks (s : State) (t : TRef) (pc : Dword) (pool parent : Nat) : Nat → Nat → Except Obj State
  | _, 0 => .ok s
  | child, n + 1 => do
    let (s1, b) ← s.vRd t pc parent 4 4
    let s2 ← s1.vWr t pc child 4 4 b .write
    let s3 ← s2.refInc t pc pool b
    State.shareBlocks s3 t pc pool (parent + 4) (child + 4) n

/-- Copy n slots from one block to another (R360). -/
def State.copySlots (s : State) (t : TRef) (pc : Dword) (slotb src dst : Nat) : Nat → Except Obj State
  | 0 => .ok s
  | n + 1 => do
    let (s1, v) ← s.vRd t pc src slotb 1
    let s2 ← s1.vWr t pc dst slotb 1 v .trail
    State.copySlots s2 t pc slotb (src + slotb) (dst + slotb) n

/-- TRFORK (R360). -/
def execTrfork (h : Hdr) (d a b : VReg) (decl : BitVec 8) (s : State) : Res :=
  runGuarded (.trfork h d a b decl) h (fun s t => Obj.whole s do
    let pc := s.pcOf t
    let va := s.rp t a
    let l := s.rp t b
    let cva := s.rp t d
    let bt := s.rp t (d + 2)
    let (s1, pa, at') ← s.hdr t pc va .read
    s1.need (s1.pread pa 4 == 1) (causeVa cTrailState va pc)
    let (s2, cpa, cat) ← s1.hdr t pc cva .trail
    match s2.declOf t decl.toNat with
    | none => .error (.fail s2 (causeOf cBounds decl.toNat pc))
    | some e =>
      let n := (e.maxlen + e.bslots - 1) / e.bslots
      let s3 ← s2.btabOk t pc bt n
      s3.need (s3.pread cpa 4 != 1) (causeVa cTrailState cva pc)
      s3.need (decide (l ≤ trClen s3 pa)) (causeVa cTrailState va pc)
      let poolh := s3.pread (pa + 0x28) 8
      match s3.resvOf t e.pool with
      | none => .error (.fail s3 (causeVa cTrailOverrun va pc))
      | some r =>
        s3.need (r.hdr.toNat == poolh && e.slotb == s3.pread (pa + 4) 4 && e.bslots == s3.pread (pa + 0x30) 4) (causeVa cTrailState va pc)
        s3.need (decide (l ≤ e.maxlen)) (causeVa cTrailOverrun va pc)
        let f := l / e.bslots
        s3.need (decide (n - f ≤ r.blocks.length)) (causeVa cTrailOverrun va pc)
        let ptab := s3.pread (pa + 0x20) 8
        let s4 ← s3.shareBlocks t pc poolh ptab bt f
        let s5 ← s4.fillBlocks t pc poolh (bt + 4 * f) (r.blocks.take (n - f))
        let s6 := s5.takeResv t e.pool (n - f)
        let part := l % e.bslots
        if part == 0 then pure (.done (s6.writeHdr t pc cva cpa cat e bt poolh va l 1))
        else
          let (s7, src) ← s6.vRd t pc (ptab + 4 * f) 4 4
          let (s8, base) ← s7.vRd t pc poolh 8 8
          let (s9, blkb) ← s8.vRd t pc (poolh + 8) 8 8
          let s10 ← s9.copySlots t pc e.slotb (base + src * blkb) (base + r.blocks.headD 0 * blkb) part
          pure (.done (s10.writeHdr t pc cva cpa cat e bt poolh va l 1))) s

/-- RefDec on the entries of a block table in order (R362): the number of blocks freed. -/
def State.dropBlocks (s : State) (t : TRef) (pc : Dword) (pool : Nat) : Nat → Nat → Nat → Except Obj (State × Nat)
  | _, 0, k => .ok (s, k)
  | va, n + 1, k => do
    let (s1, b) ← s.vRd t pc va 4 4
    let (s2, fr) ← s1.refDec t pc pool b
    State.dropBlocks s2 t pc pool (va + 4) n (k + b2n fr)

/-- The threads that wait on a released trail, at TRWAIT or beyond the hole window, end with TRAIL_STATE (R362, R358). -/
def State.endTrail (s : State) (pa : Nat) : State :=
  let s1 := (s.waiters fun w => w.kind == .trwait && w.mask == pa).foldl (fun s t =>
    s.deliver t (causeVa cTrailState (((s.thread? t).bind Thread.wait).elim 0 fun w => w.addr.toNat) (s.pcOf t)) false) s
  let cs := s1.blocks.flatMap fun b => b.refs.filter fun t => match b.thread? t.warp t.lane with
    | some th => th.held.any fun o => o.kind == .commit && o.a == pa
    | none => false
  cs.foldl (fun s t =>
    match (s.thread? t).bind fun th => th.held.find? fun o => o.kind == .commit && o.a == pa with
    | none => s
    | some o =>
      (s.modThread t fun th => { th with
        held := th.held.filter fun x => x.tag != o.tag
        pend := th.pend.filter fun p => p.tag != o.tag }).deliver t ((causeVa cTrailState o.va.toNat o.pc).late (s.pcOf t)) false) s1

/-- TRREL (R361, R362, R444). -/
def execTrrel (h : Hdr) (d a : VReg) (s : State) : Res :=
  runGuarded (.trrel h d a) h (fun s t => Obj.whole s do
    let pc := s.pcOf t
    let va := s.rp t a
    let (s1, pa, at') ← s.hdr t pc va .trail
    s1.need (s1.pread pa 4 == 1) (causeVa cTrailState va pc)
    let s2 := s1.pwrite (s1.ctxOf t) pa 2 4 at'
    let ml := s2.pread (pa + 8) 8
    let bs := s2.pread (pa + 0x30) 4
    let (s3, n) ← s2.dropBlocks t pc (s2.pread (pa + 0x28) 8) (s2.pread (pa + 0x20) 8) ((ml + bs - 1) / bs) 0
    pure (.done ((s3.endTrail pa).addPend t h d 1 (some n) pc 0))) s

/-! ### LAUNCH (R363) -/

/-- LQBASE, LQCTL of a queue (R32). -/
def lqReg (ctx q k : Nat) : Nat := ctxReg ctx (0x1000 + 32 * q + 8 * k)
/-- A queue. -/
def State.lq (s : State) (ctx q : Nat) : LQueue :=
  (s.queues.find? fun x => x.ctx == ctx && x.q == q).getD ⟨ctx, q, 0, 0, [], [], [], false, none⟩
/-- Put a queue. -/
def State.putLq (s : State) (x : LQueue) : State :=
  { s with queues := (s.queues.filter fun y => !(y.ctx == x.ctx && y.q == x.q)) ++ [x] }
/-- The grid token of a ring index of a queue (R42). -/
def State.mkToken (s : State) (ctx q : Nat) (i : BitVec 32) : Dword :=
  BitVec.ofNat 64 (q <<< 58 + bits (s.regN (lqReg ctx q 1)) 31 24 <<< 50 + i.toNat + 1)

/-- Append a record to a device-fed queue (R37, R363): none while the ring is full, else the token. -/
def State.launchAt (s : State) (t : TRef) (pc : Dword) (raw q : Nat) : Option Obj × Nat :=
  let ctx := s.ctxOf t
  let x := s.lq ctx q
  let n := bits (s.regN (lqReg ctx q 1)) 11 8
  if 2 ^ n ≤ (x.tail - x.head).toNat then (none, 0)
  else
    match s.vaCheck t pc (s.regN (lqReg ctx q 0) + 128 * (x.tail.toNat % 2 ^ n)) 128 .write 1 with
    | .ok s1 pa at' =>
      (some (.ok ((s1.pwrite ctx pa raw 128 at').putLq { x with tail := x.tail + 1 }) pa at'), (s.mkToken ctx q x.tail).toNat)
    | r => (some r, 0)

/-- Another launch waits for room in a queue with an earlier place in the order in which launches reached it (R37). -/
def State.launchBefore (s : State) (t : TRef) (q tag : Nat) : Bool :=
  (s.blocks.filter fun b => b.ctx == s.ctxOf t).any fun b => b.warps.any fun w => w.threads.any fun th => th.held.any fun o =>
    o.kind == .full && o.hs != .parked && o.b == q && decide (o.tag < tag) && match o.i with | .launch _ _ _ _ => true | _ => false
/-- LAUNCH (R363). -/
def execLaunch (h : Hdr) (d a : VReg) (q : BitVec 6) (s : State) : Res :=
  runGuarded (.launch h d a q) h (fun s t =>
    let pc := s.pcOf t
    let va := s.rp t a
    match s.object t pc va 128 .read with
    | .fail s1 c => .trap s1 c
    | .park s1 => .stay s1
    | .ok s1 pa _ =>
      let c := s1.regN (lqReg (s1.ctxOf t) q.toNat 1)
      if !(bit c 0 && bit c 5) then .trap s1 (causeVa cProtection va pc)
      else
        let raw := s1.pread pa 128
        let s2 := s1.release t.core .dev
        match (if s2.launchBefore t q.toNat s2.nextId then (none, 0) else s2.launchAt t pc raw q.toNat) with
        | (some (.fail s3 c), _) => .trap s3 c
        | (some (.park s3), _) => .stay s3
        | (some (.ok s3 _ _), tok) => .done (s3.addPend t h d 2 (some tok) pc 0)
        | (none, _) =>
          let f := s2.fresh
          .done ((f.2.modThread t fun th => { th with
            held := th.held ++ [⟨.full, .launch h d a q, pc, raw, q.toNat, 0, BitVec.ofNat 64 va, f.1, .free, [], 0, [], 0⟩] }).addPend t h d 2 none pc f.1)) s

end Sys2Proof.Machine
end

