-- ==== Sys2Proof/Machine/Image.lean ====
section
/-! DEFINITION. The Faeth executable: what registration reads, checks and keeps (R8-R30, R69, R402), and the device's own accesses
for queues (R469). -/
namespace Sys2Proof.Machine

/-! ### Device accesses (R469) -/

/-- The outcome of a device access. -/
inductive DA
  | ok (s : State) (pa : Nat) (attr : BitVec 10)
  | held (s : State) (va : Nat)
  | bad (s : State)

/-- The 64 KiB page of an address. -/
def pageOf (va : Nat) : Nat := bits va 51 16
/-- The mark of an access that is held at an address: its page. -/
def heldOn (va : Nat) : Dword := BitVec.ofNat 64 (pageOf va * 65536)
/-- The page whose held access FBCANCEL has ended (R257): bit 0 of the mark is set. -/
def cancelOf (h : Option Dword) : Option Nat := match h with | some x => if x.getLsbD 0 then some (pageOf x.toNat) else none | none => none
/-- No access is held: there is none, or FBCANCEL has ended it. -/
def freeHold (h : Option Dword) : Bool := h.isNone || (cancelOf h).isSome

/-- Translate n bytes at va for a queue of a context through quarter 0's L2 TLB; a replayable fault is reported with SRC 5 and the
access is held, unless that of its page was cancelled (R469). -/
def State.devAcc (s : State) (ctx q : Nat) (tok : Dword) (va n : Nat) (k : Acc) (cancel : Option Nat) : DA :=
  match s.translate (.l2 0) ctx va k with
  | (s1, .ok pa a) => if k == .read && s1.poisoned pa n then .bad (s1.ueRead pa n) else .ok s1 pa a
  | (s1, .prot) => .bad s1
  | (s1, .pf r l) =>
    if cancel == some (pageOf va) then .bad s1
    else .held (s1.report ⟨ctx, BitVec.ofNat 64 va, tok, if k == .read then 5 else 6, r, l, 5, q, 0xFF, 0xFF, none⟩) va

/-- Bytes read by the device, page by page: none where the read is held or fails. -/
inductive DR
  | ok (s : State) (bs : List Byte)
  | held (s : State) (va : Nat)
  | bad (s : State)

/-- Read n bytes at va by pieces that lie in one 64 KiB page, at most k pieces. -/
def State.devRead (s : State) (ctx q : Nat) (tok : Dword) (cancel : Option Nat) : Nat → Nat → Nat → List (List Byte) → DR
  | 0, _, _, acc => .ok s acc.reverse.flatten
  | k + 1, va, n, acc =>
    if n == 0 then .ok s acc.reverse.flatten
    else
      let m := min n (65536 - va % 65536)
      match s.devAcc ctx q tok va m .read cancel with
      | .held s1 a => .held s1 a
      | .bad s1 => .bad s1
      | .ok s1 pa _ => State.devRead s1 ctx q tok cancel k (va + m) (n - m) (s1.pbytes pa m :: acc)

/-! ### Reading the image (R8-R26) -/

/-- n bytes of an image from an offset. -/
def imgN (im : List Byte) (off n : Nat) : Nat := leNat ((im.drop off).take n)
/-- A power of two in a range. -/
def pow2In (x lo hi : Nat) : Bool := decide (lo ≤ x) && decide (x ≤ hi) && 2 ^ Nat.log2 x == x
/-- Page sizes of R12. -/
def pageSize (c : Nat) : Nat := match c with | 0 => 0x10000 | 1 => 0x200000 | 2 => 0x2000000 | _ => 0x400000000

/-- Bytes of an element in memory for alignment (R22, R24): 1 where no alignment is asked. -/
def fmtAlign (f : Nat) : Nat := match f with | 0 | 6 => 4 | 1 | 2 => 2 | _ => 1

/-- A malformed tensor record (R23, R24). -/
def tensorBad (r : Nat) (bufs : Nat) : Bool :=
  let base := bits r 63 0
  let d := bits r 127 64
  let nd := bits d 11 9
  let f := bits d 15 12
  let ext := fun k => bits r (128 + 32 * k + 31) (128 + 32 * k)
  let str := fun k => bits r (320 + 32 * (k - 1) + 31) (320 + 32 * (k - 1))
  !canonical base || bits d 47 16 != 0 || bits d 7 0 != 0 || (bits d 63 48 != 0xFFFF && decide (bufs ≤ bits d 63 48)) || decide (9 < f) ||
  nd == 0 || nd == 7 || bits r 511 480 != 0 ||
  ((List.range 6).any fun k => if k < nd then ext k == 0 else ext k != 0) ||
  ((List.range 5).any fun k => decide (nd ≤ k + 1) && str (k + 1) != 0) ||
  (f == 4 && ext 0 % 4 != 0) || (f == 9 && ext 0 % 512 != 0) || base % fmtAlign f != 0

/-- Frame bytes of a block in the common save frame (R402). -/
def frameSize (nwarp nrows : Nat) (tile : Bool) : Nat :=
  roundUpTo (6912 + 1024 * nwarp + (if tile then 20480 else 0) + 4 * nrows) 4096 + 4096 * nrows

/-- Fields of PWORD (R16). -/
def pwRf (p : Nat) : Nat := bits p 29 20
/-- AXROWS. -/
def pwAx (p : Nat) : Nat := bits p 19 10
/-- SPROWS. -/
def pwSp (p : Nat) : Nat := bits p 9 0

/-- The image's tables (R12-R26). -/
def readImage (ctx handle base : Nat) (im : List Byte) : Image :=
  let f := imgN im
  let list := fun n (g : Nat → Nat → Nat) => (List.range 4).map fun k => g k n
  { ctx := ctx, handle := handle, base := base, flags := f 6 2, threadOff := f 0x10 8, threadSize := f 0x18 4, tileOff := f 0x20 8,
    tileSize := f 0x1C 4, tensOff := f 0x44 4, tensCount := f 0x48 2, nsc := f 0x50 1,
    scb := (List.range 16).map fun k => f (0x60 + 4 * k) 4
    bufs := (List.range (f 0x2C 2)).map fun k => let o := f 0x28 4 + 32 * k; ⟨f o 8, f (o + 8) 8, f (o + 16) 4, f (o + 20) 4⟩
    roles := (List.range (f 0x2E 1)).map fun k => let o := f 0x30 4 + 16 * k; (f o 1, f (o + 1) 1)
    vars := (List.range (f 0x2F 1)).map fun k =>
      let o := f 0x34 4 + 64 * k
      { rank := f o 1, cls := f (o + 1) 1, vflags := f (o + 2) 1, pword := f (o + 4) 4
        warps := list (o + 8) fun k n => f (n + k) 1
        rows := list (o + 12) fun k n => f (n + k) 1
        entry := list (o + 16) fun k n => f (n + 4 * k) 4
        tentry := f (o + 0x20) 4, msFirst := f (o + 0x24) 2, msN := f (o + 0x26) 2, lmFirst := f (o + 0x28) 2, lmN := f (o + 0x2A) 2
        acckb := f (o + 0x2C) 4, parkb := f (o + 0x30) 4 }
    mss := (List.range (f 0x3C 2)).map fun k =>
      let o := f 0x38 4 + 32 * k
      { id := f o 1, crole := f (o + 1) 1, cwarp := f (o + 2) 1, creg := f (o + 3) 1, ccnt := f (o + 4) 1, csrow := f (o + 8) 2,
        cscnt := f (o + 10) 2, resume := list (o + 16) fun k n => f (n + 4 * k) 4 }
    lmaps := (List.range (f 0x3E 2)).map fun k =>
      let o := f 0x40 4 + 16 * k
      ⟨f o 1, f (o + 1) 1, f (o + 2) 1, f (o + 3) 1, f (o + 4) 2, f (o + 6) 2, f (o + 8) 1, f (o + 9) 1⟩
    trails := (List.range (f 0x4A 2)).map fun k =>
      let o := f 0x4C 4 + 32 * k
      ⟨f o 1, f (o + 1) 1, f (o + 2) 2, f (o + 4) 4, f (o + 8) 4, f (o + 16) 8⟩ }

/-! ### Checks in the order of R9 -/

/-- The regions of an image: offset, size and alignment (R8). -/
def imgRegions (im : List Byte) : List (Nat × Nat × Nat) :=
  let f := imgN im
  [(f 0x28 4, 32 * f 0x2C 2, 8), (f 0x30 4, 16 * f 0x2E 1, 8), (f 0x34 4, 64 * f 0x2F 1, 8), (f 0x38 4, 32 * f 0x3C 2, 8),
   (f 0x40 4, 16 * f 0x3E 2, 8), (f 0x44 4, 64 * f 0x48 2, 64), (f 0x4C 4, 32 * f 0x4A 2, 8), (f 0x10 8, f 0x18 4, 8),
   (f 0x20 8, f 0x1C 4, 32), (f 0x58 4, f 0x5C 4, 256)].filter fun r => r.2.1 != 0

/-- Broken alignment, bounds or overlap of a region (R8). -/
def regionsBad (im : List Byte) : Bool :=
  let rs := imgRegions im
  let size := imgN im 0x54 4
  (rs.any fun r => r.1 % r.2.2 != 0 || decide (size < r.1 + r.2.1) || decide (r.1 < 224)) ||
  (List.range rs.length).any fun i => (rs.drop (i + 1)).any fun b =>
    match rs[i]? with | some a => decide (a.1 < b.1 + b.2.1) && decide (b.1 < a.1 + a.2.1) | none => false

/-- Header counts and fields (R10, R11). -/
def headerBad (im : List Byte) (base : Nat) : Bool :=
  let f := imgN im
  let n := f 0x50 1
  let scb := fun k => f (0x60 + 4 * k) 4
  base % 256 != 0 || decide (f 0x54 4 < 224) || decide (15 < f 6 2) || f 0x18 4 % 8 != 0 || f 0x1C 4 % 32 != 0 || decide (4096 < f 0x2C 2) ||
  f 0x2E 1 == 0 || decide (4 < f 0x2E 1) || f 0x2F 1 == 0 || decide (16 < f 0x2F 1) || decide (4096 < f 0x3C 2) || decide (1024 < f 0x3E 2) ||
  decide (1024 < f 0x48 2) || decide (256 < f 0x4A 2) || n == 0 || decide (16 < n) || f 0x51 3 != 0 || scb 0 == 0 ||
  ((List.range 16).any fun k => if k < n then decide (0 < k) && decide (scb k ≤ scb (k - 1)) else scb k != 0)

/-- Buffer entries (R12, R13). -/
def buffersBad (im : List Byte) (x : Image) : Bool :=
  (x.bufs.any fun b =>
    let st := bits b.attr 11 8
    let q := bits b.attr 15 12
    let pg := pageSize (bits b.attr 3 2)
    decide (2 ^ 16 ≤ b.attr) || decide (8 < st) || decide (1 < bits b.attr 5 4) || b.base % pg != 0 || b.size % pg != 0 || ((st != 0) != (q != 0))) ||
  ((List.range x.bufs.length).any fun k => imgN im (imgN im 0x28 4 + 32 * k + 0x18) 8 != 0) ||
  ((List.range 4).any fun q => decide (8 < (x.bufs.map fun b => if bit b.attr (12 + q) then bits b.attr 11 8 else 0).sum))

/-- Role entries (R14). -/
def rolesBad (im : List Byte) (x : Image) : Bool :=
  ((List.range x.roles.length).any fun r => !(x.roles.any fun y => y.1 == r)) || (x.roles.any fun y => decide (1 < y.2)) ||
  (List.range x.roles.length).any fun k => imgN im (imgN im 0x30 4 + 16 * k + 2) 2 != 0

/-- An offset of thread code that may be an entry (R15, R17). -/
def codeOff (x : Image) (o : Nat) : Bool := o % 8 == 0 && decide (o < x.threadSize)

/-- One variant entry's form (R15, R69, R402). The model's choice (log 114): a list that is empty must still begin within its table. -/
def variantBad (x : Image) (v : VarE) : Bool :=
  let tile := bit v.vflags 0
  let nrows := pwRf v.pword + pwAx v.pword + pwSp v.pword + 2 + v.acckb / 4
  decide (15 < v.rank) || decide (x.nsc ≤ v.cls) || decide (1 < v.vflags) || decide (2 ^ 30 ≤ v.pword) || (v.warps.any fun w => decide (32 < w)) ||
  (v.rows.any fun r => decide (8 < r)) ||
  ((List.range 4).any fun r =>
    let w := v.warps.getD r 0
    let e := v.entry.getD r 0
    if r < x.roles.length then (if w == 0 then e != 0xFFFFFFFF && !codeOff x e else !codeOff x e)
    else w != 0 || v.rows.getD r 0 != 0 || e != 0xFFFFFFFF) ||
  (tile != (v.tentry != 0xFFFFFFFF)) || (v.tentry != 0xFFFFFFFF && (v.tentry % 32 != 0 || decide (x.tileSize ≤ v.tentry))) ||
  decide (255 < v.msN) || decide (x.mss.length < v.msFirst + v.msN) || decide (64 < v.lmN) || decide (x.lmaps.length < v.lmFirst + v.lmN) ||
  decide (512 < v.acckb) || v.parkb % 4096 != 0 || decide (v.parkb < frameSize v.warps.sum nrows tile)

/-- Variant entries (R15). -/
def variantsBad (im : List Byte) (x : Image) : Bool :=
  (x.vars.any (variantBad x)) || (x.vars.map VarE.rank).eraseDups.length != x.vars.length ||
  (List.range x.vars.length).any fun k =>
    let o := imgN im 0x34 4 + 64 * k
    imgN im (o + 3) 1 != 0 || imgN im (o + 0x34) 12 != 0

/-- The milestone entries of a variant. -/
def Image.msList (x : Image) (v : VarE) : List MsE := (x.mss.drop v.msFirst).take v.msN

/-- Milestone entries' form (R17). -/
def milestonesBad (im : List Byte) (x : Image) : Bool :=
  (x.mss.any fun m => m.id == 0 || decide (64 < m.ccnt) || decide (254 < m.creg) || decide (255 < m.creg + m.ccnt) || decide (768 < m.cscnt)) ||
  ((List.range x.mss.length).any fun k =>
    let o := imgN im 0x38 4 + 32 * k
    imgN im (o + 5) 3 != 0 || imgN im (o + 12) 4 != 0) ||
  (x.mss.any fun m => m.resume.any fun e => !codeOff x e && e != 0xFFFFFFFF) ||
  x.vars.any fun v =>
    let l := x.msList v
    ((List.range (l.length - 1)).any fun k => decide ((l.map MsE.id).getD (k + 1) 0 ≤ (l.map MsE.id).getD k 0)) ||
    l.any fun m => (List.range 4).any fun r =>
      let e := m.resume.getD r 0
      !(codeOff x e || (v.warps.getD r 0 == 0 && e == 0xFFFFFFFF))

/-- Trail and pool declarations (R26). -/
def trailsBad (im : List Byte) (x : Image) : Bool :=
  (x.trails.any fun t =>
    if t.kind == 0 then
      decide (5 < t.scope) || !pow2In t.slotb 16 4096 || !pow2In t.bslots 1 (2 ^ 32) ||
      (match x.trails[t.pool]? with | some p => p.kind != 1 || t.slotb * t.bslots != p.slotb | none => true)
    else t.kind != 1 || t.scope != 0 || t.pool != 0 || !pow2In t.slotb 4096 0x200000 || t.bslots != 0) ||
  (List.range x.trails.length).any fun k =>
    let o := imgN im 0x4C 4 + 32 * k
    imgN im (o + 12) 4 != 0 || imgN im (o + 0x18) 8 != 0

/-- VARIANT_FIT (R11, R16). The model's choice (log 115): a role with WARPS = 0 and ROWS other than 0 breaks it too. -/
def variantFit (x : Image) : Bool :=
  (x.vars.all fun v =>
    let rf := ((List.range 4).map fun r => v.warps.getD r 0 * v.rows.getD r 0).sum
    v.warps.sum != 0 && decide (v.warps.sum ≤ 32) && pwRf v.pword == rf && decide (pwRf v.pword + pwAx v.pword + pwSp v.pword + 2 ≤ 768) &&
    (List.range 4).all fun r => v.warps.getD r 0 != 0 || v.rows.getD r 0 == 0) &&
  (List.range x.nsc).all fun k => x.vars.any fun v => v.cls == k

/-- The carry of a milestone entry (R18). -/
def MsE.carry (m : MsE) : List Nat := [m.crole, m.cwarp, m.creg, m.ccnt, m.csrow, m.cscnt]

/-- MILESTONE_MISMATCH does not hold (R18). -/
def milestonesAgree (x : Image) : Bool :=
  let all := x.vars.flatMap fun v => (x.msList v).map fun m => (v, m)
  (x.mss.all fun m => x.roles.any fun r => r.1 == m.crole) && all.all fun p =>
    (all.all fun q => q.2.id != p.2.id || q.2.carry == p.2.carry) && decide (p.2.csrow + p.2.cscnt ≤ pwSp p.1.pword) &&
    decide (p.2.creg + p.2.ccnt ≤ 32 * p.1.rows.getD p.2.crole 0) &&
    (p.2.ccnt == 0 || decide (p.2.cwarp < p.1.warps.getD p.2.crole 0))

/-- A layout map keeps the limits of its entry (R20). -/
def LMapE.ok (x : Image) (m : LMapE) : Bool :=
  decide (m.tile ≤ 15) && (x.roles.any fun r => r.1 == m.role) && m.t0 % 32 == 0 && m.tn % 32 == 0 && decide (32 ≤ m.tn) && decide (m.tn ≤ 1024) &&
  decide (1 ≤ m.rn) && decide (m.rn ≤ 64) && [0, 1, 2, 3, 5, 6].contains m.fmt && decide (m.mode ≤ 1)
/-- LAYOUT holds (R20): every map of the table keeps its limits, and in each variant that lists it its role's warps and rows. -/
def layoutOk (im : List Byte) (x : Image) : Bool :=
  x.lmaps.all (LMapE.ok x) && ((List.range x.lmaps.length).all fun k => imgN im (imgN im 0x40 4 + 16 * k + 10) 6 == 0) &&
  x.vars.all fun v =>
    let l := x.lmapsOf v
    (l.map LMapE.tile).eraseDups.length == l.length &&
    l.all fun m => decide (m.t0 + m.tn ≤ 32 * v.warps.getD m.role 0) && decide (m.reg0 + m.rn ≤ 32 * v.rows.getD m.role 0)

/-- The bytes that the digest covers (R10). -/
def digestBytes (im : List Byte) : List Byte :=
  let z := fun (im : List Byte) (o n : Nat) => im.take o ++ List.replicate (min n (im.length - o)) 0#8 ++ im.drop (o + n)
  (List.range (imgN im 0x2C 2)).foldl (fun m k => z m (imgN im 0x28 4 + 32 * k) 8) (z im 0xA0 64)

/-- The status of registration (R9), the read of the image apart. -/
def regStatus (im : List Byte) (ctx handle base : Nat) : Nat × Image :=
  let f := imgN im
  let x := readImage ctx handle base im
  let dig := (im.drop 0xA0).take 64
  let c :=
    if f 0 4 != Config.magic then 1
    else if f 4 2 != 1 then 2
    else if (dig.any fun b => b != 0#8) && sha3_512 (digestBytes im) != dig then 3
    else if Nat.land (f 8 8) Config.feat0 != f 8 8 then 4
    else if headerBad im base || regionsBad im || buffersBad im x || rolesBad im x || variantsBad im x || milestonesBad im x || trailsBad im x then 5
    else if !variantFit x then 6
    else if !milestonesAgree x then 7
    else if !layoutOk im x then 8
    else if x.bufs.any fun b => decide (pageSize (bits b.attr 3 2) < b.foot) then 9
    else if (List.range x.tensCount).any fun k => tensorBad (f (x.tensOff + 64 * k) 64) x.bufs.length then 10
    else 0
  (c, x)

end Sys2Proof.Machine
end

