-- ==== Sys2Proof/Machine/Control.lean ====
section
/-! DEFINITION. Control transfer, EXIT, SNOOZE, NOP (R177-R179), TRAP, BKPT and ERET (R387, R388), and the words that trap at decode
(R84, R88). -/
namespace Sys2Proof.Machine

/-- The fault of a transfer target (R76, R177). -/
def targetBad (va : Dword) (pc : Dword) : Option Cause :=
  if va.toNat % 8 != 0 then some (causeVa cMisaligned va.toNat pc)
  else if !canonical va.toNat then some (causeVa cProtection va.toNat pc)
  else none

/-- A transfer (R177): the target is checked first; the link is written when there is one, which needs v250:v251 allocated (R156). -/
def transferEff (link : Bool) (tgt : State → TRef → Dword) (s : State) (t : TRef) : Eff :=
  let pc := s.pcOf t
  let va := tgt s t
  let al := ((s.warp? t).map Warp.alloc).getD 0
  if link && decide (32 * al ≤ 251) then .trap s (causeOf cBounds 250 pc)
  else
    match targetBad va pc with
    | some c => .trap s c
    | none => .goto (if link then s.wvN t 250 (pc + 8).toNat 2 else s) va

/-- The target of a relative transfer (R81). -/
def relTarget (off : BitVec 32) (s : State) (t : TRef) : Dword := s.pcOf t + 8 * off.signExtend 64

/-- BRA. -/
def execBra (h : Hdr) (off : BitVec 32) (s : State) : Res := runGuarded (.bra h off) h (transferEff false (relTarget off)) s
/-- BRX. -/
def execBrx (h : Hdr) (a : VReg) (s : State) : Res :=
  runGuarded (.brx h a) h (transferEff false fun s t => BitVec.ofNat 64 (s.rp t a)) s
/-- CALL. -/
def execCall (h : Hdr) (off : BitVec 32) (s : State) : Res := runGuarded (.call h off) h (transferEff true (relTarget off)) s
/-- CALLX. -/
def execCallx (h : Hdr) (a : VReg) (s : State) : Res :=
  runGuarded (.callx h a) h (transferEff true fun s t => BitVec.ofNat 64 (s.rp t a)) s
/-- RET. -/
def execRet (h : Hdr) (a : VReg) (s : State) : Res :=
  runGuarded (.ret h a) h (transferEff false fun s t => BitVec.ofNat 64 (s.rp t a)) s

/-- Close the producer bindings of a thread (R351): the outcome of the first that cannot be closed. -/
def State.closeAll (s : State) (t : TRef) (pc : Dword) : List Nat → Obj
  | [] => .ok s 0 0
  | b :: bs =>
    match s.qcloseAt t pc b with
    | (.ok s1 _ _, _) => State.closeAll s1 t pc bs
    | (r, _) => r

/-- A thread has exited: its trap row is released with the warp's last handler thread (R438), and what waits for the block's
threads is looked at again (R178, R345). -/
def State.exitThread (s : State) (t : TRef) : State :=
  let g := ((s.block? t.core t.slot).map Block.grid).getD 0
  let s1 := s.modThread t fun th => { th with
    st := .exited, hmode := false, wait := none, cause := none, kept := none, taken := [], binds := [], waited := 0 }
  let s2 := s1.modWarp t fun x => if x.threads.any (fun th => th.hmode) then x else { x with hsel := none }
  ((((s2.modBlock t.core t.slot Block.urge).serveTraps t.core t.slot).gateCheck t.core t.slot).mileCheck t.core t.slot).dbarCheck g

/-- EXIT (R178, R351). -/
def execExit (h : Hdr) (s : State) : Res :=
  runGuarded (.exit h) h (fun s t =>
    let pc := s.pcOf t
    match s.closeAll t pc ((((s.thread? t).map Thread.binds).getD []).map Prod.fst) with
    | .fail s1 c => .trap s1 c
    | .park s1 => .stay s1
    | .ok s1 _ _ => .stay (s1.exitThread t)) s

/-- SNOOZE (R179). -/
def execSnooze (h : Hdr) (n : BitVec 16) (s : State) : Res :=
  runGuarded (.snooze h n) h (fun s t => .done (s.modThread t fun th => { th with snooze := if n == 0 then none else some n.toNat })) s
/-- NOP (R179). -/
def execNop (h : Hdr) (s : State) : Res := runGuarded (.nop h) h (fun s _ => .done s) s

/-- TRAP (R388). -/
def execTrap (h : Hdr) (code : BitVec 16) (s : State) : Res :=
  runGuarded (.trap h code) h (fun s t => .trap s { causeOf cTrap code.toNat (s.pcOf t) with rpc := s.pcOf t + 8 }) s
/-- BKPT (R388, R412). -/
def execBkpt (h : Hdr) (code : BitVec 16) (s : State) : Res :=
  runGuarded (.bkpt h code) h (fun s t => .trap s { causeOf cBreakpoint code.toNat (s.pcOf t) with rpc := s.pcOf t + 8 }) s

/-- The tile side of a block resumes after a tile fault (R387, R406). -/
def Block.resumeTile (b : Block) : Block :=
  let why := b.why.filter fun w => w != .tileFault
  { b with why := why, state := if why.isEmpty then .running else b.state, frozenTile := !why.isEmpty, tcause := none }

/-- RETURNING FROM AN EXCEPTION (R387). A cause of the gate frame that was delivered after RGATE returns to h1 (R393). -/
def State.eret (s : State) (t : TRef) : State :=
  match s.block? t.core t.slot, s.thread? t with
  | some b, some th =>
    let h1 := SMap.get th.h 1 0
    let h2 := (SMap.get th.h 2 0).toNat
    let h0 := SMap.get th.h 0 0
    if bit h2 31 then s.abortBy t { (th.cause.getD (causeOf 0 0 th.pc)) with code := h2 % 256, info := h0, va := h0 }
    else if bit h2 9 && b.gated then
      let g := b.gate.getD ⟨0, 0, 0, false⟩
      let s1 := s.leaveHandler t .gated g.pc
      let s2 := s1.modThread t fun th => { th with wait := some ⟨.gate, g.mask.toNat, g.pc, 0x89, BitVec.ofNat 64 g.entry⟩ }
      if s2.block? t.core t.slot |>.any (fun b => b.gateThread == some t) then s2.modBlock t.core t.slot Block.resumeTile else s2
    else
      match targetBad h1 th.pc with
      | some c => s.abortBy t c
      | none => s.leaveHandler t .running h1
  | _, _ => s

/-- ERET (R387). -/
def execEret (h : Hdr) (s : State) : Res :=
  runGuarded (.eret h) h (fun s t =>
    match s.thread? t with
    | none => .stay s
    | some th => if th.hmode then .stay (s.eret t) else .trap s (wordCause (.eret h) cPrivilege th)) s

/-- A word that every thread of the convoy meets with one cause, whose h0 is the word (R84 checks 1 and 2, R88). -/
def runWordTrap (i : Instr) (w : BitVec 64) (code : Nat) (s : State) : Res :=
  .next ((s.cur.threads.filter fun t => s.ready t i.laClass).foldl
    (fun s t => s.deliver t (causeOf code w.toNat (s.pcOf t)) false) s)
/-- A reserved opcode (R84 check 1). -/
def execReservedOpcode (w : BitVec 64) (s : State) : Res := runWordTrap (.reservedOpcode w) w cIllegalOpcode s
/-- An unimplemented extension opcode (R88). -/
def execExtEmulate (w : BitVec 64) (s : State) : Res := runWordTrap (.extEmulate w) w cExtEmulate s

end Sys2Proof.Machine
end

