-- ==== Sys2Proof/Machine/SysRegs.lean ====
section
/-! DEFINITION. System registers as SYSR, SYSRD and SYSW see them (R389, R390, R411, R427). -/
namespace Sys2Proof.Machine

/-- Keep the bits of a mask. -/
def keepBits (v : Dword) (m : Nat) : Dword := v &&& BitVec.ofNat 64 m

/-- The writable bits of a debug register of a core (R413, R416). -/
def dbgMask (n : Nat) : Nat :=
  if n < 0x210 then (if n % 2 == 0 then 0x000FFFFFFFFFFFF0 else 0x0000FFFFFFFF000F)
  else (if n % 2 == 0 then 0x000FFFFFFFFFFFE0 else 0xFFFFFFFFFFFF0703)
/-- The reset value of a debug register of a core: LCSEL is 7 (R416). -/
def dbgReset (n : Nat) : Dword := if 0x210 ≤ n && n % 2 == 1 then 0x700 else 0
/-- The writable bits of RBMASK (R411) and HMASK (R383). -/
def causeMask : Nat := 0x1FFFFFFE - 2 ^ 0x17 - 2 ^ 0x1A - 2 ^ 0x1B

/-- PCNT k of the bank that PCSEL selects (R427). -/
def Block.pcnt (b : Block) (k : Nat) : Dword :=
  let bank := b.pcsel.toNat % 8
  if bank == 7 then 0 else SMap.get b.prof (bank * 19 + k) 0

/-- RINGCF and RINGST (R228). -/
def Ring.cf (r : Ring) : Dword := if r.cfg then BitVec.ofNat 64 (2 ^ 31 + r.lsize <<< 22 + r.rbase) else 0
/-- RINGST. -/
def Ring.stw (r : Ring) : Dword := BitVec.ofNat 64 (r.tail.toNat <<< 32 + r.head.toNat)

/-- A system register of a block (R390): those of a thread apart. -/
def State.sysRead (s : State) (b : Block) (n : Nat) : Dword :=
  if n == 0x10 then BitVec.ofNat 64 Config.feat0
  else if n == 0x11 then BitVec.ofNat 64 Config.feat1
  else if n == 0x18 then BitVec.ofNat 64 (((s.gridOf b).map fun g => b2n g.nbv).getD 0)
  else if n == 0x20 then s.reg tsliceKey
  else if n == 0x30 then b.tstat
  else if n == 0x31 then b.fpte
  else if n == 0x32 then s.reg (fptKey b.ctx)
  else if 0x120 ≤ n && n ≤ 0x12F then (b.ring (n - 0x120)).cf
  else if 0x130 ≤ n && n ≤ 0x13F then (b.ring (n - 0x130)).stw
  else if 0x200 ≤ n && n ≤ 0x217 then SMap.get (s.core b.core).dbg n (dbgReset n)
  else if 0x220 ≤ n && n ≤ 0x225 then s.reg (ctxReg b.ctx (0x800 + 8 * (n - 0x200)))
  else if n == 0x240 then b.pcctl
  else if n == 0x241 then b.pcsel
  else if 0x250 ≤ n && n ≤ 0x262 then b.pcnt (n - 0x250)
  else 0

/-- Write a system register of a block whole (R390, R411, R427): read-only ones ignore it; TSTAT clears on 1 (R148). w is the value
written with the other half kept; part is the written half alone. -/
def State.sysWrite (s : State) (b : Block) (n : Nat) (w part : Dword) : State :=
  let up := fun (f : Block → Block) => s.modBlock b.core b.slot f
  if n == 0x20 then s.setReg tsliceKey (keepBits w 0xFFFFFFFF)
  else if n == 0x30 then up fun b => { b with tstat := b.tstat &&& ~~~(keepBits part 0x1F) }
  else if n == 0x31 then up fun b => { b with fpte := keepBits w 7 }
  else if n == 0x32 then s.setReg (fptKey b.ctx) (keepBits w 0xFFFFFFFF)
  else if 0x200 ≤ n && n ≤ 0x217 then
    s.modCore b.core fun c => { c with dbg := SMap.putD c.dbg n (dbgReset n) (keepBits w (dbgMask n)) }
  else if n == 0x220 then s.setReg (ctxReg b.ctx 0x900) (keepBits w 3)
  else if n == 0x221 then s.setReg (ctxReg b.ctx 0x908) (keepBits w (causeMask - 2 ^ 0x11))
  else if n == 0x240 then up fun b => { b with pcctl := keepBits w 3 }
  else if n == 0x241 then up fun b => { b with pcsel := keepBits w 7 }
  else if 0x250 ≤ n && n ≤ 0x262 then up fun b =>
    let bank := b.pcsel.toNat % 8
    if bank == 7 then b else { b with prof := SMap.putD b.prof (bank * 19 + (n - 0x250)) 0 (keepBits w 0x8000FFFFFFFFFFFF) }
  else s

/-- Half of a register. -/
def halfOf (hi : Bool) (v : Dword) : Word := if hi then v.extractLsb' 32 32 else v.extractLsb' 0 32
/-- Replace a half. -/
def putHalf (hi : Bool) (v : Dword) (x : Word) : Dword := if hi then x ++ v.extractLsb' 0 32 else v.extractLsb' 32 32 ++ x

/-- A system register as a thread reads it (R389, R390). -/
def State.sysThread (s : State) (t : TRef) (n : Nat) : Dword :=
  match s.block? t.core t.slot, s.thread? t with
  | some b, some th =>
    if 0x40 ≤ n && n ≤ 0x47 then SMap.get th.h (n - 0x40) 0
    else if 0x400 ≤ n && n ≤ 0x41F then (SMap.get th.regs (n - 0x400) 0).setWidth 64
    else s.sysRead b n
  | _, _ => 0

/-- SYSR (R389). -/
def execSysr (h : Hdr) (d : VReg) (hi : Bool) (num : BitVec 15) (s : State) : Res :=
  runGuarded (.sysr h d hi num) h (fun s t => .done (s.wv t d (halfOf hi (s.sysThread t num.toNat)))) s

/-- SYSW (R389): the privilege checks are those of R84 check 5. -/
def execSysw (h : Hdr) (a : VReg) (hi : Bool) (num : BitVec 15) (s : State) : Res :=
  runGuarded (.sysw h a hi num) h (fun s t =>
    match s.block? t.core t.slot with
    | none => .stay s
    | some b =>
      let n := num.toNat
      let x := s.src t 0 a
      let w := putHalf hi (s.sysThread t n) x
      if 0x40 ≤ n && n ≤ 0x47 then .done (s.modThread t fun th => { th with h := SMap.put th.h (n - 0x40) w })
      else if 0x400 ≤ n && n ≤ 0x41F then
        .done (if hi then s else s.modThread t fun th => { th with regs := SMap.putD th.regs (n - 0x400) 0 x })
      else .done (s.sysWrite b n w (putHalf hi 0 x))) s

end Sys2Proof.Machine
end

