-- ==== Sys2Proof/Machine/ThreadEvents.lean ====
section
/-! DEFINITION. Events of threads: the end of a snooze, takes, poll retries, stream pops, long-latency results, imprecise causes and
the forward-progress timer (R85, R179, R282, R344, R349, R381, R395). -/
namespace Sys2Proof.Machine

/-- An event that cannot happen now. -/
def notNow (row : String) : Res := .fault (.notEnabled row)

/-- Finish an effect outside the issue of an instruction. -/
def Eff.settle (e : Eff) (t : TRef) (pc : Dword) : State :=
  match e with
  | .done s => (s.adv t (pc + 8)).finishWatch t
  | .goto s p => (s.adv t p).finishWatch t
  | .stay s => s
  | .trap s c => s.deliver t c false

/-- The thread's block is resident, running and its threads are not stopped. -/
def State.movable (s : State) (t : TRef) : Bool :=
  match s.block? t.core t.slot with | some b => !b.stopped && !b.preReq | none => false

/-- A snooze has run out (R179). -/
def State.snoozeOver (s : State) (t : TRef) : Bool := match s.thread? t with | some th => th.snooze == some 0 | none => false
/-- SNOOZE_EXPIRE. -/
def execSnoozeExpire (t : TRef) (s : State) : Res :=
  if s.snoozeOver t then .next (s.modThread t fun th => { th with snooze := none }) else notNow "SNOOZE_EXPIRE"

/-- The wait of a thread, of one kind. -/
def State.waitOf (s : State) (t : TRef) (k : WKind) : Option (Thread × Wait) :=
  match s.thread? t with
  | some th => if th.st == .waiting then (th.wait.filter fun w => w.kind == k).map fun w => (th, w) else none
  | none => none

/-- QUEUE_TAKE (R349): the take of a waiting thread, once READY has passed HEAD or the queue is closed. -/
def execQueueTake (t : TRef) (s : State) : Res :=
  match s.waitOf t .queueTake with
  | none => notNow "QUEUE_TAKE"
  | some (th, w) =>
    match s.takeOne t th.pc w.addr.toNat with
    | .got s1 v => .next (s1.modThread t fun th => { th with st := .running, wait := none, taken := th.taken ++ [v] })
    | .fail s1 c => .next (s1.deliver t c false)
    | .none s1 => if (s1.waitOf t .queueTake).isSome then notNow "QUEUE_TAKE" else .next s1

/-- QUEUE_TAKE can happen. -/
def State.takeNow (s : State) (t : TRef) : Bool :=
  s.movable t && match s.waitOf t .queueTake with
    | none => false
    | some (th, w) => match s.takeOne t th.pc w.addr.toNat with
      | .none s1 => (s1.waitOf t .queueTake).isNone
      | _ => true

/-- POLL_RETRY (R344). -/
def execPollRetry (t : TRef) (s : State) : Res :=
  match s.waitOf t .poll with
  | none => notNow "POLL_RETRY"
  | some (th, w) =>
    match decodeThread (BitVec.ofNat 64 w.mask) with
    | .ok (.poll h d a b m) => .next ((s.pollRead t (.poll h d a b m) d m th.pc w.addr.toNat w.arg.toNat).settle t th.pc)
    | _ => notNow "POLL_RETRY"

/-- n stream bytes of a ring from stream position p (R222). -/
def Block.streamRead (b : Block) (r : Ring) (p : Nat) : Nat → Nat
  | 0 => 0
  | n + 1 => (Mem.get b.spad (r.rbase + p % r.size)).toNat + 256 * Block.streamRead b r (p + 1) n
/-- Arrived bytes of a ring (R223). -/
def Ring.arrived (r : Ring) : Nat := (r.tail - r.head).toNat

/-- The operation of a thread's k-th place in a ring's pop queue, with its element size. -/
def Block.popAt (b : Block) (q : Nat) (t : TRef) (k : Nat) : Option (HeldOp × Bool × Sz) :=
  (((b.thread? t.warp t.lane).bind fun th => (th.held.filter fun o => o.kind == .pop && o.a == q)[k]?)).bind fun o =>
    match o.i with
    | .spop _ _ sx sz _ => some (o, sx, sz)
    | _ => none
/-- The threads at the front of a ring's pop queue that are performed in one clk (R226, R282): those whose elements have arrived, from stream position p
with n bytes; one that finds HEAD no multiple of its element's size takes none. -/
def Block.popsFrom (b : Block) (q : Nat) : List TRef → List TRef → Nat → Nat → List TRef
  | [], _, _, _ => []
  | t :: ts, old, p, n =>
    match b.popAt q t (old.count t) with
    | none => []
    | some (_, _, sz) =>
      if p % sz.bytes != 0 then t :: Block.popsFrom b q ts (t :: old) p n
      else if sz.bytes ≤ n then t :: Block.popsFrom b q ts (t :: old) (p + sz.bytes) (n - sz.bytes)
      else []
/-- Those threads in increasing warp slot and then home lane (R226); a thread's own in the order of the queue. -/
def Block.duePops (b : Block) (q : Nat) : List TRef :=
  let r := b.ring q
  (Block.popsFrom b q r.pops [] r.head.toNat r.arrived).foldl (fun l t =>
    insertBy (fun (x y : TRef) => decide (b.wslotOf x < b.wslotOf y) || (b.wslotOf x == b.wslotOf y && decide (x.lane < y.lane))) t l) []

/-- A pending destination's value becomes known, and its operation is no longer held. -/
def Thread.known (th : Thread) (tag v : Nat) : Thread :=
  { th with held := th.held.filter fun o => o.tag != tag, pend := th.pend.map fun p => if p.tag == tag then { p with value := some v } else p }

/-- The SPOP at the front of a ring's queue ends with a fault reported by R87: its destination is discarded (R85, R282). -/
def State.spopFault (s : State) (t : TRef) (o : HeldOp) (code h0 : Nat) : State :=
  (s.modThread t fun th => { th with held := th.held.filter (fun x => x.tag != o.tag), pend := th.pend.filter fun x => x.tag != o.tag }).deliver t
    ((causeOf code h0 o.pc).late (s.pcOf t)) false

/-- The first SPOP of a thread at a ring takes its element (R282); a HEAD that is no multiple of the element's size faults it. -/
def State.popOne (s : State) (core slot ring : Nat) (t : TRef) : State :=
  match s.block? core slot with
  | none => s
  | some b =>
    match b.popAt ring t 0 with
    | none => s
    | some (o, sx, sz) =>
      let r := b.ring ring
      let p := r.head.toNat
      let leave := s.modBlock core slot fun b => b.modRing ring fun r => { r with pops := r.pops.erase t }
      if p % sz.bytes != 0 then leave.spopFault t o cMisaligned (r.rbase + p % r.size)
      else if r.arrived < sz.bytes then s
      else
        let s1 := leave.modBlock core slot fun b => b.modRing ring fun r => { r with head := r.head + BitVec.ofNat 32 sz.bytes }
        if s.spadUe b (r.rbase + p % r.size) sz.bytes then s1.spopFault t o cUncorrectable (r.rbase + p % r.size)
        else s1.modThread t fun th => th.known o.tag (extendLd sx sz.bytes (b.streamRead r p sz.bytes))
/-- SPOP_PERFORM (R226, R282): the SPOPs of one clk take their elements. -/
def execSpopPerform (core slot ring : Nat) (s : State) : Res :=
  match s.block? core slot with
  | none => notNow "SPOP_PERFORM"
  | some b =>
    if b.stopped || !(b.ring ring).cfg || (b.duePops ring).isEmpty then notNow "SPOP_PERFORM"
    else .next ((b.duePops ring).foldl (fun s t => s.popOne core slot ring t) s)
/-- SPOP_PERFORM can happen. -/
def State.spopNow (s : State) (core slot ring : Nat) : Bool :=
  match s.block? core slot with | some b => !b.stopped && (b.ring ring).cfg && !(b.duePops ring).isEmpty | none => false

/-- Try a held operation again (R286, R350, R358, R363): none while it must still wait; else the outcome and its result. -/
def State.retryHeld (s : State) (t : TRef) (o : HeldOp) : Option Obj × Nat :=
  match o.i with
  | .qpush _ _ _ _ rel _ => if s.pushBefore t o.a o.tag then (none, 0) else s.qpushAt t o.pc o.a o.b rel
  | .xkick _ _ _ _ _ _ => if s.xkickBefore t o.b o.tag then (none, 0) else s.xkickPost t o.pc o.a o.b o.c
  | .launch _ _ _ _ => if s.launchBefore t o.b o.tag then (none, 0) else s.launchAt t o.pc o.a o.b
  | .trcommit _ _ _ _ _ =>
    if trClen s o.a + 256 ≤ o.b then (none, 0)
    else
      let r := s.commitGo (s.ctxOf t) o.a o.b o.attr (o.c - o.b)
      let s1 := r.1.wakeTrail o.a
      if r.2 == o.c then (some (.ok s1 0 0), trClen s1 o.a)
      else (some (.ok (s1.modThread t fun th => { th with held := th.held.map fun x => if x.tag == o.tag then { x with b := r.2 } else x }) 1 0), 0)
  | _ => (none, 0)

/-- The first held operation of a thread that can go on. -/
def State.heldNow (s : State) (t : TRef) : Option HeldOp :=
  match s.thread? t with
  | none => none
  | some th => th.held.find? fun o => (o.kind == .full || o.kind == .commit) && o.hs != .parked && (s.retryHeld t o).1.isSome

/-- What follows a result: a watchpoint cause that waits for it, and the entry of a trap-waiting thread (R384, R413). -/
def State.afterResult (s : State) (t : TRef) : State := (s.finishWatch t).tryEnter t

/-- LONG_RESULT_WRITE (R85): the first known pending result is written; else an operation that meets an enabled condition of FPTE raises FP_TRAP, the
rest of an access is performed, or a held operation that can now go on is performed. -/
def execLongResultWrite (t : TRef) (s : State) : Res :=
  match s.thread? t with
  | none => notNow "LONG_RESULT_WRITE"
  | some th =>
    match th.pend.find? fun p => p.value.isSome with
    | some p =>
      .next ((((s.wvN t p.dst (p.value.getD 0) p.n)).modThread t fun th => { th with pend := th.pend.erase p }).afterResult t)
    | none =>
      match th.held.find? fun o => o.kind == .half || o.kind == .trap with
      | some o =>
        let gone := s.modThread t fun th => { th with held := th.held.filter (fun x => x.tag != o.tag), pend := th.pend.filter fun p => p.tag != o.tag }
        if o.kind == .trap then .next (gone.deliver t ((causeOf cFpTrap o.a o.pc).late th.pc) false) else
        .next (match s.halfDo t o with
          | (s1, some v) => s1.modThread t fun th => th.known o.tag v
          | (s1, none) => (s1.modThread t fun th => { th with held := th.held.filter (fun x => x.tag != o.tag), pend := th.pend.filter fun p => p.tag != o.tag }).deliver t
              ((causeVa cUncorrectable o.va.toNat o.pc).late th.pc) false)
      | none =>
      match s.heldNow t with
      | none => notNow "LONG_RESULT_WRITE"
      | some o =>
        match s.retryHeld t o with
        | (some (.ok s1 m _), v) => .next (if o.kind == .commit && m == 1 then s1.modThread t fun th => { th with held := th.held.map fun y => if y.tag == o.tag then { y with hs := .free } else y } else s1.modThread t fun th => th.known o.tag v)
        | (some (.park s1), _) =>
          .next (s1.modThread t fun x => { x with
            st := th.st, wait := th.wait
            held := x.held.map fun y => if y.tag == o.tag then { y with hs := .parked, va := match x.wait with | some w => if x.st == .parked then w.addr else y.va | none => y.va } else y })
        | (some (.fail s1 c), _) =>
          .next ((s1.modThread t fun th => { th with
            held := th.held.filter (fun x => x.tag != o.tag), pend := th.pend.filter fun x => x.tag != o.tag }).deliver t (c.late (s.pcOf t)) false)
        | (none, _) => notNow "LONG_RESULT_WRITE"
/-- LONG_RESULT_WRITE can happen. -/
def State.resultNow (s : State) (t : TRef) : Bool :=
  match s.thread? t with
  | none => false
  | some th => (th.pend.any fun p => p.value.isSome) || (th.held.any fun o => o.kind == .half || o.kind == .trap) || (s.movable t && (s.heldNow t).isSome)

/-- An imprecise cause can be delivered: an instruction boundary of a running thread outside handler mode (R381, R382). -/
def State.impNow (s : State) (t : TRef) : Bool :=
  s.movable t && match s.thread? t with | some th => th.st == .running && !th.hmode && !th.imps.isEmpty && th.trapq.isNone | none => false
/-- IMPRECISE_DELIVERY (R381, R382). -/
def execImpreciseDelivery (t : TRef) (s : State) : Res :=
  if !s.impNow t then notNow "IMPRECISE_DELIVERY"
  else
    match s.thread? t with
    | none => notNow "IMPRECISE_DELIVERY"
    | some th =>
      match th.imps with
      | [] => notNow "IMPRECISE_DELIVERY"
      | c :: cs => .next (((s.hitTrace t c.code).modThread t fun th => { th with imps := cs }).deliver t { c with impr := true, rpc := th.pc } false)

/-- A wait that the forward-progress timer counts (R395); a thread in handler mode is not subject to it (R386). -/
def Thread.stalls (th : Thread) : Bool :=
  match th.wait with
  | none => false
  | some w => th.st == .arrived && !th.hmode && (match w.kind with
    | .rendezvous | .gate | .mile | .role => true
    | .dbar => decide (w.mask < 256)
    | _ => false)
/-- The forward-progress timer has run out (R394, R395). -/
def State.fptOver (s : State) (b : Block) : Bool :=
  let n := (s.reg (fptKey b.ctx)).toNat
  n != 0 && decide (65536 * n ≤ b.fptimer)
/-- CONVERGENCE_STALL (R395). -/
def execConvergenceStall (core slot : Nat) (s : State) : Res :=
  match s.block? core slot with
  | none => notNow "CONVERGENCE_STALL"
  | some b =>
    if !s.fptOver b then notNow "CONVERGENCE_STALL"
    else
      match b.refs.find? fun t => (b.thread? t.warp t.lane).any Thread.stalls with
      | none => notNow "CONVERGENCE_STALL"
      | some t =>
        let m := (((s.thread? t).bind Thread.wait).map Wait.mask).getD 0
        .next ((s.modBlock core slot fun b => { b with fptimer := 0 }).deliver t (causeOf cConvergence m (s.pcOf t)) false)

end Sys2Proof.Machine
end

