-- ==== Sys2Proof/Machine/Launch.lean ====
section
/-! DEFINITION. Launch queues, tokens, admission and completion records (R32-R51, R237, R454, R458, R469). -/
namespace Sys2Proof.Machine

/-- n bytes of a record from an offset. -/
def recN (r : Nat) (off n : Nat) : Nat := (r >>> (8 * off)) % 2 ^ (8 * n)

/-! ### Queue registers (R33-R36) -/

/-- Set bits of LQCTL. -/
def State.lqSet (s : State) (ctx q : Nat) (m : Nat) : State := s.setReg (lqReg ctx q 1) (s.reg (lqReg ctx q 1) ||| BitVec.ofNat 64 m)
/-- Clear bits of LQCTL. -/
def State.lqClr (s : State) (ctx q : Nat) (m : Nat) : State := s.setReg (lqReg ctx q 1) (s.reg (lqReg ctx q 1) &&& ~~~(BitVec.ofNat 64 m))
/-- LQCTL of a queue. -/
def State.lqCtl (s : State) (ctx q : Nat) : Nat := s.regN (lqReg ctx q 1)

/-- The running and waiting grids of a queue. -/
def State.gridsOf (s : State) (ctx q : Nat) : List Grid := s.grids.filter fun g => g.ctx == ctx && g.q == q

/-- A completion record (R50), as a number. -/
def crecOf (token : Dword) (status cause nfaults handle regst fva fblock t0 t1 nblk nsw npark : Nat) : BitVec 512 :=
  BitVec.ofNat 512 (token.toNat + status <<< 64 + cause <<< 72 + nfaults <<< 80 + handle <<< 96 + regst <<< 112 + fva <<< 128 + fblock <<< 192 +
    t0 <<< 256 + t1 <<< 320 + nblk <<< 384 + nsw <<< 416 + npark <<< 448 + 1 <<< 480)

/-- Write a completion record and send its vector (R50, R469): held, or the state after it. -/
def State.writeCrec (s : State) (ctx q : Nat) (raw : Nat) (tok : Dword) (cr : BitVec 512) (cancel : Option Nat) : Option State × State :=
  let irq := fun (s : State) => if bit (recN raw 6 2) 2 then { s with outs := s.outs ++ [.msix (s.owner ctx) (recN raw 0x64 2)] } else s
  let va := recN raw 0x40 8
  if va == 0 then (some (irq s), s)
  else if va % 64 != 0 then (some (irq (s.lqSet ctx q 0x2000)), s)
  else
    match s.devAcc ctx q tok va 64 .write cancel with
    | .ok s1 pa a => (some (irq (s1.pwrite ctx pa cr.toNat 64 a)), s1)
    | .bad s1 => (some (irq (s1.lqSet ctx q 0x2000)), s1)
    | .held s1 _ => (none, s1)

/-- A record of a queue has completed: its status enters the history (R43). -/
def State.recDone (s : State) (ctx q ring status : Nat) : State :=
  let x := s.lq ctx q
  s.putLq { x with
    live := x.live.filter fun r => r != ring
    hist := (SMap.put x.hist ring status).filter fun e => decide ((x.head - 1 - BitVec.ofNat 32 e.1).toNat ≤ 1023)
    recs := x.recs.filter fun r => r.ring != ring }

/-- Change a read record. -/
def State.modRec (s : State) (ctx q ring : Nat) (f : LRec → LRec) : State :=
  let x := s.lq ctx q
  s.putLq { x with recs := x.recs.map fun r => if r.ring == ring then f r else r }

/-- Complete a read record that starts no grid (R50). -/
def State.finishRec (s : State) (ctx q : Nat) (r : LRec) (cr : BitVec 512) : State :=
  match s.writeCrec ctx q r.raw.toNat r.token cr (cancelOf r.hold) with
  | (some s1, _) => s1.recDone ctx q r.ring (bits cr.toNat 71 64)
  | (none, s1) => s1.modRec ctx q r.ring fun x => { x with fin := some cr, hold := some (heldOn (recN r.raw.toNat 0x40 8)) }

/-- Complete a record that is not run with a status. -/
def State.refuse (s : State) (ctx q : Nat) (r : LRec) (status : Nat) : State :=
  s.finishRec ctx q r (crecOf r.token status 0 0 0 0 0 0 s.time s.time 0 0 0)

/-- LQ_DOORBELL (R34, R35). -/
def execLqDoorbell (ctx q : Nat) (v : BitVec 64) (s : State) : Res :=
  let c := s.lqCtl ctx q
  let x := s.lq ctx q
  let tl := v.setWidth 32
  if !bit c 0 || bit c 5 || x.resetting || tl == x.tail then .next s
  else if decide (2 ^ 31 ≤ (tl - x.tail).toNat) || decide (2 ^ bits c 11 8 < (tl - x.head).toNat) then .next (s.lqSet ctx q 8)
  else .next (s.putLq { x with tail := tl })

/-- A write to LQCTL, RESET apart (R33): W1C flags, then PAUSE and PRIO, then LOG2SIZE, DEV and EN. -/
def State.lqCtlWrite (s : State) (ctx q : Nat) (v : Nat) : State :=
  let s1 := s.lqClr ctx q (Nat.land v 0x3018)
  let c := s1.lqCtl ctx q
  let en := bit c 0
  let w := setField (setField (BitVec.ofNat 64 c) 7 6 (bits v 7 6)) 1 1 (bits v 1 1)
  if en then s1.setReg (lqReg ctx q 1) (setField w 0 0 (v % 2))
  else
    let w1 := setField (setField w 11 8 (bits v 11 8)) 5 5 (bits v 5 5)
    if bit v 0 then
      if 4 ≤ bits v 11 8 then s1.setReg (lqReg ctx q 1) (setField w1 0 0 1)
      else s1.setReg (lqReg ctx q 1) (setField w1 4 4 1)
    else s1.setReg (lqReg ctx q 1) w1

/-- LQ_ENABLE (R33): the write that sets EN of a queue that is not enabled. -/
def execLqEnable (ctx q : Nat) (v : BitVec 64) (s : State) : Res :=
  if bit v.toNat 0 && !bit (s.lqCtl ctx q) 0 then .next (s.lqCtlWrite ctx q v.toNat) else notNow "LQ_ENABLE"

/-- Cancel a running grid (R36). -/
def State.cancelGrid (s : State) (g : Nat) : State :=
  s.modGrid g fun x => if x.phase == .running || x.phase == .staging then { x with phase := .aborting, status := if x.status == 0 then 3 else x.status } else x

/-- The grids of a queue that is reset abort once every announced record has been read and has completed (R36). -/
def State.resetGrids (s : State) (ctx q : Nat) : State :=
  let x := s.lq ctx q
  if x.resetting && x.recs.isEmpty && x.head == x.tail then (s.gridsOf ctx q).foldl (fun s g => s.cancelGrid g.id) s else s
/-- LQ_RESET (R36): records that have been read and not admitted complete as cancelled, then the queue's grids abort. -/
def execLqReset (ctx q : Nat) (s : State) : Res :=
  let x := s.lq ctx q
  if x.resetting then .next s
  else
    let s1 := (s.lqSet ctx q 4).putLq { x with resetting := true }
    let s2 := x.recs.foldl (fun s r => match r.fin with | some _ => s | none => s.refuse ctx q r 3) s1
    .next (s2.resetGrids ctx q)

/-- The reset of a queue has nothing left to do. -/
def State.resetOver (s : State) (ctx q : Nat) : Bool :=
  let x := s.lq ctx q
  x.resetting && x.recs.isEmpty && x.head == x.tail && (s.gridsOf ctx q).isEmpty
/-- LQ_RESET_COMPLETE (R36). -/
def execLqResetComplete (ctx q : Nat) (s : State) : Res :=
  if !s.resetOver ctx q then notNow "LQ_RESET_COMPLETE"
  else
    let c := BitVec.ofNat 64 (s.lqCtl ctx q)
    .next ((s.setReg (lqReg ctx q 1) (setField (setField c 31 24 (bits c.toNat 31 24 + 1)) 2 2 0)).putLq ⟨ctx, q, 0, 0, [], [], [], false, none⟩)

/-- Admission is stopped device-wide by a clock change that waits (R458), or while a checkpoint runs (R461). -/
def State.admitStop (s : State) : Bool := bit (s.regN (devReg 0x400)) 3 || s.regN (devReg 0x508) % 8 != 0

/-- A record can be read: the model reads the next one when none waits (R34, R37); during a reset, of a queue that is not enabled too (R36). -/
def State.recReadNow (s : State) (ctx q : Nat) : Bool :=
  let x := s.lq ctx q
  let c := s.lqCtl ctx q
  x.recs.isEmpty && x.head != x.tail && (x.resetting || (bit c 0 && !bit c 3)) && freeHold x.hold
/-- LAUNCH_RECORD_READ (R34, R42, R469): the record is read and given its token; during a reset it completes as cancelled. -/
def execLaunchRecordRead (ctx q : Nat) (s : State) : Res :=
  if !s.recReadNow ctx q then notNow "LAUNCH_RECORD_READ"
  else
    let x := s.lq ctx q
    let tok := s.mkToken ctx q x.head
    let ring := x.head.toNat
    let va := s.regN (lqReg ctx q 0) + 128 * (ring % 2 ^ bits (s.lqCtl ctx q) 11 8)
    match s.devAcc ctx q tok va 128 .read (cancelOf x.hold) with
    | .held s1 _ => .next (s1.putLq { x with hold := some (heldOn va) })
    | .bad s1 => .next ((((s1.lqSet ctx q 0x1000).putLq { x with head := x.head + 1, hold := none }).recDone ctx q ring 0x10).resetGrids ctx q)
    | .ok s1 pa _ =>
      let r : LRec := ⟨ring, tok, BitVec.ofNat 1024 (s1.pread pa 128), none, false, none⟩
      let s2 := s1.putLq { x with head := x.head + 1, hold := none, live := ring :: x.live, recs := [r] }
      .next (if x.resetting then (s2.refuse ctx q r 3).resetGrids ctx q else s2)

/-! ### Tokens (R42-R44) -/

/-- What a prerequisite token comes to (R43). -/
inductive Tok | bad | wait | ended (status : Nat)
  deriving DecidableEq, Repr

/-- Resolve a token for the record with ring index r of queue q (R43). -/
def State.resolve (s : State) (ctx q : Nat) (ring : Nat) (tok : Nat) : Tok :=
  let lo := bits tok 49 0
  let tq := bits tok 63 58
  let c := s.lqCtl ctx tq
  if lo == 0 || decide (2 ^ 32 < lo) || !bit c 0 then .bad
  else
    let k : BitVec 32 := BitVec.ofNat 32 (lo - 1)
    let x := s.lq ctx tq
    let cur := bits tok 57 50 == bits c 31 24
    let d := (BitVec.ofNat 32 ring - k).toNat
    let e := (x.head - k).toNat
    if tq == q && cur && (d == 0 || decide (2 ^ 31 ≤ d)) then .bad
    else if !cur then .ended 0
    else if e == 0 || decide (2 ^ 31 ≤ e) then .wait
    else if 1023 < (x.head - 1 - k).toNat then .ended 0
    else if x.live.contains k.toNat then .wait
    else .ended (SMap.get x.hist k.toNat 0)

/-- The outcome of the checks before an operation. -/
inductive Adm | wait | refuse (status : Nat) | go
  deriving DecidableEq, Repr

/-- A record's form (R38, R39, R454). -/
def State.recBad (s : State) (ctx : Nat) (r : Nat) : Bool :=
  let op := recN r 0 4
  let z := fun (o n : Nat) => recN r o n != 0
  let jb := recN r 0x60 3
  decide (3 < op) || decide (7 < recN r 6 2) || z 0x66 2 || z 0x63 1 || z 0x74 12 || recN r 0x40 8 % 64 != 0 ||
  (match op with
    | 0 =>
      let n := recN r 8 4 * recN r 12 4 * recN r 16 4
      n == 0 || decide (2 ^ 31 < n) || recN r 0x48 8 % 4096 != 0 || (jb != 0 && jb != s.jobOf ctx) || (jb == 0 && z 0x70 4)
    | 1 => z 4 2 || z 8 12 || z 0x14 4 || z 0x48 8 || z 0x50 8 || z 0x58 8 || jb != 0 || z 0x68 8 || z 0x70 4
    | 2 => z 8 12 || z 0x14 4 || z 0x18 8 || z 0x48 8 || z 0x50 8 || z 0x58 8 || jb != 0 || z 0x68 8 || z 0x70 4
    | _ => z 4 2 || z 8 12 || z 0x14 4 || z 0x18 8 || z 0x48 8 || z 0x50 8 || z 0x58 8 || jb != 0 || z 0x68 8 || z 0x70 4)

/-- The image that a record names. -/
def State.imageOf (s : State) (ctx h : Nat) : Option Image := s.images.find? fun i => i.ctx == ctx && i.handle == h

/-- Checks 1 to 4 of R47. DEP_ABORTED is given once the prerequisites are satisfied, without the wait of SERIAL: the model's choice (log 66). -/
def State.preAdmit (s : State) (ctx q : Nat) (r : LRec) : Adm :=
  let raw := r.raw.toNat
  let op := recN raw 0 4
  if s.recBad ctx raw then .refuse 0x10
  else if (op == 0 || op == 2) && (s.imageOf ctx (recN raw 4 2)).isNone then .refuse 0x12
  else
    let ts := ((List.range 4).map fun k => recN raw (0x20 + 8 * k) 8).filter fun t => t != 0
    let rs := ts.map (s.resolve ctx q r.ring)
    if rs.contains .bad then .refuse 0x11
    else if rs.contains .wait then .wait
    else if bit (recN raw 6 2) 0 && rs.any fun t => t != .ended 0 then .refuse 2
    else if bit (recN raw 6 2) 1 && (s.lq ctx q).live.any (fun k => k != r.ring && decide ((BitVec.ofNat 32 r.ring - BitVec.ofNat 32 k).toNat < 2 ^ 31)) then .wait
    else .go

/-! ### Fitting (R55, R58) -/

/-- Free resources of a core: task slots, warp slots, rows, KiB of accumulator store (R55). -/
structure Free where
  slots : Nat
  warps : Nat
  rows : Nat
  acc : Nat
  deriving DecidableEq, Repr
/-- An empty core. -/
def Free.full : Free := ⟨Config.taskSlots, Config.warpSlots, Config.poolRows, Config.accKiB⟩
/-- Rows(v) (R55). -/
def VarE.rowsAll (v : VarE) : Nat := pwRf v.pword + pwAx v.pword + pwSp v.pword + 2
/-- A block of a variant fits (R55). -/
def Free.fits (f : Free) (v : VarE) : Bool :=
  decide (1 ≤ f.slots) && decide (v.warps.sum ≤ f.warps) && decide (v.rowsAll ≤ f.rows) && decide (v.acckb ≤ f.acc)
/-- Take a variant's resources. -/
def Free.take (f : Free) (v : VarE) : Free := ⟨f.slots - 1, f.warps - v.warps.sum, f.rows - v.rowsAll, f.acc - v.acckb⟩
/-- What a resident block holds. -/
def Block.uses (b : Block) : Free := ⟨1, b.warps.length, b.rows.length, b.acckb⟩
/-- The free resources of a core, the given blocks left out. -/
def State.freeOf (s : State) (c : Nat) (out : Block → Bool) : Free :=
  (s.blocks.filter fun b => b.core == c && !out b).foldl (fun f b =>
    let u := b.uses
    ⟨f.slots - u.slots, f.warps - u.warps, f.rows - u.rows, f.acc - u.acc⟩) Free.full

/-- The cores of a context's function (R55, R450): a quad that a written mask moves takes no new block. -/
def State.coresOf (s : State) (ctx : Nat) : List Nat :=
  let f := s.owner ctx
  (List.range Config.cores).filter fun c =>
    let q := quadOf c
    let has := fun (k : Nat) => bit (s.regN (devReg (8 * k))) q
    let wants := fun (k : Nat) => if bit (s.regN (devReg (8 * k))) 32 then bit (s.regN (devReg (0x7000 + 8 * k))) q else has k
    if f == 0 then !(List.range 17).any fun k => decide (1 ≤ k) && (has k || wants k)
    else has f && wants f

/-- The variants of a class in increasing rank. -/
def Image.byRank (im : Image) (k : Nat) : List (Nat × VarE) :=
  let vs := (List.range im.vars.length).filterMap fun i => (im.vars[i]?).map fun v => (i, v)
  (List.range 16).flatMap fun r => vs.filter fun p => p.2.cls == k && p.2.rank == r

/-- The core of a quarter for a variant (R58): the fewest free rows, the lowest number on ties. -/
def pickCore (fr : List (Nat × Free)) (q : Nat) (v : VarE) : Option Nat :=
  ((fr.filter fun p => quarterOf p.1 == q && p.2.fits v).foldl (fun (m : Option (Nat × Nat)) p =>
    match m with
    | none => some (p.1, p.2.rows)
    | some (c, n) => if p.2.rows < n then some (p.1, p.2.rows) else some (c, n)) none).map Prod.fst

/-- Place over given free resources (R58): core, variant index, variant, and the next QNEXT. -/
def placeIn (fr : List (Nat × Free)) (qnext : Nat) (vs : List (Nat × VarE)) : Option (Nat × Nat × VarE × Nat) :=
  vs.findSome? fun p => (List.range 4).findSome? fun n =>
    let q := (qnext + n) % 4
    (pickCore fr q p.2).map fun c => (c, p.1, p.2, (q + 1) % 4)

/-- n blocks placed one after another over given free resources. -/
def placeAll (vs : List (Nat × VarE)) : Nat → List (Nat × Free) → Nat → Bool
  | 0, _, _ => true
  | n + 1, fr, qn =>
    match placeIn fr qn vs with
    | none => false
    | some (c, _, v, q) => placeAll vs n (fr.map fun p => if p.1 == c then (c, p.2.take v) else p) q

/-! ### Admission of a LAUNCH record (R47, R48) -/

/-- Blocks of a launch record. -/
def recBlocks (raw : Nat) : Nat := recN raw 8 4 * recN raw 12 4 * recN raw 16 4
/-- Ways claimed on the slices of a quarter by the grids that are not over (R47). -/
def State.waysHeld (s : State) (q : Nat) : List Nat := s.grids.flatMap fun g => (g.claims.filter fun c => c.2.1 == q).flatMap fun c => c.2.2.2
/-- The claims of an image by buffer and quarter (R12): buffer, quarter, ways. -/
def Image.claimList (im : Image) : List (Nat × Nat × Nat) :=
  (List.range im.bufs.length).flatMap fun k => match im.bufs[k]? with
    | some b => ((List.range 4).filter fun q => bit b.attr (12 + q)).map fun q => (k, q, bits b.attr 11 8)
    | none => []

/-- Checks 5 to 9 of R47 for a LAUNCH record. -/
def State.admitRes (s : State) (ctx : Nat) (raw : Nat) (im : Image) : Adm :=
  match im.classOf (recN raw 0x14 4) with
  | none => .refuse 0x13
  | some k =>
    let coop := bit im.flags 0
    let n := recBlocks raw
    let vs := im.byRank k
    let cs := s.coresOf ctx
    let pmax := (vs.map fun p => p.2.parkb).foldl max 0
    if coop && (decide (1024 < n) || !placeAll vs n (cs.map fun c => (c, Free.full)) 0) then .refuse 0x14
    else if coop && !placeAll vs n (cs.map fun c => (c, s.freeOf c fun _ => false)) 0 then .wait
    else if bit im.flags 1 && !coop && decide (recN raw 0x50 8 < n * pmax) then .refuse 0x15
    else if (List.range 4).any fun q => decide (8 < (s.waysHeld q).length + ((im.claimList.filter fun c => c.2.1 == q).map fun c => c.2.2).sum) then .wait
    else .go

/-- Reserve the blocks of every pool of the pool table (R40, R48): none when TRAIL_SPACE; the second part tells a held access or a
failed one. -/
inductive PoolOut
  | ok (s : State) (rs : List PoolRes)
  | space (s : State)
  | held (s : State) (va : Nat)
  | bad (s : State)

/-- Read n bytes for a queue. -/
def State.devN (s : State) (ctx q : Nat) (tok : Dword) (cancel : Option Nat) (va n : Nat) : DR := s.devRead ctx q tok cancel 3 va n []
/-- Write n bytes of a pool for a queue, all in one page. -/
def State.devW (s : State) (ctx q : Nat) (tok : Dword) (cancel : Option Nat) (va n v : Nat) : DA :=
  match s.devAcc ctx q tok va n .own cancel with
  | .ok s1 pa a => .ok (s1.pwrite ctx pa v n a) pa a
  | r => r

/-- One pool table entry after another (R40). A header whose reserved bytes are not zero (R5, R29), and a failure at the free list or NFREE, refuse the
record with BAD_RECORD; the second is the model's choice (log 117). -/
def State.reserve (s : State) (ctx q : Nat) (tok : Dword) (cancel : Option Nat) : Nat → List Nat → List PoolRes → PoolOut
  | _, [], acc => .ok s acc.reverse
  | tab, d :: ds, acc =>
    match s.devN ctx q tok cancel tab 16 with
    | .held s1 va => .held s1 va
    | .bad s1 => .bad s1
    | .ok s1 e =>
      let hdr := leNat (e.take 8)
      let res := leNat (e.drop 8)
      match s1.devN ctx q tok cancel hdr 64 with
      | .held s2 va => .held s2 va
      | .bad s2 => .bad s2
      | .ok s2 hb =>
        let nfree := leNat ((hb.drop 0x18).take 8)
        let freel := leNat ((hb.drop 0x28).take 8)
        if (hb.drop 0x30).any fun b => b != 0#8 then .bad s2
        else if nfree < res then .space s2
        else
          match s2.devRead ctx q tok cancel (4 * res / 65536 + 3) (freel + 4 * (nfree - res)) (4 * res) [] with
          | .held s3 va => .held s3 va
          | .bad s3 => .bad s3
          | .ok s3 fl =>
            match s3.devW ctx q tok cancel (hdr + 0x18) 8 (nfree - res) with
            | .held s4 va => .held s4 va
            | .bad s4 => .bad s4
            | .ok s4 _ _ =>
              State.reserve s4 ctx q tok cancel (tab + 16) ds
                (⟨d, BitVec.ofNat 64 hdr, (List.range res).map fun k => leNat ((fl.drop (4 * k)).take 4)⟩ :: acc)

/-- The pool declarations of an image in increasing index. -/
def Image.poolDecls (im : Image) : List Nat :=
  (List.range im.trails.length).filter fun k => match im.trails[k]? with | some t => t.kind == 1 | none => false

/-- The ways of a quarter that a claim takes: the highest-numbered that are free of other claims (R237). -/
def claimWays (held : List Nat) (n : Nat) : List Nat := ((List.range 12).reverse.filter fun w => !held.contains w).take n

/-- The lines in the ways that a claim takes are written back where dirty, and leave (R237). -/
def State.claimOut (s : State) (cl : List (Nat × Nat × Nat × List Nat)) : State :=
  let hit := fun (l : L2Line) => cl.any fun c => c.2.1 == l.slice / 64 && c.2.2.2.contains l.way
  { s with
    l2 := s.l2.filter fun e => !hit e.2
    l2out := s.l2out ++ ((s.l2.filter fun e => hit e.2 && (e.2.dirty != 0#8 || paHost (512 * e.1))).map fun e => (e.1, e.2, false)) }
/-- The clean bytes that the cores hold of a context's host pages with SC = 0 are not kept past the start of a grid (R329). -/
def State.l1HostDrop (s : State) (ctx : Nat) : State :=
  { s with cores := s.cores.map fun (c : Nat × CoreSt) => (c.1, { c.2 with
      l1 := c.2.l1.filter fun l => !(l.ctx == ctx && paHost (128 * l.line) && l.dirty == 0#128) }) }
/-- Start a grid from an admitted record (R39, R42, R48, R237, R329). -/
def State.startGrid (s : State) (ctx q : Nat) (r : LRec) (im : Image) (rs : List PoolRes) : State :=
  let f := s.fresh
  let x := s.lq ctx q
  let cl := im.claimList.foldl (fun (acc : List (Nat × Nat × Nat × List Nat)) c =>
    let held := s.waysHeld c.2.1 ++ (acc.filter fun a => a.2.1 == c.2.1).flatMap fun a => a.2.2.2
    acc ++ [(c.1, c.2.1, c.2.2, claimWays held c.2.2)]) []
  let g : Grid := { id := f.1, ctx := ctx, q := q, ring := r.ring, token := r.token, raw := r.raw, img := im, phase := if cl.isEmpty then .running else .staging
                    coop := bit im.flags 0, l1wb := bit im.flags 2, nbv := bit im.flags 3, prio := bits (s.lqCtl ctx q) 7 6, next := 0, qnext := 0
                    ended := 0, nblk := 0, nswitch := 0, npark := 0, nfaults := 0, first := none, fva := 0, fblock := 0, status := 0
                    tstart := s.time, cores := [], resv := rs, claims := cl, snap := none, closed := false, hold := none, jobSent := [], arrivals := 0, closes := [], pre := none
                    jobArr := (s.jobPend.filter fun a => a.1 == recN r.raw.toNat 0x60 3 && a.2.1 == recN r.raw.toNat 0x70 4 && a.1 != 0).foldl
                      (fun m a => SMap.put m (a.2.2.1 * 1024 + a.2.2.2) (SMap.get m (a.2.2.1 * 1024 + a.2.2.2) 0 + 1)) [] }
  (({ f.2 with grids := f.2.grids ++ [g], jobPend := s.jobPend.filter (fun a => !(a.1 == g.jobid && a.2.1 == g.jtag)) }.claimOut cl).hostDrop ctx |>.l1HostDrop ctx).putLq
    { x with recs := x.recs.filter fun y => y.ring != r.ring }

/-- Check 10 of R47, then the start of the grid. -/
def State.admitLast (s : State) (ctx q : Nat) (r : LRec) (im : Image) : State :=
  let tab := recN r.raw.toNat 0x58 8
  if tab == 0 then s.startGrid ctx q r im []
  else
    match s.reserve ctx q r.token (cancelOf r.hold) tab im.poolDecls [] with
    | .ok s1 rs => s1.startGrid ctx q r im rs
    | .space s1 => (State.refuse { s with freps := s1.freps } ctx q r 0x16)
    | .held s1 va => (State.modRec { s with freps := s1.freps } ctx q r.ring fun x => { x with hold := some (heldOn va), waits := true })
    | .bad s1 => (State.refuse { s with freps := s1.freps } ctx q r 0x10)

/-! ### The operations of the queue's head record (R41, R46, R47) -/

/-- The head record of a queue that may be checked now: the queue is not paused, and admission is not stopped. A record that has been read goes on
although software clears EN: the model's choice (log 118). -/
def State.headRec (s : State) (ctx q : Nat) : Option LRec :=
  let x := s.lq ctx q
  if s.admitStop || bit (s.lqCtl ctx q) 1 || x.resetting then none
  else x.recs.head?.filter fun r => freeHold r.hold

/-- Admission has served a queue. -/
def State.served (s : State) (ctx q : Nat) : State :=
  { s with rrNext := SMap.put s.rrNext (64 * ctx + bits (s.lqCtl ctx q) 7 6) ((q + 1) % 64) }

/-- Register an image (R9, R41). -/
def State.doRegister (s : State) (ctx q : Nat) (r : LRec) : State :=
  let raw := r.raw.toNat
  let base := recN raw 0x18 8
  let cancel := cancelOf r.hold
  let fail := fun (s : State) (c : Nat) => s.finishRec ctx q r (crecOf r.token 0x20 0 0 0 c 0 0 s.time s.time 0 0 0)
  match s.devN ctx q r.token cancel base 224 with
  | .held s1 va => s1.modRec ctx q r.ring fun x => { x with hold := some (heldOn va), waits := true }
  | .bad s1 => fail s1 11
  | .ok s1 hb =>
    let n := max 224 (imgN hb 0x54 4)
    match s1.devRead ctx q r.token cancel (n / 65536 + 3) base n [] with
    | .held s2 va => s2.modRec ctx q r.ring fun x => { x with hold := some (heldOn va), waits := true }
    | .bad s2 => fail s2 11
    | .ok s2 im =>
      let mine := s2.images.filter fun i => i.ctx == ctx
      let h := ((List.range 4097).find? fun k => decide (1 ≤ k) && !mine.any fun i => i.handle == k).getD 0
      let (c, x) := regStatus im ctx h base
      if c != 0 then fail s2 c
      else if 4096 ≤ mine.length then fail s2 5
      else ({ s2 with images := s2.images ++ [x] }).finishRec ctx q r (crecOf r.token 0 0 0 h 0 0 0 s.time s.time 0 0 0)

/-- The checks of a head record come out: it waits, is refused, or its operation is done. -/
def State.doRec (s : State) (ctx q : Nat) (r : LRec) : State :=
  let raw := r.raw.toNat
  let wait := s.modRec ctx q r.ring fun x => { x with waits := true }
  match r.fin with
  | some cr => s.finishRec ctx q r cr
  | none =>
    match s.preAdmit ctx q r with
    | .wait => wait
    | .refuse st => s.refuse ctx q r st
    | .go =>
      match recN raw 0 4 with
      | 0 =>
        match s.imageOf ctx (recN raw 4 2) with
        | none => s.refuse ctx q r 0x12
        | some im =>
          match s.admitRes ctx raw im with
          | .wait => wait
          | .refuse st => s.refuse ctx q r st
          | .go => s.admitLast ctx q r im
      | 1 => s.doRegister ctx q r
      | 2 =>
        let h := recN raw 4 2
        if s.grids.any fun g => g.ctx == ctx && g.img.handle == h then wait
        else State.refuse { s with images := s.images.filter fun i => !(i.ctx == ctx && i.handle == h) } ctx q r 0
      | _ => s.refuse ctx q r 0

/-- Whether the checks of a record still make it wait. -/
def State.recWaits (s : State) (ctx q : Nat) (r : LRec) : Bool :=
  let raw := r.raw.toNat
  if r.fin.isSome then false
  else
    match s.preAdmit ctx q r with
    | .wait => true
    | .refuse _ => false
    | .go =>
      match recN raw 0 4 with
      | 0 => match s.imageOf ctx (recN raw 4 2) with | none => false | some im => s.admitRes ctx raw im == .wait
      | 2 => s.grids.any fun g => g.ctx == ctx && g.img.handle == recN raw 4 2
      | _ => false

/-- The operation of a record; 0 stands for every code above 3. -/
def LRec.op (r : LRec) : Nat := let o := recN r.raw.toNat 0 4; if 3 < o then 0 else o
/-- A head record is ready to be checked (R46): for the first time, or because what it waited for has come. -/
def State.recReady (s : State) (ctx q : Nat) (r : LRec) : Bool := r.fin.isNone && (!r.waits || !s.recWaits ctx q r)
/-- Among the queues of a context whose head records are ready to be checked, the one that admission serves (R46). -/
def State.servesQ (s : State) (ctx q : Nat) : Bool :=
  let qs := (s.queues.filter fun x => x.ctx == ctx && ((s.headRec ctx x.q).any (s.recReady ctx x.q))).map LQueue.q
  let pr := fun k => bits (s.lqCtl ctx k) 7 6
  let best := qs.filter fun k => qs.all fun j => decide (pr k ≤ pr j)
  let rr := SMap.get s.rrNext (64 * ctx + pr q) 0
  best.contains q && best.all fun k => decide ((q + 64 - rr) % 64 ≤ (k + 64 - rr) % 64)
/-- The first check of a head record of an operation can happen. -/
def State.opNow (s : State) (ctx q k : Nat) : Bool :=
  ((s.headRec ctx q).any fun r => !r.waits && r.fin.isNone && r.op == k) && s.servesQ ctx q
/-- A step of admission for the head record of a queue. -/
def State.runOp (s : State) (ctx q k : Nat) (row : String) : Res :=
  if !s.opNow ctx q k then notNow row
  else match s.headRec ctx q with | some r => .next ((s.served ctx q).doRec ctx q r) | none => notNow row

/-- OP_LAUNCH (R47). -/
def execOpLaunch (ctx q : Nat) (s : State) : Res := s.runOp ctx q 0 "OP_LAUNCH"
/-- OP_REGISTER (R41). -/
def execOpRegister (ctx q : Nat) (s : State) : Res := s.runOp ctx q 1 "OP_REGISTER"
/-- OP_UNREGISTER (R41). -/
def execOpUnregister (ctx q : Nat) (s : State) : Res := s.runOp ctx q 2 "OP_UNREGISTER"
/-- OP_MARKER (R41). -/
def execOpMarker (ctx q : Nat) (s : State) : Res := s.runOp ctx q 3 "OP_MARKER"

/-- The record of a queue whose completion record is to be written now (R469). -/
def State.finRec (s : State) (ctx q : Nat) : Option LRec := (s.lq ctx q).recs.find? fun r => r.fin.isSome && freeHold r.hold
/-- A record that waited, or whose completion record is not written, can go on (R46, R47). -/
def State.retryNow (s : State) (ctx q : Nat) : Bool :=
  (s.finRec ctx q).isSome || (((s.headRec ctx q).any fun r => r.waits && s.recReady ctx q r) && s.servesQ ctx q)
/-- ADMISSION_RETRY (R36, R47, R469). -/
def execAdmissionRetry (ctx q : Nat) (s : State) : Res :=
  if !s.retryNow ctx q then notNow "ADMISSION_RETRY"
  else
    match s.finRec ctx q with
    | some r => .next ((s.doRec ctx q r).resetGrids ctx q)
    | none =>
      match s.headRec ctx q with
      | some r => .next ((s.served ctx q).doRec ctx q r)
      | none => notNow "ADMISSION_RETRY"

/-- The address of a byte of a staging way (R237), as State.staging keeps it. -/
def stageAt (slice way o : Nat) : Nat := (slice * 12 + way) * 131072 + o
/-- STAGING_CLAIM_READY (R237): the claimed ways are zero and the grid may start. -/
def execStagingClaimReady (grid : Nat) (s : State) : Res :=
  match s.grid? grid with
  | none => notNow "STAGING_CLAIM_READY"
  | some g =>
    if g.phase != .staging then notNow "STAGING_CLAIM_READY"
    else
      let m := g.claims.foldl (fun (m : Mem) c =>
        (List.range 64).foldl (fun m j => c.2.2.2.foldl (fun m w => Mem.clear m (stageAt (64 * c.2.1 + j) w 0) 131072) m) m) s.staging
      .next ({ s with staging := m }.modGrid grid fun x => { x with phase := .running })

end Sys2Proof.Machine
end

