-- ==== Sys2Proof/Machine/Frame.lean ====
section
/-! DEFINITION. The common save frame: its fields as bytes, and how a frame is read back (R397-R403, R407, R408). -/
namespace Sys2Proof.Machine

/-- A field of a record: offset, bytes, value. -/
abbrev FieldW := Nat × Nat × Nat
/-- Write the fields of a record whose first n bytes are zero elsewhere. -/
def State.ctxRec (s : State) (ctx va n : Nat) (fs : List FieldW) : State :=
  fs.foldl (fun s f => s.ctxW ctx (va + f.1) f.2.1 f.2.2 2) (s.ctxW ctx va n 0 (n / 65536 + 2))

/-! ### Rows (R56, R201, R217-R219, R401) -/

/-- Rows of a block's variant: register rows, extension rows, scratchpad rows, accumulator units. -/
structure RowSet where
  rf : Nat
  ax : Nat
  sp : Nat
  acc : Nat
  deriving DecidableEq, Repr
/-- NROWS. -/
def RowSet.total (r : RowSet) : Nat := r.rf + r.ax + r.sp + 2 + r.acc
/-- The rows of a block. -/
def Block.rowSet (b : Block) : RowSet :=
  let rf := (b.warps.map Warp.rows).sum
  ⟨rf, b.rows.length - 2 - rf - b.sprows, b.sprows, b.accu.length⟩
/-- The warp and the row within it that hold a logical register row. -/
def Block.warpRow (b : Block) (k : Nat) : Option (Nat × Nat) :=
  (List.range b.warps.length).findSome? fun w =>
    let base := ((b.warps.take w).map Warp.rows).sum
    match b.warps[w]? with | some x => if base ≤ k && k < base + x.rows then some (w, k - base) else none | none => none
/-- The byte of a row at which register r of lane l stands (R218). -/
def rowByte (ws l r : Nat) : Nat := 8 * (16 * l + (r % 32 / 2 ^^^ ws % 16)) + 4 * (r % 2)
/-- The words of a register row as fields. -/
def regRow (ws : Nat) (val : Nat → Nat → Word) : List FieldW :=
  (List.range 32).flatMap fun l => (List.range 32).map fun r => (rowByte ws l r, 4, (val l r).toNat)
/-- Row k of a block as fields of its 4,096 bytes. -/
def Block.rowFields (b : Block) (k : Nat) : List FieldW :=
  let rs := b.rowSet
  if k < rs.rf then
    match b.warpRow k with
    | some (w, j) => regRow ((b.warps[w]?.map Warp.wslot).getD 0) fun l r => ((b.thread? w l).map fun th => SMap.get th.regs (32 * j + r) 0).getD 0
    | none => []
  else if k < rs.rf + rs.ax then
    (List.range 8).map fun i => (512 * i, 512, (SMap.get b.acc (1024 + 8 * (k - rs.rf) + i) 0).toNat)
  else if k < rs.rf + rs.ax + rs.sp then [(0, 4096, Mem.readN b.spad (4096 * (k - rs.rf - rs.ax)) 4096)]
  else if k < rs.rf + rs.ax + rs.sp + 2 then
    let h := k - rs.rf - rs.ax - rs.sp
    regRow (((b.warps.find? fun w => w.hsel == some h).map Warp.wslot).getD 0) fun l r => SMap.get b.traps (h * 1024 + r * 32 + l) 0
  else (List.range 8).map fun i => (512 * i, 512, (SMap.get b.acc (8 * (k - rs.rf - rs.ax - rs.sp - 2) + i) 0).toNat)
/-- Put back row k of a block from its bytes. -/
def Block.rowPut (b : Block) (k : Nat) (v : Nat) : Block :=
  let rs := b.rowSet
  let word := fun (ws l r : Nat) => BitVec.ofNat 32 (v >>> (8 * rowByte ws l r))
  let accPut := fun (m : SMap (BitVec 4096)) (o : Nat) =>
    (List.range 8).foldl (fun m i => SMap.putD m (o + i) 0 (BitVec.ofNat 4096 (v >>> (4096 * i)))) m
  if k < rs.rf then
    match b.warpRow k with
    | some (w, j) =>
      let ws := (b.warps[w]?.map Warp.wslot).getD 0
      (List.range 32).foldl (fun b l => b.modThread w l fun th => { th with
        regs := (List.range 32).foldl (fun m r => SMap.putD m (32 * j + r) 0 (word ws l r)) th.regs }) b
    | none => b
  else if k < rs.rf + rs.ax then { b with acc := accPut b.acc (1024 + 8 * (k - rs.rf)) }
  else if k < rs.rf + rs.ax + rs.sp then { b with spad := Mem.writeN b.spad (4096 * (k - rs.rf - rs.ax)) v 4096 }
  else if k < rs.rf + rs.ax + rs.sp + 2 then
    let h := k - rs.rf - rs.ax - rs.sp
    let ws := ((b.warps.find? fun w => w.hsel == some h).map Warp.wslot).getD 0
    { b with traps := (List.range 32).foldl (fun m l => (List.range 32).foldl (fun m r => SMap.putD m (h * 1024 + r * 32 + l) 0 (word ws l r)) m) b.traps }
  else { b with acc := accPut b.acc (8 * (k - rs.rf - rs.ax - rs.sp - 2)) }

/-! ### Codes (R398) -/

/-- STATE of a thread. -/
def Thread.stCode (th : Thread) : Nat :=
  match th.st with
  | .running => if th.hmode then 7 else if (th.held.any fun o => o.kind == .access || o.hs != .free) then 2 else if (th.held.any fun o => o.kind == .pop) then 4 else 0
  | .exited => 1 | .parked => 2 | .gated => 3 | .waiting => 4 | .arrived => 5 | .trapWaiting => 6
/-- WKIND of a wait. -/
def WKind.code : WKind → Nat
  | .access => 1 | .spop => 2 | .bwait => 3 | .trwait => 4 | .poll => 5 | .queueTake => 6 | .trcommit => 7 | .rendezvous => 8 | .gate => 9
  | .mile => 10 | .dbar => 11 | .role => 12 | .waitc => 0
/-- The wait of a WKIND code; none for 0 and for a malformed code. -/
def WKind.ofCode : Nat → Option WKind
  | 1 => some .access | 2 => some .spop | 3 => some .bwait | 4 => some .trwait | 5 => some .poll | 6 => some .queueTake | 7 => some .trcommit
  | 8 => some .rendezvous | 9 => some .gate | 10 => some .mile | 11 => some .dbar | 12 => some .role | _ => none
/-- WKIND, WMASK and WAUX of a thread (R283, R358, R398, R420). -/
def Thread.waitWords (th : Thread) : Nat × Nat × Nat :=
  match th.wait with
  | some w =>
    let aux := match w.kind with | .bwait | .trwait => w.arg.toNat | .access | .poll | .queueTake => w.addr.toNat | _ => 0
    let m := match w.kind with | .rendezvous | .mile | .dbar | .gate | .role => w.mask | _ => 0
    (w.kind.code, m, aux)
  | none =>
    match th.held.head? with
    | some o => (match o.kind with | .pop => 2 | .commit => 7 | _ => 1, 0, o.va.toNat)
    | none => if th.pend.isEmpty then (0, 0, 0) else (1, 0, 0)

/-- The counters of a list of operations, as CNT (R398). -/
def cntWord (ops : List Op) : Nat :=
  countOps ops .copy + countOps ops .matrix <<< 6 + countOps ops .gather <<< 12 + countOps ops .xform <<< 18 + countOps ops .remote <<< 24

/-! ### The sections as fields (R397-R401) -/

/-- The cause in delivery when a block is saved: cause, block-warp, lane (R397). -/
def Block.frameCause (b : Block) : Option (Cause × Nat × Nat) :=
  match b.tcause with
  | some c => some (c, 0xFF, 0)
  | none => b.refs.findSome? fun t => (b.thread? t.warp t.lane).bind fun th => (th.cause.or th.trapq).map fun c => (c, t.warp, t.lane)

/-- The header (R397). -/
def frameHeader (b : Block) (g : Grid) (time reason flags wave fsize roff nrows : Nat) (tile : Bool) (v : VarE) : List FieldW :=
  let hoff := 0x100 + 1024 * b.warps.length
  let eoff := hoff + 4096
  let toff := eoff + 2560
  let rsoff := if tile then toff + 20480 else toff
  let gd := b.gated
  [(0, 2, 1), (2, 1, reason), (3, 1, flags), (4, 1, b.slot), (5, 1, b.core), (6, 2, b.ctx), (8, 8, g.token.toNat), (0x10, 4, b.lin),
   (0x14, 1, b.variant), (0x15, 1, match b.mileGather with | some m => m % 256 | none => b.milestone), (0x16, 1, b.sclass), (0x17, 1, b.warps.length), (0x18, 4, b.sizep),
   (0x1C, 4, v.pword), (0x20, 4, fsize), (0x24, 4, hoff), (0x28, 4, eoff), (0x2C, 4, if tile then toff else 0), (0x30, 4, rsoff), (0x34, 4, roff),
   (0x38, 2, nrows), (0x3A, 2, b.accu.length), (0x40, 8, b.tstat.toNat), (0x48, 8, b.fpte.toNat), (0x50, 4, wave), (0x58, 8, time)] ++
  (match b.frameCause with
    | some (c, w, l) => [(0x60, 1, c.code), (0x61, 1, w), (0x62, 1, l), (0x63, 1, b2n c.impr + 2 * b2n c.gatef),
        (0x68, 8, if c.gatef then c.tpc.toNat else c.fpc.toNat), (0x70, 8, c.va.toNat), (0x78, 8, c.info.toNat)]
    | none => []) ++
  (if gd then
    let gf := b.gate.getD ⟨0, 0, 0, false⟩
    [(0x80, 8, gf.pc.toNat), (0x88, 2, gf.mask.toNat), (0x8A, 2, gf.entry), (0x90, 8, b.tile.pc.toNat)] ++
    (List.range 6).map (fun k => (0x98 + 4 * k, 4, (SMap.get b.tile.lc k 0).toNat)) ++ [(0xB0, 1, b.tile.sg.toNat), (0xB8, 8, b.tile.sclk.toNat)]
   else [])

/-- A warp record (R398); in a gated block a thread that a wait kept from stopping at GATE is held too once the wait has ended (R345). -/
def warpRecord (gated : Bool) (k : Nat) (w : Warp) : List FieldW :=
  let o := 0x100 + 1024 * k
  let ex := (List.range w.threads.length).foldl (fun m l => match w.threads[l]? with | some th => if th.st == .exited then m + 2 ^ l else m | none => m) 0
  [(o, 1, k), (o + 1, 1, w.role), (o + 2, 1, w.rows), (o + 3, 1, w.hsel.getD 0xFF), (o + 4, 1, w.wslot), (o + 8, 4, cntWord w.ops), (o + 12, 4, ex)] ++
  (List.range w.threads.length).flatMap fun l => match w.threads[l]? with
    | none => []
    | some th =>
      let x := th.waitWords
      [(o + 0x20 + 8 * l, 8, th.pc.toNat), (o + 0x120 + l, 1, if gated && th.stCode == 0 then 3 else th.stCode), (o + 0x140 + l, 1, th.pred.toNat), (o + 0x160 + 4 * l, 4, x.2.1),
       (o + 0x1E0 + 8 * l, 8, x.2.2), (o + 0x2E0 + l, 1, x.1)]

/-- The handler section (R399). -/
def handlerSection (b : Block) (hoff : Nat) : List FieldW :=
  b.warps.flatMap fun w => match w.hsel with
    | none => []
    | some k => (List.range w.threads.length).flatMap fun l => match w.threads[l]? with
      | some th => if th.hmode then (List.range 8).map fun j => (hoff + 2048 * k + 64 * l + 8 * j, 8, (SMap.get th.h j 0).toNat) else []
      | none => []

/-- A loop-nest table as 128 bytes (R400). -/
def nestFields (o : Nat) (n : NestTab) : List FieldW :=
  ((List.range 6).flatMap fun l => match n.lv[l]? with
    | some x => [(o + 16 * l, 4, x.e.toNat), (o + 16 * l + 4, 4, x.sa.toNat), (o + 16 * l + 8, 4, x.sb.toNat), (o + 16 * l + 12, 4, x.sc.toNat)]
    | none => []) ++ [(o + 96, 8, n.msrc.toNat), (o + 104, 8, n.macc.toNat)]

/-- The engine section (R399): wd are the withdrawn passes. -/
def engineSection (b : Block) (eoff : Nat) (wd : List Pass) : List FieldW :=
  let efs := (b.ef.take 16)
  [(eoff + 10, 2, wd.length), (eoff + 12, 2, efs.length), (eoff + 14, 2, b.nlost + (b.ef.length - 16))] ++
  ((List.range efs.length).flatMap fun k => match efs[k]? with | some (c, d) => efFields (eoff + 16 + 32 * k) c d | none => []) ++
  ((List.range wd.length).flatMap fun k => match wd[k]? with | some p => nestFields (eoff + 0x210 + 128 * k) p.tab | none => []) ++
  ((List.range 133).map fun k => (eoff + 0x410 + 8 * k, 8, (SMap.get b.prof k 0).toNat)) ++
  [(eoff + 0x838, 8, b.pcctl.toNat), (eoff + 0x840, 8, b.pcsel.toNat)]

/-- DKIND and DEST of a destination in flight (R400): none for those that the list does not name (log 26). -/
def IDest.codes : IDest → Option (Nat × Nat)
  | .scalar n => some (0, n) | .vector n => some (1, n) | .port n => some (2, n) | .loop n => some (3, n) | .sgs => some (3, 6)
  | .fsel => some (3, 7) | .fmt n => some (4, n) | .level n => some (5, n) | .msrc => some (5, 6) | .macc => some (5, 7)
  | .handle n => some (6, n) | .index _ => none | .pcfg _ => none | .drop => none
/-- The destination of DKIND and DEST. -/
def IDest.ofCodes (k d : Nat) : Option IDest :=
  match k with
  | 0 => some (.scalar (d % 32)) | 1 => some (.vector (d % 16)) | 2 => some (.port (d % 4))
  | 3 => some (if d == 6 then .sgs else if d == 7 then .fsel else .loop d)
  | 4 => some (.fmt (d % 16)) | 5 => some (if d == 6 then .msrc else if d == 7 then .macc else .level d) | 6 => some (.handle (d % 16)) | _ => none

/-- A handle's entry (R400). -/
def handleFields (o : Nat) (h : Handle) : List FieldW :=
  [(o, 1, 1), (o + 1, 1, (Fmt.code h.fmt).toNat), (o + 2, 1, b2n h.lane), (o + 4, 2, h.base), (o + 6, 2, h.nrows), (o + 8, 2, h.ncols), (o + 10, 1, h.reg0)]

/-- The tile section (R400). -/
def tileSection (b : Block) (o : Nat) : List FieldW :=
  let t := b.tile
  let listed := t.infl.filterMap fun f => (IDest.codes f.dest).map fun c => (f, c)
  [(o, 4, cntWord t.ops), (o + 4, 1, t.fsel), (o + 5, 1, listed.length)] ++
  ((List.range 6).flatMap fun k => match SMap.get? t.loops k with
    | some r => [(o + 0x40 + 16 * k, 4, r.passes), (o + 0x44 + 16 * k, 1, r.stages), (o + 0x45 + 16 * k, 1, r.saved.toNat), (o + 0x46 + 16 * k, 1, b2n r.active)]
    | none => []) ++
  ((List.range 16).map fun k => (o + 0xA0 + 2 * k, 2, (SMap.get t.ftab k 0).toNat)) ++
  ((List.range 32).map fun k => (o + 0x100 + 8 * k, 8, (SMap.get t.s k 0).toNat)) ++
  ((List.range 4).flatMap fun k => match SMap.get? t.ports k with
    | some p => [(o + 0x200 + 128 * k, 64, p.desc.toNat), (o + 0x240 + 128 * k, 4, p.next), (o + 0x244 + 128 * k, 1, 1)]
    | none => []) ++
  ((List.range 16).flatMap fun k =>
    let r := b.ring k
    [(o + 0x400 + 16 * k, 4, r.cf.toNat % 2 ^ 32), (o + 0x404 + 16 * k, 4, r.head.toNat), (o + 0x408 + 16 * k, 4, r.tail.toNat), (o + 0x40C + 16 * k, 4, r.resv.toNat)]) ++
  nestFields (o + 0x500) t.nest ++
  ((List.range 16).flatMap fun k => match SMap.get? t.handles k with | some h => handleFields (o + 0x580 + 16 * k) h | none => []) ++
  ((List.range 16).map fun k => (o + 0x800 + 256 * k, 256, (SMap.get t.w k 0).toNat)) ++
  ((List.range 4).map fun k => (o + 0x1800 + 256 * k, 256, (SMap.get t.ix k 0).toNat)) ++
  ((List.range listed.length).flatMap fun k => match listed[k]? with
    | some (f, c) => let e := o + 0x1C00 + 272 * k
      [(e, 1, f.unit), (e + 1, 1, c.1), (e + 2, 1, c.2), (e + 3, 1, f.rem), (e + 4, 1, f.tst.toNat), (e + 8, 264, if f.unit == 4 then 0 else f.val)]
    | none => [])

/-- The row-state array (R401): refs tells for each entry whether it is a reference to a core's row or unit. -/
def rowStates (rsoff n : Nat) (refs : List (Nat × Nat × Nat)) : List FieldW :=
  (List.range n).map fun k => match refs.find? fun r => r.1 == k with
    | some r => (rsoff + 4 * k, 4, r.2.1 <<< 10 + r.2.2)
    | none => (rsoff + 4 * k, 4, 2 ^ 31)

/-- References to every row and accumulator unit of a resident block (R401). -/
def Block.allRefs (b : Block) : List (Nat × Nat × Nat) :=
  (List.range b.rows.length).map (fun k => (k, b.core, b.rows.getD k 0)) ++
  (List.range b.accu.length).map fun k => (b.rows.length + k, b.core, b.accu.getD k 0)

/-- Offsets of a frame: RSOFF, ROFF, FSIZE (R401, R402). -/
def frameOffs (nwarp nrows : Nat) (tile : Bool) : Nat × Nat × Nat :=
  let rs := 0x100 + 1024 * nwarp + 4096 + 2560 + (if tile then 20480 else 0)
  (rs, roundUpTo (rs + 4 * nrows) 4096, frameSize nwarp nrows tile)

/-- A thread that only a remote result holds is recorded with the remote address (R420). -/
def State.remoteWaits (s : State) (k : Nat) (w : Warp) : List FieldW :=
  if s.remOut.isEmpty then []
  else (List.range w.threads.length).flatMap fun l => match w.threads[l]? with
    | some th =>
      if th.wait.isSome || !th.held.isEmpty then []
      else (th.pend.findSome? fun p => s.remOut.find? fun o => o.pend && o.tag == p.tag).toList.map fun o => (0x100 + 1024 * k + 0x1E0 + 8 * l, 8, o.va.toNat)
    | none => []
/-- The fields of a frame before its rows; the offset of the rows (R397-R401). -/
def State.frameFields (s : State) (b : Block) (g : Grid) (reason flags wave : Nat) (refs : List (Nat × Nat × Nat)) (wd : List Pass) : List FieldW × Nat :=
  match g.img.vars[b.variant]? with
  | none => ([], 0)
  | some v =>
    let tile := bit v.vflags 0
    let n := b.rowSet.total
    let (rs, ro, fs) := frameOffs b.warps.length n tile
    let hoff := 0x100 + 1024 * b.warps.length
    (frameHeader b g s.time reason flags wave fs ro n tile v ++
      ((List.range b.warps.length).flatMap fun k => match b.warps[k]? with | some w => warpRecord b.gated k w ++ s.remoteWaits k w | none => []) ++
      handlerSection b hoff ++ engineSection b (hoff + 4096) wd ++ (if tile then tileSection b (hoff + 6656) else []) ++ rowStates rs n refs, ro)
/-- The 8-byte words of row k of a block's frame that are uncorrectable (R240). -/
def State.rowBad (s : State) (b : Block) (k : Nat) : List Nat :=
  let n := b.rows.length
  if k < n then
    if s.poolBad.isEmpty then []
    else let base := (b.core * 768 + b.rows.getD k 0) * 512; (List.range 512).filter fun w => s.poolBad.contains (base + w)
  else if s.accBad.isEmpty then []
  else (List.range 512).filter fun w => s.accBad.contains (b.core * 1024 + 8 * b.accu.getD (k - n) 0 + w / 64)
/-- The sectors of words of a row at an address become poisoned: what copies an uncorrectable word copies that (R240). -/
def State.poisonWords (s : State) (ctx va : Nat) (ws : List Nat) : State :=
  ws.foldl (fun s w => match s.translate (.l2 0) ctx (va + 8 * w) .write with
    | (s1, .ok pa _) => if s1.poison.contains (pa / 64) then s1 else { s1 with poison := s1.poison ++ [pa / 64] }
    | (s1, _) => s1) s
/-- Write row k of a block at an address (R397, R401). -/
def State.writeRow (s : State) (b : Block) (va k : Nat) : State :=
  (s.ctxRec b.ctx va 4096 (b.rowFields k)).poisonWords b.ctx va (s.rowBad b k)
/-- The words of a row that lies inline at an address and reads as poisoned (R240). -/
def State.inlineBad (s : State) (ctx va : Nat) : List Nat :=
  if s.poison.isEmpty then []
  else (List.range 512).filter fun w => match s.translate (.l2 0) ctx (va + 8 * w) .read with
    | (_, .ok pa _) => s.poison.contains (pa / 64)
    | _ => false

/-- Write a frame at a virtual address: with references, or with every row inline (R397-R402). -/
def State.writeFrame (s : State) (b : Block) (g : Grid) (va reason flags wave : Nat) (refs : List (Nat × Nat × Nat)) (wd : List Pass) : State :=
  if g.img.vars[b.variant]?.isNone then s
  else
    let (fields, ro) := s.frameFields b g reason flags wave refs wd
    ((List.range b.rowSet.total).filter fun k => !refs.any fun r => r.1 == k).foldl (fun s k =>
      s.writeRow b (va + ro + 4096 * k) k) (s.ctxRec b.ctx va ro fields)
/-- A frame with every row inline, as bytes (R429). -/
def State.frameBytes (s : State) (b : Block) (g : Grid) (reason flags wave : Nat) : List Byte :=
  let (fields, ro) := s.frameFields b g reason flags wave [] []
  let put := fun (o : Nat) (m : Mem) (fs : List FieldW) => fs.foldl (fun m f => Mem.writeN m (o + f.1) f.2.2 f.2.1) m
  Mem.bytes ((List.range b.rowSet.total).foldl (fun m k => put (ro + 4096 * k) m (b.rowFields k)) (put 0 [] fields)) 0 (ro + 4096 * b.rowSet.total)

/-! ### Reading a frame back (R407, R408) -/

/-- A frame that restore refuses (R407). -/
def State.frameBad (s : State) (b : Block) (g : Grid) (va : Nat) : Bool :=
  let rd := fun (o n : Nat) => s.ctxR b.ctx (va + o) n
  match g.img.vars[b.variant]? with
  | none => true
  | some v =>
    rd 0 2 != 1 || rd 6 2 != b.ctx || rd 8 8 != g.token.toNat || rd 0x10 4 != b.lin || rd 0x14 1 != b.variant || rd 0x1C 4 != v.pword ||
    (List.range b.warps.length).any fun k => (List.range 32).any fun l =>
      decide (7 < rd (0x100 + 1024 * k + 0x120 + l) 1) || decide (12 < rd (0x100 + 1024 * k + 0x2E0 + l) 1)

/-- A thread with an edited STATE, WKIND or WMASK (R408). -/
def Thread.edit (th : Thread) (st wk wm : Nat) : Thread :=
  let th1 := if st == th.stCode then th else
    { th with
      hmode := st == 7
      st := match st with | 1 => .exited | 2 => .parked | 3 => .gated | 4 => .waiting | 5 => .arrived | 6 => .trapWaiting | _ => .running
      wait := if st == 0 || st == 1 || st == 7 then none else th.wait }
  let x := th.waitWords
  if wk == x.1 && wm == x.2.1 then th1
  else { th1 with wait := (WKind.ofCode wk).map fun k =>
    match th.wait with | some w => { w with kind := k, mask := wm } | none => ⟨k, wm, th.pc, 0, 0⟩ }

/-- Read the warp records back (R407, R408). -/
def Block.readWarps (b : Block) (rd : Nat → Nat → Nat) : Block :=
  b.refs.foldl (fun b t => b.modThread t.warp t.lane fun th =>
    let o := 0x100 + 1024 * t.warp
    let th1 := th.edit (rd (o + 0x120 + t.lane) 1) (rd (o + 0x2E0 + t.lane) 1) (rd (o + 0x160 + 4 * t.lane) 4)
    { th1 with pc := BitVec.ofNat 64 (rd (o + 0x20 + 8 * t.lane) 8), pred := BitVec.ofNat 7 (rd (o + 0x140 + t.lane) 1) }) b

/-- Read a loop-nest table (R400). -/
def readNest (rd : Nat → Nat → Nat) (o : Nat) : NestTab :=
  ⟨(List.range 6).map fun l => ⟨BitVec.ofNat 16 (rd (o + 16 * l) 4), BitVec.ofNat 32 (rd (o + 16 * l + 4) 4), BitVec.ofNat 32 (rd (o + 16 * l + 8) 4),
    BitVec.ofNat 32 (rd (o + 16 * l + 12) 4)⟩, BitVec.ofNat 33 (rd (o + 96) 8), BitVec.ofNat 33 (rd (o + 104) 8)⟩

/-- A sparse map from a function of its first n keys. -/
def tabulate {α : Type} [DecidableEq α] (n : Nat) (d : α) (f : Nat → α) : SMap α :=
  ((List.range n).map fun k => (k, f k)).filter fun p => p.2 ≠ d

/-- Read the tile section and the schedule cycle back (R408); r0: the rings as they were saved, so that what the frame still says of a
ring does not undo what commands did since. -/
def Block.readTile (b : Block) (r0 : SMap Ring) (rd : Nat → Nat → Nat) (o : Nat) : Block :=
  let t := b.tile
  let rest := t.infl.filter fun f => (IDest.codes f.dest).isNone
  let infl := (List.range (min 48 (rd (o + 5) 1))).filterMap fun k =>
    let e := o + 0x1C00 + 272 * k
    (IDest.ofCodes (rd (e + 1) 1) (rd (e + 2) 1)).map fun d =>
      let iss := ((((t.infl.filter fun f => (IDest.codes f.dest).isSome)[k]?).map InFlight.iss)).getD 0
      let old := t.infl.find? fun f => f.unit == 4 && f.dest == d
      ({ unit := rd e 1, dest := d, rem := rd (e + 3) 1, tst := BitVec.ofNat 5 (rd (e + 4) 1),
         val := if rd e 1 == 4 then (old.map InFlight.val).getD 0 else rd (e + 8) 264, iss := iss } : InFlight)
  { b with
    tile := { t with
      s := tabulate 32 0 fun k => BitVec.ofNat 64 (rd (o + 0x100 + 8 * k) 8)
      loops := (List.range 6).filterMap fun k =>
        let e := o + 0x40 + 16 * k
        if rd e 4 == 0 && rd (e + 4) 1 == 0 && rd (e + 6) 1 == 0 then none
        else some (k, ⟨rd e 4, rd (e + 4) 1, BitVec.ofNat 8 (rd (e + 5) 1), bit (rd (e + 6) 1) 0⟩)
      w := tabulate 16 0 fun k => BitVec.ofNat 2048 (rd (o + 0x800 + 256 * k) 256)
      ix := tabulate 4 0 fun k => BitVec.ofNat 2048 (rd (o + 0x1800 + 256 * k) 256)
      ports := (List.range 4).filterMap fun k =>
        let e := o + 0x200 + 128 * k
        if bit (rd (e + 68) 1) 0 then some (k, ⟨BitVec.ofNat 512 (rd e 64), rd (e + 64) 4, ((SMap.get? t.ports k).map Port.arrive).getD 0⟩) else none
      ftab := tabulate 16 0 fun k => BitVec.ofNat 10 (rd (o + 0xA0 + 2 * k) 2)
      fsel := rd (o + 4) 1
      nest := readNest rd (o + 0x500)
      handles := (List.range 16).filterMap fun k =>
        let e := o + 0x580 + 16 * k
        let old := (SMap.get? t.handles k).getD ⟨.fp32, false, 0, 0, 0, 0, 0, 0⟩
        if rd e 1 == 0 then none
        else some (k, { old with fmt := (Fmt.ofCode (BitVec.ofNat 4 (rd (e + 1) 1))).getD .fp32, lane := bit (rd (e + 2) 1) 0, base := rd (e + 4) 2,
                                 nrows := rd (e + 6) 2, ncols := rd (e + 8) 2, reg0 := rd (e + 10) 1 })
      infl := infl ++ rest
      pc := if b.gated then BitVec.ofNat 64 (rd 0x90 8) else t.pc
      lc := if b.gated then tabulate 6 0 fun k => BitVec.ofNat 32 (rd (0x98 + 4 * k) 4) else t.lc
      sg := if b.gated then BitVec.ofNat 8 (rd 0xB0 1) else t.sg
      sclk := if b.gated then BitVec.ofNat 64 (rd 0xB8 8) else t.sclk }
    rings := (List.range 16).filterMap fun k =>
      let e := o + 0x400 + 16 * k
      let cf := rd e 4
      let old := b.ring k
      let was := SMap.get r0 k Ring.none
      let cnt := fun (a : Nat) (x y : BitVec 32) => if a == x.toNat then y else BitVec.ofNat 32 a
      let base := if cf == (if was.cfg then 2 ^ 31 + was.lsize <<< 22 + was.rbase else 0) then old
        else { old with cfg := bit cf 31, lsize := bits cf 25 22, rbase := bits cf 21 0 }
      if cf == 0 && old == Ring.none then none
      else some (k, { base with head := cnt (rd (e + 4) 4) was.head old.head, tail := cnt (rd (e + 8) 4) was.tail old.tail,
                                resv := cnt (rd (e + 12) 4) was.resv old.resv }) }

/-- A saved block as its frame in memory gives it (R407, R408): edits, the rows that are inline, and the barriers that have completed since (R68). -/
def State.readFrame (s : State) (v : Saved) (tile : Bool) : Block :=
  let b := v.snap
  let rd := fun (o n : Nat) => s.ctxR b.ctx (v.frame.toNat + o) n
  let n := b.rowSet.total
  let (_, ro, _) := frameOffs b.warps.length n tile
  let b1 := ((List.range n).filter fun k => !v.refs.any fun r => r.1 == k).foldl (fun b k => b.rowPut k (rd (ro + 4096 * k) 4096)) b
  let b2 := b1.readWarps rd
  let b3 := v.passed.foldr (fun m b => b.passDbar m) b2
  if tile then b3.readTile v.rings0 rd (0x100 + 1024 * b.warps.length + 6656) else b3

/-- Write rows of a frame inline, at its address: the rows of b that are named (R57, R401, R403). -/
def State.inlineRows (s : State) (b : Block) (va : Nat) (rows : List Nat) : State :=
  match (s.grid? b.grid).bind fun g => g.img.vars[b.variant]? with
  | none => s
  | some ve =>
    let (rs, ro, _) := frameOffs b.warps.length b.rowSet.total (bit ve.vflags 0)
    rows.foldl (fun s k => (s.writeRow b (va + ro + 4096 * k) k).ctxW b.ctx (va + rs + 4 * k) 4 (2 ^ 31) 2) s
/-- Spill the rows of a saved frame that a test selects (R57, R401, R403). -/
def State.spillRows (s : State) (v : Saved) (sel : Nat × Nat × Nat → Bool) : State :=
  let s1 := s.inlineRows v.snap v.frame.toNat ((v.refs.filter sel).map fun r => r.1)
  { s1 with saved := s1.saved.map fun x => if x.grid == v.grid && x.lin == v.lin then { x with refs := x.refs.filter fun r => !sel r } else x }

end Sys2Proof.Machine
end

