-- ==== Sys2Proof/Machine/Place.lean ====
section
/-! DEFINITION. The dispatcher: placement, row spills, milestones, parking, slices, pre-emption and restore (R55-R74, R403-R410). -/
namespace Sys2Proof.Machine

/-! ### Where the work of a block is -/

/-- Change a block of a grid, resident or saved. -/
def State.modBlk (s : State) (g lin : Nat) (f : Block → Block) : State :=
  { s with
    blocks := s.blocks.map fun b => if b.grid == g && b.lin == lin then f b else b
    saved := s.saved.map fun v => if v.grid == g && v.lin == lin then { v with snap := f v.snap } else v }
/-- A block of a grid, resident or saved. -/
def State.blk? (s : State) (g lin : Nat) : Option Block :=
  (s.blocks.find? fun b => b.grid == g && b.lin == lin).or ((s.saved.find? fun v => v.grid == g && v.lin == lin).map Saved.snap)

/-- A pass of a block has started and not retired. -/
def State.passRuns (s : State) (g lin : Nat) : Bool := s.quads.any fun q => match q.2.run with | some p => p.grid == g && p.lin == lin | none => false
/-- Commands, passes, MRETs, transform requests and remote operations of a block that have not ended (R438). -/
def State.busy (s : State) (b : Block) : Bool :=
  (s.cores.any fun c => c.2.cq.any fun m => m.grid == b.grid && m.lin == b.lin) ||
  (s.quads.any fun q => q.2.tab.any fun p => p.grid == b.grid && p.lin == b.lin) || s.passRuns b.grid b.lin ||
  ((s.core b.core).mrets.any fun m => m.slot == b.slot) || (s.remOut.any fun r => r.grid == b.grid && r.lin == b.lin) ||
  s.xreqs.any fun r => r.grid == b.grid && r.lin == b.lin
/-- A context's work is frozen by a wave, or by a checkpoint (R420, R461). -/
def State.frozenCtx (s : State) (ctx : Nat) : Bool := s.rbState ctx != 0 || s.regN (devReg 0x508) % 8 != 0

/-! ### Rows, slots and warps (R55-R57, R60, R61) -/

/-- Rows or accumulator units of a core that a saved frame still owns (R57, R401). -/
def State.refHeld (s : State) (core : Nat) (acc : Bool) : List Nat :=
  s.saved.flatMap fun v => (v.refs.filter fun r => r.2.1 == core && decide (v.snap.rows.length ≤ r.1) == acc).map fun r => r.2.2
/-- n free rows (or units) of a core, those that no frame owns first, in increasing number (log 9). -/
def State.freeRows (s : State) (core n : Nat) (acc : Bool) (used : List Nat) : List Nat :=
  let all := (List.range (if acc then 128 else Config.poolRows)).filter fun r => !used.contains r
  let refd := s.refHeld core acc
  ((all.filter fun r => !refd.contains r) ++ all.filter fun r => refd.contains r).take n
/-- The rows that the other blocks of a core hold. -/
def State.usedRows (s : State) (core slot : Nat) (acc : Bool) : List Nat :=
  (s.blocks.filter fun b => b.core == core && b.slot != slot).flatMap fun b => if acc then b.accu else b.rows
/-- The warp slots that the other blocks of a core hold. -/
def State.usedWs (s : State) (core slot : Nat) : List Nat :=
  (s.blocks.filter fun b => b.core == core && b.slot != slot).flatMap fun b => b.warps.map Warp.wslot
/-- The lowest free task slot of a core (R60). -/
def State.freeSlot (s : State) (core : Nat) : Nat :=
  ((List.range Config.taskSlots).find? fun k => (s.block? core k).isNone).getD 0
/-- Some claimed row is still owned by a frame (R57). -/
def State.mustSpill (s : State) (core : Nat) (rows accu : List Nat) : Bool :=
  ((s.refHeld core false).any fun r => rows.contains r) || (s.refHeld core true).any fun r => accu.contains r

/-- The uncorrectable words of rows and accumulator units that are cleared are corrected (R61, R240); rows that a frame still owns keep theirs
until they are spilled. -/
def State.clearRows (s : State) (core : Nat) (rows accu : List Nat) : State :=
  if s.poolBad.isEmpty && s.accBad.isEmpty then s
  else
    let rs := rows.filter fun r => !(s.refHeld core false).contains r
    let us := accu.filter fun u => !(s.refHeld core true).contains u
    { s with
      poolBad := s.poolBad.filter fun w => !(w / 512 / 768 == core && rs.contains (w / 512 % 768))
      accBad := s.accBad.filter fun k => !(k / 1024 == core && us.contains (k % 1024 / 8)) }

/-- A thread at its entry (R61). -/
def Thread.entry (pc : Dword) (regs : SMap Word) : Thread :=
  { pc := pc, regs := regs, pred := 0, st := .running, hmode := false, wait := none, pend := [], held := [], h := [], binds := [], taken := [], kept := none,
    snooze := none, imps := [], watch := none, trapq := none, trapAt := 0, cause := none, waited := 0 }

/-- The warps of a variant in role order (R60): role, number within the role. -/
def VarE.warpList (v : VarE) : List (Nat × Nat) := (List.range 4).flatMap fun r => (List.range (v.warps.getD r 0)).map fun k => (r, k)

/-- Build the warps of a variant (R60): ws gives each one's slot, pc its start, regs its threads' registers. -/
def VarE.build (v : VarE) (ws : List Nat) (pc : Nat → Dword) (regs : Nat → Nat → Nat → SMap Word) : List Warp :=
  (List.range v.warpList.length).map fun k =>
    let p := v.warpList.getD k (0, 0)
    { role := p.1, rwarp := p.2, rows := v.rows.getD p.1 0, alloc := v.rows.getD p.1 0, wslot := ws.getD k 0, ops := [], hsel := none, progress := 0, inGate := false
      threads := (List.range 32).map fun l => Thread.entry (pc p.1) (regs p.1 p.2 l) }

/-- Non-zero registers of a list of numbered values. -/
def regMap (l : List (Nat × Word)) : SMap Word := l.foldl (fun m p => SMap.putD m p.1 0 p.2) []

/-- TSLICE.LEN (R72). -/
def State.tsliceLen (s : State) : Nat := (s.reg tsliceKey).toNat % 2 ^ 32

/-- The block of a placement (R60-R62). -/
def State.newBlock (s : State) (g : Grid) (core vi : Nat) (v : VarE) : Block :=
  let slot := s.freeSlot core
  let rows := s.freeRows core v.rowsAll false (s.usedRows core slot false)
  let accu := s.freeRows core (v.acckb / 4) true (s.usedRows core slot true)
  let ws := (List.range Config.warpSlots).filter fun k => !(s.usedWs core slot).contains k
  let args := recN g.raw.toNat 0x18 8
  let p := recN g.raw.toNat 0x14 4
  { core := core, slot := slot, ctx := g.ctx, grid := g.id, lin := g.next, variant := vi, milestone := 0, sclass := (g.img.classOf p).getD 0, sizep := p
    sprows := pwSp v.pword
    dom := [BitVec.ofNat 32 g.next, BitVec.ofNat 32 (quadOf core), BitVec.ofNat 32 (quarterOf core),
            BitVec.ofNat 32 (if g.jobid == 0 then 0 else s.devIdx g.ctx), BitVec.ofNat 32 g.jobid]
    warps := v.build ws (fun r => g.img.codeVa (v.entry.getD r 0)) fun _ _ _ => regMap [(0, BitVec.ofNat 32 args), (1, BitVec.ofNat 32 (args >>> 32))]
    urgent := 0, bwaits := [], spad := [], acc := [], traps := [], rings := [], tstat := 0, fpte := 0, gate := none, ef := [], nlost := 0, tile := TileCtx.empty
    prof := [], pcctl := 0, pcsel := 0, fptimer := 0, slice := 0, sliceLen := s.tsliceLen, nswitch := 0, npark := 0, npre := 0, tplace := s.time, state := .running, why := []
    frozenTile := false, tcause := none, rows := rows, accu := accu, acckb := v.acckb, deciding := none, preReq := false, drain := false
    spillWait := s.mustSpill core rows accu, frame := none, fetchVa := none }

/-! ### Choosing (R58, R59, R68) -/

/-- Insert a saved block in increasing linear index. -/
def insertSaved (v : Saved) : List Saved → List Saved
  | [] => [v]
  | x :: xs => if v.lin ≤ x.lin then v :: x :: xs else x :: insertSaved v xs
/-- The saved blocks of a grid that are ready to be placed, in increasing linear index (R68). -/
def State.readySaved (s : State) (g : Nat) : List Saved :=
  (s.saved.filter fun v => v.grid == g && !v.parked).foldr insertSaved []
/-- A grid has a block that waits for a place (R59). -/
def State.wantsPlace (s : State) (g : Grid) : Bool :=
  g.phase == .running && !s.frozenCtx g.ctx && (decide (g.next < g.nblkAll) || !(s.readySaved g.id).isEmpty)
/-- Free resources of the cores that take new blocks of a context (R55, R65). -/
def State.freeList (s : State) (ctx : Nat) (out : Block → Bool) : List (Nat × Free) :=
  ((s.coresOf ctx).filter fun c => !s.blocks.any fun b => b.core == c && b.deciding.isSome).map fun c => (c, s.freeOf c out)
/-- The variants that Place may try for an undispatched block of a grid (R58). -/
def Grid.newVars (g : Grid) : List (Nat × VarE) := match g.img.classOf (recN g.raw.toNat 0x14 4) with | some k => g.img.byRank k | none => []
/-- The variants that Place may try for a grid's next block (R58, R68). -/
def State.candVars (s : State) (g : Grid) : List (Nat × VarE) :=
  match (s.readySaved g.id).head? with
  | some v => match g.img.vars[v.snap.variant]? with | some x => [(v.snap.variant, x)] | none => []
  | none => g.newVars

/-- The core on which every row of a saved block is still unclaimed and which it fits (R68). -/
def State.homeCore (s : State) (g : Grid) (v : Saved) : Option Nat :=
  match g.img.vars[v.snap.variant]?, v.refs.head? with
  | some x, some r =>
    let c := r.2.1
    if v.refs.length == v.snap.rowSet.total && (v.refs.all fun y => y.2.1 == c) && ((s.freeList g.ctx fun _ => false).any fun p => p.1 == c && p.2.fits x) &&
        !(v.refs.any fun y => if y.1 < v.snap.rows.length then (s.usedRows c 99 false).contains y.2.2 else (s.usedRows c 99 true).contains y.2.2)
    then some c else none
  | _, _ => none

/-- A block of a list is resident and still to be saved. -/
def State.yetToSave (s : State) (vs : List (Nat × Nat)) : Bool := s.blocks.any fun b => b.preReq && vs.contains (b.grid, b.lin)
/-- The place that pre-emption has made for a grid's next block (R70): its core and variant, once the chosen blocks are saved and the block fits. -/
def State.madePlace (s : State) (g : Grid) : Option (Nat × Nat × VarE) :=
  match g.pre with
  | none => none
  | some (c, vi, vs) =>
    if s.yetToSave vs then none
    else ((s.candVars g).find? fun p => p.1 == vi).bind fun p =>
      if (s.freeList g.ctx fun _ => false).any fun y => y.1 == c && y.2.fits p.2 then some (c, vi, p.2) else none

/-- Place for a grid's next block (R58, R68): core, variant and the next QNEXT; the place that pre-emption made comes first, then, if home is set, the
core of a saved block's rows. All of a cooperative grid's saved blocks must fit, with none of its blocks still to be saved (R70). A block that resumes on
its home core, or where pre-emption made place, leaves QNEXT as it is: the model's choice (log 119). -/
def State.placeWith (s : State) (home : Bool) (g : Grid) : Option (Nat × Nat × VarE × Nat) :=
  let fr := s.freeList g.ctx fun _ => false
  let vs := s.candVars g
  let rs := s.readySaved g.id
  if g.coop && ((s.blocks.any fun b => b.grid == g.id && b.preReq) || !placeAll vs rs.length fr g.qnext) then none
  else
    match if home then s.madePlace g else none with
    | some (c, vi, v) => some (c, vi, v, g.qnext)
    | none =>
      match if home then rs.head?.bind (s.homeCore g) else none, vs.head? with
      | some c, some x => some (c, x.1, x.2, g.qnext)
      | _, _ => placeIn fr g.qnext vs
/-- Place for a grid's next block. -/
def State.placeNext (s : State) (g : Grid) : Option (Nat × Nat × VarE × Nat) := s.placeWith true g

/-- The order in which grids are served (R59): lower PRIO, then earlier admission. -/
def Grid.before (a b : Grid) : Bool := decide (a.prio < b.prio) || (a.prio == b.prio && decide (a.id < b.id))
/-- A grid may be served now: no grid of a higher priority in its partition waits, and none before it in its priority can be placed; one for which
pre-emption has made place comes first in its priority (R70, R71). -/
def State.servesGrid (s : State) (g : Grid) : Bool :=
  let made := fun (x : Grid) => (s.madePlace x).isSome
  let first := fun (x : Grid) => if made x != made g then made x else x.before g
  s.wantsPlace g && (s.placeNext g).isSome &&
  !s.grids.any fun x => x.id != g.id && s.owner x.ctx == s.owner g.ctx && s.wantsPlace x && (decide (x.prio < g.prio) || (x.prio == g.prio && first x && (s.placeNext x).isSome))

/-- PLACE_BLOCK can happen. -/
def State.placeNow (s : State) (gid : Nat) : Bool :=
  match s.grid? gid with | some g => s.servesGrid g && (s.readySaved gid).isEmpty | none => false
/-- PLACE_BLOCK (R58-R62): the rows are cleared, and the block's core acquires what the grid's prerequisites released (R45, R324). -/
def execPlaceBlock (grid : Nat) (s : State) : Res :=
  match s.grid? grid with
  | none => notNow "PLACE_BLOCK"
  | some g =>
    if !s.placeNow grid then notNow "PLACE_BLOCK"
    else
      match s.placeNext g with
      | none => notNow "PLACE_BLOCK"
      | some (c, vi, v, qn) =>
        let b := s.newBlock g c vi v
        .next ((({ s with blocks := s.blocks ++ [b] }.clearRows c b.rows b.accu).acquire c g.ctx .dev).modGrid grid fun x => { x with
          next := x.next + 1, qnext := qn, nblk := x.nblk + 1, pre := none, cores := if x.cores.contains c then x.cores else x.cores ++ [c] })

/-- A command of a saved block that still writes its rows: it is neither held by a page fault, nor waiting for ring space, nor behind a
command of its class that a page fault holds (R57, R251, R295; log 29). -/
def State.cmdMoving (s : State) (v : Saved) : Bool :=
  s.cores.any fun c =>
    let held := fun (m : Cmd) => m.st == CmdSt.held || (m.st == .queued && (v.snap.rings.any fun r => r.2.waits.contains m.id) && m.lin == v.lin && m.grid == v.grid)
    c.2.cq.any fun m => m.grid == v.grid && m.lin == v.lin && !held m &&
      !(m.st == .queued && c.2.cq.any fun x => x.id < m.id && x.st == .held && s.saved.any fun y => y.grid == x.grid && y.lin == x.lin)
/-- The claimed rows of a core that a saved frame still owns. -/
def State.spillSel (s : State) (core : Nat) (v : Saved) (r : Nat × Nat × Nat) : Bool :=
  let bs := s.blocks.filter fun b => b.core == core && b.spillWait
  r.2.1 == core && (if r.1 < v.snap.rows.length then (bs.flatMap Block.rows).contains r.2.2 else (bs.flatMap Block.accu).contains r.2.2)
/-- ROW_SPILL can happen: no command still writes the rows to spill. -/
def State.spillNow (s : State) (core : Nat) : Bool :=
  (s.blocks.any fun b => b.core == core && b.spillWait) && !s.saved.any fun v => (v.refs.any fun r => s.spillSel core v r) && s.cmdMoving v
/-- ROW_SPILL (R57): the claimed rows of a core that frames own are written to them, then cleared. -/
def execRowSpill (core : Nat) (s : State) : Res :=
  if !s.spillNow core then notNow "ROW_SPILL"
  else
    let s0 := s.saved.foldl (fun s' v => s'.spillRows v fun r => s.spillSel core v r) s
    let s1 := (s.blocks.filter fun b => b.core == core && b.spillWait).foldl (fun s' b => s'.clearRows core (b.rows.filter (s.refHeld core false).contains)
      (b.accu.filter (s.refHeld core true).contains)) s0
    .next { s1 with blocks := s1.blocks.map fun b => if b.core == core then { b with spillWait := false } else b }

/-! ### Milestones (R63-R66) -/

/-- The variant index that a block takes at a milestone (R63), with the resources of further blocks counted as free: none while it must wait (R65). -/
def State.pickVariant (s : State) (b : Block) (g : Grid) (m k' : Nat) (out : Block → Bool) : Option Nat :=
  let cur := (g.img.vars[b.variant]?).getD ⟨0, 0, 0, 0, [], [], [], 0, 0, 0, 0, 0, 0, 0⟩
  let fr := s.freeOf b.core fun x => x.slot == b.slot || out x
  let ok := fun (p : Nat × VarE) => (g.img.msOf p.2 m).isSome && fr.fits p.2
  if k' == b.sclass || g.coop then
    some (((((g.img.byRank b.sclass).filter fun p => p.2.rank < cur.rank).find? ok).map Prod.fst).getD b.variant)
  else ((g.img.byRank k').find? ok).map Prod.fst

/-- The carry of a milestone (R18, R64): the block-warp that it names. -/
def Block.carryWarp (b : Block) (e : MsE) : Option (Nat × Warp) := (b.roleWarp e.crole e.cwarp).bind fun w => (b.warps[w]?).map fun x => (w, x)
/-- The uncorrectable words of the carry's register rows that hold no register of the carry are corrected (R19, R240): w is the warp. -/
def State.clearCarry (s : State) (b : Block) (e : MsE) (w : Nat) : State :=
  if s.poolBad.isEmpty || e.ccnt == 0 then s
  else
    let base := ((b.warps.take w).map Warp.rows).sum
    let ws := ((b.warps[w]?).map Warp.wslot).getD 0
    let rows := (List.range ((e.creg + e.ccnt - 1) / 32 + 1 - e.creg / 32)).map fun j => (b.core * 768 + b.rows.getD (base + e.creg / 32 + j) 0, e.creg / 32 + j)
    { s with poolBad := s.poolBad.filter fun x => match rows.find? fun r => r.1 == x / 512 with
        | none => true
        | some r => let v := 32 * r.2 + 2 * (x % 16 ^^^ ws % 16); decide (e.creg ≤ v + 1) && decide (v < e.creg + e.ccnt) }

/-- Commit and rebuild (R64, R227). The tile context is set up anew, its schedule clk too: the model's choice (log 120). -/
def State.commitMs (s : State) (b : Block) (g : Grid) (m vi k' : Nat) (v : VarE) (e : MsE) : State :=
  let cw := b.carryWarp e
  let own := s.usedWs b.core b.slot
  let names := v.warpList
  let carryIx := if cw.isSome then names.findIdx? fun q => q == (e.crole, e.cwarp) else none
  let kept := match cw, carryIx with | some (_, x), some _ => [x.wslot] | _, _ => []
  let pool := (List.range Config.warpSlots).filter fun k => !own.contains k && !kept.contains k
  let ws := (List.range names.length).map fun k =>
    if carryIx == some k then kept.headD 0 else pool.getD (k - (match carryIx with | some j => b2n (j < k) | none => 0)) 0
  let base := match cw with | some (w, _) => ((b.warps.take w).map Warp.rows).sum | none => 0
  let nbase := match carryIx with | some j => ((names.take j).map fun q => v.rows.getD q.1 0).sum | none => 0
  let rs := b.rowSet
  let carryRows : List (Nat × Nat) :=
    (if cw.isSome && carryIx.isSome && e.ccnt != 0 then (List.range ((e.creg + e.ccnt - 1) / 32 + 1 - e.creg / 32)).map fun j => (nbase + e.creg / 32 + j, b.rows.getD (base + e.creg / 32 + j) 0)
     else []) ++
    (List.range e.cscnt).map (fun j => (pwRf v.pword + pwAx v.pword + e.csrow + j, b.rows.getD (rs.rf + rs.ax + e.csrow + j) 0)) ++
    [(v.rowsAll - 2, b.rows.getD (b.rows.length - 2) 0), (v.rowsAll - 1, b.rows.getD (b.rows.length - 1) 0)]
  let fresh := s.freeRows b.core (v.rowsAll - carryRows.length) false (s.usedRows b.core b.slot false ++ carryRows.map Prod.snd)
  let rows := (List.range v.rowsAll).foldl (fun (acc : List Nat × List Nat) k =>
    match carryRows.find? fun c => c.1 == k with
    | some c => (acc.1 ++ [c.2], acc.2)
    | none => (acc.1 ++ [acc.2.headD 0], acc.2.drop 1)) ([], fresh)
  let accu := s.freeRows b.core (v.acckb / 4) true (s.usedRows b.core b.slot true)
  let regs := fun (r k l : Nat) => match cw with
    | some (_, x) => if r == e.crole && k == e.cwarp then ((x.threads[l]?).map fun th => th.regs.filter fun q => decide (e.creg ≤ q.1) && decide (q.1 < e.creg + e.ccnt)).getD [] else []
    | none => []
  let sw := vi != b.variant
  let s1 := s.modBlock b.core b.slot fun b => Block.syncPoint { b with
    variant := vi, milestone := m, sclass := k', sizep := b.mileSize m, sprows := pwSp v.pword
    warps := v.build ws (fun r => g.img.codeVa (e.resume.getD r 0)) regs
    spad := b.spad.filter fun c => decide (4096 * e.csrow ≤ c.1) && decide (c.1 < 4096 * (e.csrow + e.cscnt))
    acc := [], rings := [], gate := none, tile := TileCtx.empty, rows := rows.1, accu := accu, acckb := v.acckb, deciding := none, urgent := 0
    spillWait := s.mustSpill b.core rows.1 accu, nswitch := b.nswitch + b2n sw }
  let kept := carryRows.map Prod.snd
  let s0 := (match cw with | some (w, _) => s1.clearCarry b e w | none => s1).clearRows b.core (rows.1.filter fun r => !kept.contains r) accu
  let s2 := s0.modGrid g.id fun x => { x with nswitch := if sw then min (x.nswitch + 1) 0xFFFFFFFF else x.nswitch }
  s2.traceThread ⟨b.core, b.slot, 0, 0⟩ 3

/-- MILESTONE_COMMIT can happen: the block has gathered and drained, and a candidate fits or the decision is not taken (R64, R65). -/
def State.mileNow (s : State) (core slot : Nat) : Option (Block × Grid × Nat × Nat) :=
  match s.block? core slot with
  | none => none
  | some b =>
    match s.gridOf b, b.mileAt with
    | some g, some m =>
      let p := b.milePrime g m
      let k' := (g.img.classOf p).getD b.sclass
      if b.live.isEmpty || b.stopped || b.preReq || b.gated || g.phase != .running || s.busy b || (b.warps.any fun w => w.ops.any fun o => !o.ret) ||
          (b.deciding.isSome && (s.pickVariant b g m k' fun _ => false).isNone) then none
      else some (b, g, m, k')
    | _, _ => none
/-- MILESTONE_COMMIT (R63-R66): a fault that a drained operation carries is delivered first. -/
def execMilestoneCommit (core slot : Nat) (s : State) : Res :=
  match s.mileNow core slot with
  | none => notNow "MILESTONE_COMMIT"
  | some (b, g, m, k') =>
    match b.warps.findSome? fun w => w.ops.findSome? fun o => o.err.map fun c => (o.id, c), b.live.head? with
    | some (id, c), some t => .next ((s.modBlock core slot fun b => b.clearErr id).deliver t { c with impr := true, rpc := s.pcOf t } false)
    | _, _ =>
      match s.pickVariant b g m k' fun _ => false with
      | none => .next (s.modBlock core slot fun b => { b with deciding := some k' })
      | some vi =>
        match g.img.vars[vi]? with
        | none => notNow "MILESTONE_COMMIT"
        | some v =>
          match g.img.msOf v m with
          | none => notNow "MILESTONE_COMMIT"
          | some e => .next (s.commitMs b g m vi (if g.coop then b.sclass else k') v e)

/-! ### Saving (R404) and the save pool (R403) -/

/-- The save-pool slots of a context in use. -/
def State.slotsUsed (s : State) (ctx : Nat) : List Nat :=
  let base := s.regN (ctxReg ctx 0x270)
  let sz := 4096 * bits (s.regN (ctxReg ctx 0x278)) 31 16
  (s.saved.filterMap fun v => if v.ctx == ctx then v.poolSlot else none) ++
  s.blocks.filterMap fun b => if b.ctx == ctx && sz != 0 then b.frame.map fun f => (f.va.toNat - base) / sz else none
/-- The lowest free slot that holds n bytes: slot and address (R403). -/
def State.saveSlot (s : State) (ctx n : Nat) : Option (Nat × Nat) :=
  let c := s.regN (ctxReg ctx 0x278)
  let sz := 4096 * bits c 31 16
  if sz < n then none
  else ((List.range (c % 65536)).find? fun k => !(s.slotsUsed ctx).contains k).map fun k => (k, s.regN (ctxReg ctx 0x270) / 4096 * 4096 + sz * k)
/-- The frame size of a block. -/
def Block.fsize (b : Block) (g : Grid) : Nat :=
  frameSize b.warps.length b.rowSet.total (match g.img.vars[b.variant]? with | some v => bit v.vflags 0 | none => false)

/-- A thread's results are written, apart from what a frame records (R87, R283, R404). -/
def Thread.quiet (th : Thread) : Bool :=
  th.watch.isNone && th.pend.all fun p => th.held.any fun o => o.tag == p.tag && (o.kind == .pop || o.kind == .commit || o.hs != .free)
/-- A block can be saved now (R404): its threads are quiet, its tile side stands at a waymark or frozen without a T result, and no
pass of it runs. -/
def State.saveReady (s : State) (b : Block) : Bool :=
  (b.refs.all fun t => match b.thread? t.warp t.lane with | some th => th.quiet | none => true) && !s.passRuns b.grid b.lin &&
  (!b.gated || (if b.frozenTile || b.state == .frozen then !b.tile.infl.any fun f => f.unit == 4 else b.drain || !b.tile.joined))

/-- FFLAGS of a frame (R397). -/
def Block.fflags (b : Block) (parked abort : Bool) : Nat :=
  b2n parked + 2 * b2n abort + 4 * b2n (b.frozenTile || (b.gated && b.state == .frozen)) + 8 * b2n b.gated + 16 * b2n (b.live.any fun t => match b.thread? t.warp t.lane with
    | some th => th.st == .arrived && (match th.wait with | some w => w.kind == .mile | none => false) | none => false)

/-- The asynchronous faults of a block as its frame records them (R399, R404): one that froze its tile side is DELIVERED. -/
def Block.efList (b : Block) : List (Cause × Nat) :=
  (match b.tcause with | some c => if c.impr then [(c, 1)] else [] | none => []) ++
  (((b.tile.ops ++ b.warps.flatMap Warp.ops).filterMap fun o => o.err.map fun c => (o.id, c)).eraseDups.map fun x => (x.2, 0)) ++
  b.warps.flatMap fun w => w.threads.flatMap fun th => th.imps.map fun c => (c, 0)
/-- The commands of a block that a page fault holds (R431). -/
def State.heldCmds (s : State) (b : Block) : List Cmd := (s.core b.core).cq.filter fun m => m.grid == b.grid && m.lin == b.lin && m.st == .held
/-- A held command as an entry of the engine section (R431). -/
def Cmd.efEntry (m : Cmd) : Cause × Nat :=
  ({ causeVa cPageFault m.va.toNat m.tpc with tpc := m.tpc, gatef := true, eng := m.core, ecls := (match m.i with | .cgat _ _ _ _ _ _ => 2 | _ => 0) }, 4)

/-- Save a block (R404): its frame, its withdrawn passes and MRETs, and the commands that a page fault holds (R431); its resources become free. -/
def State.saveBlock (s : State) (b : Block) (g : Grid) (va : Nat) (poolSlot : Option Nat) (parked : Bool) (arrival : Nat) : State :=
  let q := s.quad (quadOf b.core)
  let wd := q.tab.filter fun p => p.grid == b.grid && p.lin == b.lin
  let mr := (s.core b.core).mrets.filter fun m => m.slot == b.slot
  let hc := s.heldCmds b
  let efs := b.efList ++ hc.map Cmd.efEntry
  let b1 := { b.settle with preReq := false, drain := false, frame := none, ef := efs.take 16, nlost := efs.length - 16, npre := if parked then b.npre else min (b.npre + 1) 0xFFFF,
                            npark := if parked then min (b.npark + 1) 0xFFFF else b.npark }
  let b2 := { b1 with warps := b1.warps.map fun (w : Warp) => { w with threads := w.threads.map fun (th : Thread) =>
    match th.wait with
    | some x => if x.kind == .waitc then { th with st := .running, wait := none } else th
    | none => th } }
  let s1 := s.writeFrame b2 g va 0x1B (b2.fflags parked false) 0 b2.allRefs wd
  let s2 := (s1.modQuad (quadOf b.core) fun q => { q with tab := q.tab.filter fun p => !(p.grid == b.grid && p.lin == b.lin) }).modCore b.core
    fun c => { c with mrets := c.mrets.filter (fun m => m.slot != b.slot), cq := c.cq.filter fun (m : Cmd) => !(m.grid == b.grid && m.lin == b.lin && m.st == CmdSt.held) }
  { s2 with
    blocks := s2.blocks.filter fun x => !(x.core == b.core && x.slot == b.slot)
    saved := s2.saved ++ [⟨b.grid, b.lin, b.ctx, BitVec.ofNat 64 va, poolSlot, parked, b2, b2.allRefs, arrival, wd, mr, b2.rings, hc, [], []⟩] }

/-! ### Parking (R67) -/

/-- The grid-domain barrier at which a block waits, and its latest arrival. -/
def Block.dbarWait (b : Block) : Option (Nat × Nat) :=
  match b.live.head?.bind fun t => (b.thread? t.warp t.lane).bind Thread.wait with
  | some w =>
    if w.kind == .dbar && decide (3 * 256 ≤ w.mask) && b.allAt .dbar w.mask then
      some (w.mask, (b.live.map fun t => (((b.thread? t.warp t.lane).bind Thread.wait).map fun x => x.arg.toNat).getD 0).foldl max 0)
    else none
  | none => none
/-- PARK_BLOCK can happen (R67). -/
def State.parkNow (s : State) (core slot : Nat) : Option (Block × Grid × Nat) :=
  match s.block? core slot with
  | none => none
  | some b =>
    match s.gridOf b, b.dbarWait with
    | some g, some (_, a) =>
      if bit g.img.flags 1 && !g.coop && g.phase == .running && !b.stopped && !s.frozenCtx g.ctx && decide (g.next < g.nblkAll) &&
          (placeIn (s.freeList g.ctx fun _ => false) g.qnext g.newVars).isNone && s.saveReady b &&
          (s.blocks.all fun x => x.grid != g.id || match x.dbarWait with | some (_, y) => decide (y ≤ a) | none => true)
      then some (b, g, a) else none
    | _, _ => none
/-- PARK_BLOCK (R67). -/
def execParkBlock (core slot : Nat) (s : State) : Res :=
  match s.parkNow core slot with
  | none => notNow "PARK_BLOCK"
  | some (b, g, a) =>
    let pm := (((g.img.byRank ((g.img.classOf (recN g.raw.toNat 0x14 4)).getD 0))).map fun p => p.2.parkb).foldl max 0
    .next ((s.saveBlock b g (recN g.raw.toNat 0x48 8 + b.lin * pm) none true a).modGrid g.id fun x => { x with npark := min (x.npark + 1) 0xFFFFFFFF })

/-! ### Pre-emption (R65, R70, R71) -/

/-- A block that runs, or whose tile side alone is stopped, by a fault or at a held fetch (R251, R409). -/
def Block.stillOr (b : Block) : Bool := b.state == .running || b.why.all fun w => w == .tileFault || w == .fetch
/-- A block of a running grid that can be pre-empted. -/
def State.mayPreempt (s : State) (b : Block) : Bool :=
  !b.preReq && !b.live.isEmpty && !b.spillWait && match s.gridOf b with | some g => g.phase == .running && !s.frozenCtx g.ctx | none => false
/-- The blocks that go with some blocks: all of a cooperative grid's (R70). -/
def State.together (s : State) (bs : List Block) : List Block :=
  s.blocks.filter fun b => !b.preReq && bs.any fun x => (x.core == b.core && x.slot == b.slot) || (x.grid == b.grid && match s.gridOf b with | some g => g.coop | none => false)
/-- The save pools have a slot for each of some blocks, beside those that are to be saved already (R403). -/
def State.canSave (s : State) (bs : List Block) : Bool :=
  bs.all fun b => match s.gridOf b with
    | none => false
    | some g =>
      let c := s.regN (ctxReg b.ctx 0x278)
      (s.saveSlot b.ctx (b.fsize g)).isSome &&
        decide ((s.slotsUsed b.ctx).length + ((s.blocks.filter fun x => x.ctx == b.ctx && x.preReq).length + (bs.filter fun x => x.ctx == b.ctx).length) ≤ c % 65536)
/-- Request the pre-emption of some blocks; a decision on a variant is discarded (R66). -/
def State.request (s : State) (bs : List Block) : State :=
  { s with blocks := s.blocks.map fun b => if bs.any fun x => x.core == b.core && x.slot == b.slot then { b with preReq := true, deciding := none } else b }

/-- The grids with a block that waits because Place found none (R59), and for which pre-emption has not made a choice that it is carrying out. -/
def State.waitingGrids (s : State) : List Grid :=
  s.grids.filter fun g => s.wantsPlace g && (s.placeNext g).isNone && (match g.pre with | some (_, _, vs) => !s.yetToSave vs | none => true)

/-- The victims of a waiting grid in order (R70): decreasing PRIO value, then the most recently placed first. -/
def State.victims (s : State) (g : Grid) : List Block :=
  let bs := s.blocks.reverse.filterMap fun b => (s.gridOf b).bind fun x =>
    if decide (g.prio < x.prio) && s.owner x.ctx == s.owner g.ctx && s.mayPreempt b then some (b, x.prio) else none
  (List.range 4).reverse.flatMap fun p => (bs.filter fun y => y.2 == p).map Prod.fst

/-- ChooseVictims (R70): a core, a variant, and the shortest prefix of the core's victims. -/
def State.chooseVictims (s : State) (g : Grid) : Option (Nat × Nat × List Block) :=
  let vs := s.victims g
  let cs := (vs.map Block.core).eraseDups.filter fun c => (s.coresOf g.ctx).contains c
  cs.findSome? fun c =>
    let mine := vs.filter fun y => y.core == c
    (s.candVars g).findSome? fun v => ((List.range (mine.length + 1)).find? fun n =>
      (s.freeOf c fun b => (mine.take n).any fun x => x.slot == b.slot).fits v.2).map fun n => (c, v.1, mine.take n)
/-- The waiting grid for which a block is pre-empted now (R59, R70), with the core, the variant, and every block that goes: the first grid of a
highest priority that waits in its partition. -/
def State.wantsOut (s : State) (b : Block) : Option (Grid × Nat × Nat × List Block) :=
  let ws := s.waitingGrids
  (ws.filter fun g => !ws.any fun x => s.owner x.ctx == s.owner g.ctx && decide (x.prio < g.prio)).findSome? fun g =>
    (s.chooseVictims g).bind fun r =>
      let all := s.together r.2.2
      if (all.any fun x => x.core == b.core && x.slot == b.slot) && s.canSave all then some (g, r.1, r.2.1, all) else none

/-- A block waits for its variant (R65): no candidate fits it, though every block that is to be saved counts as gone. -/
def State.starved (s : State) (x : Block) : Bool :=
  x.deciding.isSome && match s.gridOf x, x.mileAt, x.deciding with
    | some g, some m, some k => (s.pickVariant x g m k fun y => y.preReq).isNone
    | _, _, _ => false
/-- A block that a waiting decision on its core displaces (R65): another grid's, of equal or lower priority. -/
def State.displaced (s : State) (b : Block) : Bool :=
  s.blocks.any fun x => x.core == b.core && x.grid != b.grid && s.starved x &&
    match s.gridOf x, s.gridOf b with | some gx, some gb => decide (gx.prio ≤ gb.prio) | _, _ => false
/-- A block that is displaced at once, since its slice has no end (R65, R72). -/
def State.displacedNow (s : State) (b : Block) : Bool :=
  b.sliceLen == 0 && s.mayPreempt b && s.displaced b && s.canSave (s.together [b])

/-- PREEMPT can happen: the request, or the save once the block is quiet. -/
def State.preemptNow (s : State) (core slot : Nat) : Bool :=
  match s.block? core slot with
  | some b =>
    if b.preReq then s.saveReady b && b.stillOr && (match s.gridOf b with | some g => !g.coop || (s.saveSlot b.ctx (b.fsize g)).isSome | none => true)
    else (s.wantsOut b).isSome || s.displacedNow b
  | none => false
/-- PREEMPT (R65, R66, R70, R404): the request stops the chosen blocks' threads and, at the next waymark, their tile sides; a second step for each
saves it. -/
def execPreempt (core slot : Nat) (s : State) : Res :=
  if !s.preemptNow core slot then notNow "PREEMPT"
  else
    match s.block? core slot with
    | none => notNow "PREEMPT"
    | some b =>
      if !b.preReq then
        match s.wantsOut b with
        | some (g, c, vi, vs) => .next ((s.request vs).modGrid g.id fun x => { x with pre := some (c, vi, vs.map fun y => (y.grid, y.lin)) })
        | none => .next (s.request (s.together [b]))
      else
        match s.gridOf b with
        | none => notNow "PREEMPT"
        | some g =>
          match s.saveSlot b.ctx (b.fsize g) with
          | some (k, va) => .next (s.saveBlock b g va (some k) false 0)
          | none => .next (s.modBlock core slot fun b => { b with preReq := false, drain := false })

/-- SLICE_END can happen (R71, R72): the count has reached the length that held when the slice began. -/
def State.sliceNow (s : State) (core slot : Nat) : Bool :=
  match s.block? core slot with
  | some b => b.sliceLen != 0 && decide (1024 * b.sliceLen ≤ b.slice) && b.deciding.isNone && !b.live.isEmpty && !b.preReq
  | none => false
/-- The other grid of a block's priority that waits (R71). -/
def State.sliceWaiter (s : State) (b : Block) : Option Grid :=
  match s.gridOf b with
  | some g => s.waitingGrids.find? fun x => x.id != g.id && x.prio == g.prio && s.owner x.ctx == s.owner g.ctx
  | none => none
/-- SLICE_END (R65, R71): the block is pre-empted when a grid of its priority waits, which then takes its place if it fits, or when a decision on its
core waits. -/
def execSliceEnd (core slot : Nat) (s : State) : Res :=
  if !s.sliceNow core slot then notNow "SLICE_END"
  else
    match s.block? core slot with
    | none => notNow "SLICE_END"
    | some b =>
      let vs := s.together [b]
      let can := s.mayPreempt b && s.canSave vs
      let s1 := s.modBlock core slot fun x => { x with slice := 0, sliceLen := s.tsliceLen }
      if can && s.displaced b then .next (s1.request vs)
      else
        match s.sliceWaiter b with
        | some g =>
          if !can then .next s1
          else
            let out := fun (x : Block) => vs.any fun y => y.core == x.core && y.slot == x.slot
            .next ((s1.request vs).modGrid g.id fun y => { y with
              pre := ((s.candVars g).find? fun p => (s.coresOf g.ctx).contains core && (s.freeOf core out).fits p.2).map fun p => (core, p.1, vs.map fun y => (y.grid, y.lin)) })
        | none => .next s1

/-! ### Restore (R407) -/

/-- A thread as it resumes (R365): waits that were not issued, and parked accesses, execute anew. -/
def Thread.resume (th : Thread) : Thread :=
  let th1 := { th with held := th.held.map fun o => if o.hs == .parked then { o with hs := .again } else o }
  match th.st with
  | .parked => { th1 with st := .running, wait := none }
  | .waiting => { th1 with st := .running, wait := none }
  | _ => th1

/-- Causes reach a thread one after another: the first is delivered, the others wait for the thread as imprecise ones do (R257, R382, R434). -/
def State.deliverAll (s : State) (t : TRef) : List Cause → State
  | [] => s
  | c :: cs => (s.modThread t fun th => { th with imps := th.imps ++ cs }).deliver t c false
/-- Held accesses of a block on cancelled pages end with a PAGE_FAULT each (R257): precisely to a thread, in the order of their issue, synchronously to
the tile side. -/
def State.cancelHeld (s : State) (core slot : Nat) (pages : List Nat) : State :=
  match s.block? core slot with
  | none => s
  | some b =>
    let onPage := fun (va : Dword) => pages.contains (bits va.toNat 51 16)
    let s1 := b.refs.foldl (fun s t =>
      match s.thread? t with
      | none => s
      | some th =>
        let stuck := match th.wait with | some w => if th.st == .parked && w.kind == .access && onPage w.addr then [causeVa cPageFault w.addr.toNat th.pc] else [] | none => []
      let bad := fun (o : HeldOp) => o.hs == .parked && onPage o.va
      let cs := ((th.held.filter bad).map fun o => (causeVa cPageFault o.va.toNat o.pc).late th.pc) ++ stuck
      if cs.isEmpty then s
      else (s.modThread t fun x => { x with
        st := if stuck.isEmpty then x.st else .running, wait := if stuck.isEmpty then x.wait else none
        held := th.held.filter (fun x => !bad x), pend := th.pend.filter fun p => !th.held.any fun x => bad x && x.tag == p.tag }).deliverAll t cs) s
    match b.fetchVa with
    | some va =>
      if onPage va then
        (s1.modBlock core slot fun b => { b with fetchVa := none, why := b.why.filter fun w => w != .fetch }).tileFault core slot { causeVa cPageFault va.toNat b.tile.pc with tpc := b.tile.pc } false
      else s1
    | none => s1

/-- The rows that a restored block takes from its frame: their old uncorrectable words are gone, and words that the frame holds poisoned are
uncorrectable in the row too (R240). -/
def State.rowsBack (s : State) (v : Saved) (b : Block) (tile : Bool) : State :=
  let n := b.rows.length
  let moved := (List.range (n + b.accu.length)).filter fun k => !v.refs.any fun r => r.1 == k
  let s1 := s.clearRows b.core ((moved.filter fun k => k < n).map fun k => b.rows.getD k 0) ((moved.filter fun k => n ≤ k).map fun k => b.accu.getD (k - n) 0)
  if s.poison.isEmpty then s1
  else
    let (_, ro, _) := frameOffs b.warps.length b.rowSet.total tile
    moved.foldl (fun s k =>
      let bad := s.inlineBad b.ctx (v.frame.toNat + ro + 4096 * k)
      if k < n then
        let x := match v.snap.warpRow k, b.warpRow k with
          | some (w, _), some (u, _) => ((v.snap.warps[w]?).map Warp.wslot).getD 0 % 16 ^^^ ((b.warps[u]?).map Warp.wslot).getD 0 % 16
          | _, _ => 0
        { s with poolBad := s.poolBad ++ bad.map fun w => (b.core * 768 + b.rows.getD k 0) * 512 + (w ^^^ x) }
      else { s with accBad := s.accBad ++ (bad.map fun w => b.core * 1024 + 8 * b.accu.getD (k - n) 0 + w / 64).eraseDups }) s1
/-- The saved block on its new core and slot (R407). -/
def State.revive (s : State) (v : Saved) (core : Nat) (x : VarE) : State :=
  let b := s.readFrame v (bit x.vflags 0)
  let slot := s.freeSlot core
  let here := fun (acc : Bool) => v.refs.filter fun r => r.2.1 == core && decide (v.snap.rows.length ≤ r.1) == acc
  let claim := fun (acc : Bool) (n : Nat) (off : Nat) =>
    let used := s.usedRows core slot acc
    let mine := (here acc).filter fun r => !used.contains r.2.2
    let fresh := s.freeRows core n acc (used ++ mine.map fun r => r.2.2)
    ((List.range n).foldl (fun (a : List Nat × List Nat) k =>
      match mine.find? fun r => r.1 == off + k with
      | some r => (a.1 ++ [r.2.2], a.2)
      | none => (a.1 ++ [a.2.headD 0], a.2.drop 1)) ([], fresh)).1
  let rows := claim false b.rows.length 0
  let accu := claim true b.accu.length b.rows.length
  let free := (List.range Config.warpSlots).filter fun k => !(s.usedWs core slot).contains k
  let b1 : Block := { b with
    core := core, slot := slot, rows := rows, accu := accu, slice := 0, sliceLen := s.tsliceLen, preReq := false, drain := false, spillWait := false, ef := [], nlost := 0
    warps := (List.range b.warps.length).filterMap fun k => (b.warps[k]?).map fun w => { w with wslot := free.getD k 0 }
    rings := b.rings.map fun r => (r.1, { r.2 with pops := r.2.pops.map fun (t : TRef) => { t with core := core, slot := slot } }) }
  let s1 := { s with
    saved := s.saved.filter fun y => !(y.grid == v.grid && y.lin == v.lin)
    cores := s.cores.map fun (c : Nat × CoreSt) => (c.1, { c.2 with
      cq := c.2.cq.map fun (m : Cmd) => if m.grid == v.grid && m.lin == v.lin && m.st == CmdSt.held then { m with st := .reserved } else m }) }
  let s2 := { s1 with
    blocks := s1.blocks ++ [{ b1 with spillWait := s1.mustSpill core rows accu }]
    remOut := s1.remOut.map fun (r : RemOut) => if r.grid == v.grid && r.lin == v.lin then { r with t := { r.t with core := core, slot := slot } } else r
    xreqs := s1.xreqs.map fun (r : XReq) => if r.grid == v.grid && r.lin == v.lin then { r with t := { r.t with core := core, slot := slot } } else r }
  let s3 := (s2.modQuad (quadOf core) fun q => { q with tab := q.tab ++ v.wd.map fun (p : Pass) => { p with core := core, slot := slot } }).modCore core
    fun c => { c with
      cq := v.cmds.map (fun (m : Cmd) => { m with core := core, slot := slot, st := if m.err.isSome then CmdSt.moved else .reserved }) ++ c.cq
      mrets := c.mrets ++ v.mrets.map fun (m : Mret) => { m with slot := slot } }
  let s4 := ((s3.rowsBack v b1 (bit x.vflags 0)).acquire core b.ctx .dev).cancelHeld core slot v.cancels
  s4.modBlock core slot fun b => { b with
    warps := b.warps.map (fun (w : Warp) => { w with threads := w.threads.map Thread.resume }), fetchVa := none, why := b.why.filter fun w => w != .fetch
    state := if b.why.any (fun w => w != .fetch) then b.state else .running, frozenTile := b.frozenTile && b.why.contains .tileFault }

/-- The first ready saved block of a grid is restored (R68, R407): a frame that fails its checks aborts the grid. -/
def State.restoreOne (s : State) (grid : Nat) (home : Bool) : Option State :=
  match s.grid? grid, (s.readySaved grid).head? with
  | some g, some v =>
    if s.frameBad v.snap g v.frame.toNat then some (s.abortGrid grid v.lin (causeOf cIllegalEncoding 0 0) (some v.snap))
    else
      (s.placeWith home g).map fun (c, _, x, qn) =>
        let s1 := s.spillRows v fun r => r.2.1 != c || (if r.1 < v.snap.rows.length then (s.usedRows c 99 false).contains r.2.2 else (s.usedRows c 99 true).contains r.2.2)
        let v1 := (s1.saved.find? fun y => y.grid == grid && y.lin == v.lin).getD v
        (s1.revive v1 c x).modGrid grid fun y => { y with qnext := qn, pre := none, cores := if y.cores.contains c then y.cores else y.cores ++ [c] }
  | _, _ => none
/-- The ready saved blocks of a cooperative grid are restored together (R70, R74): all of them, or none; an abort ends it. -/
def State.restoreAll (s : State) (grid : Nat) (home : Bool) : Nat → Option State
  | 0 => if (s.readySaved grid).isEmpty then some s else none
  | n + 1 => (s.restoreOne grid home).bind fun s1 =>
    if (s1.grid? grid).any fun g => g.phase != .running then some s1 else State.restoreAll s1 grid home n
/-- What RESTORE_BLOCK does for a grid. -/
def State.restored (s : State) (g : Grid) : Option State :=
  let n := (s.readySaved g.id).length
  if g.coop then (s.restoreAll g.id true n).or (s.restoreAll g.id false n) else s.restoreOne g.id true

/-- RESTORE_BLOCK can happen: the first ready saved block of the grid, whose rows no command still writes unless they stay in place. -/
def State.restoreNow (s : State) (grid blk : Nat) : Bool :=
  match s.grid? grid with
  | some g => s.servesGrid g && ((s.readySaved grid).head?.map Saved.lin) == some blk && (s.restored g).isSome &&
    (s.readySaved grid).all fun v => (!g.coop && v.lin != blk) || !s.cmdMoving v || (s.homeCore g v).isSome
  | none => false
/-- RESTORE_BLOCK (R68, R70, R407). -/
def execRestoreBlock (grid blk : Nat) (s : State) : Res :=
  if !s.restoreNow grid blk then notNow "RESTORE_BLOCK"
  else match (s.grid? grid).bind s.restored with | some s1 => .next s1 | none => notNow "RESTORE_BLOCK"

end Sys2Proof.Machine
end

