-- ==== Sys2Proof/Machine/Retire.lean ====
section
/-! DEFINITION. Ends: a block's, an aborting grid's and a grid's, the profile ring, and arrivals of job-level barriers (R52-R54, R341, R365,
R438-R447, R469). -/
namespace Sys2Proof.Machine

/-! ### The end of a block (R438-R440, R446, R447) -/

/-- The block profile record (R446) as fields. -/
def Block.profFields (b : Block) (g : Grid) (now seq : Nat) : List FieldW :=
  [(0, 8, g.token.toNat), (8, 4, b.lin), (12, 1, b.core), (13, 1, b.slot), (14, 1, b.variant), (15, 1, b.milestone), (0x10, 4, b.nswitch),
   (0x14, 2, b.npark), (0x16, 2, b.npre), (0x18, 8, b.tplace), (0x20, 8, now), (0x28, 8, b.tstat.toNat)] ++
  ((List.range 133).map fun k => (0x40 + 8 * k, 8, (SMap.get b.prof k 0).toNat)) ++ [(0x3C, 4, seq)]

/-- Append a block's profile record (R446, R447). -/
def State.profile (s : State) (b : Block) (g : Grid) : State :=
  let r := ctxReg b.ctx 0x298
  let c := s.regN r
  let next := bits c 63 32
  if !bit c 4 then s
  else if (next + 2 ^ 32 - s.regN (ctxReg b.ctx 0x2A0)) % 2 ^ 32 == 2 ^ (c % 16) then s.setReg r (BitVec.ofNat 64 (c ||| 0x20))
  else
    let va := s.regN (ctxReg b.ctx 0x290) + 1152 * (next % 2 ^ (c % 16))
    (s.ctxRec b.ctx va 1152 (b.profFields g s.time ((next + 1) % 2 ^ 32))).setReg r (setField (BitVec.ofNat 64 c) 63 32 (next + 1))

/-- The first asynchronous fault that a block still carries (R381, R393). -/
def Block.owed (b : Block) : Option Cause :=
  ((b.tile.ops ++ b.warps.flatMap Warp.ops).findSome? Op.err).or (b.warps.findSome? fun w => w.threads.findSome? fun th => th.imps.head?)
/-- The block no longer owes its asynchronous faults; how many it owed. -/
def Block.forgive (b : Block) : Block × Nat :=
  let n := (((b.tile.ops ++ b.warps.flatMap Warp.ops).filter fun o => o.err.isSome).map Op.id).eraseDups.length + ((b.warps.flatMap Warp.threads).map fun th => th.imps.length).sum
  let f := fun (ops : List Op) => ops.filter fun o => o.err.isNone
  ({ b with
     tile := { b.tile with ops := f b.tile.ops }
     warps := b.warps.map fun (w : Warp) => { w with ops := f w.ops, threads := w.threads.map fun (th : Thread) => { th with imps := [] } } }, n)

/-- A block can end (R438): its threads have exited or its grid's abort has stopped it, and its engine work is over. -/
def State.blockOver (s : State) (b : Block) : Bool :=
  !s.busy b && !s.frozenCtx b.ctx && match s.gridOf b with
    | some g => (g.phase == .aborting && g.closed) || (b.live.isEmpty && b.state == .running && !b.spillWait)
    | none => false

/-- BLOCK_END (R438-R440): a fault still pending aborts the grid first (R393, R439). -/
def execBlockEnd (core slot : Nat) (s : State) : Res :=
  match s.block? core slot with
  | none => notNow "BLOCK_END"
  | some b =>
    if !s.blockOver b then notNow "BLOCK_END"
    else
      match b.owed with
      | some c =>
        let n := b.forgive.2
        .next ((List.range n).foldl (fun s k => s.abortGrid b.grid b.lin (if k == 0 then { c with impr := true } else c) (some b))
          (s.modBlock core slot fun b => b.forgive.1))
      | none =>
        match s.gridOf b with
        | none => notNow "BLOCK_END"
        | some g =>
          let s1 := s.profile b g
          .next (({ s1 with blocks := s1.blocks.filter fun x => !(x.core == core && x.slot == slot) }.modGrid b.grid fun x => { x with ended := x.ended + 1 }).dbarCheck b.grid)

/-! ### Grid abort (R52-R54, R365) -/

/-- An abort whose first steps have not been taken. -/
def Grid.stopping (g : Grid) : Bool := g.phase == .aborting && !g.closed
/-- Queue objects of the producer bindings of a block. -/
def Block.producers (b : Block) : List Dword :=
  b.warps.flatMap fun w => w.threads.flatMap fun th => th.binds.filterMap fun x => if x.2.prod then some x.2.obj else none

/-- GRID_ABORT (R52, R54, R409, R410): dispatch, threads and tile sides of the grid stop, commands that have not started or are held and remote operations
that have not left are dropped, saved frames are discarded. -/
def execGridAbort (grid : Nat) (s : State) : Res :=
  match s.grid? grid with
  | none => notNow "GRID_ABORT"
  | some g =>
    if !g.stopping then notNow "GRID_ABORT"
    else
      let unsent := (s.outbound.filterMap fun o => match o.2.2 with | .request _ tag _ _ _ _ _ _ _ _ => some tag | _ => none) ++
        s.remIn.filterMap fun r => if r.own then some r.tag else none
      let gone := (s.remOut.filter fun r => r.grid == grid && unsent.contains r.tag).map RemOut.tag
      let closes := ((s.blocksOf grid).flatMap Block.producers).eraseDups
      let slots := (s.blocks.filter fun b => b.grid == grid).map fun b => (b.core, b.slot)
      .next ((List.range 8).foldl (fun s r => s.xrSync g.ctx r) <| (if s.rbState g.ctx == 0 then id else fun (s : State) => s.heldOutSync [g.ctx]) <| { s with
        cores := s.cores.map fun (c : Nat × CoreSt) => (c.1, { c.2 with
          cq := c.2.cq.filter fun m => !(m.grid == grid && (m.st == CmdSt.queued || m.st == CmdSt.held))
          mrets := c.2.mrets.filter fun m => !slots.contains (c.1, m.slot) })
        quads := s.quads.map fun (q : Nat × QuadSt) => (q.1, { q.2 with tab := q.2.tab.filter fun p => p.grid != grid })
        xreqs := s.xreqs.filter fun r => r.grid != grid || r.started
        remOut := s.remOut.filter fun r => !gone.contains r.tag
        remIn := s.remIn.filter fun r => !(r.own && gone.contains r.tag)
        outbound := s.outbound.filter fun o => match o.2.2 with | .request _ tag _ _ _ _ _ _ _ _ => !gone.contains tag | _ => true
        saved := s.saved.filter fun v => v.grid != grid
        blocks := s.blocks.map fun (b : Block) => if b.grid == grid then b.freeze .debug else b }.modGrid grid fun x => { x with
          closed := true, closes := closes, ended := x.ended + (s.saved.filter fun (v : Saved) => v.grid == grid).length })

/-! ### The end of a grid (R441, R442, R469) -/

/-- Work of a grid at engines and other devices that has not ended (R441). -/
def State.gridBusy (s : State) (g : Nat) : Bool :=
  (s.cores.any fun c => c.2.cq.any fun m => m.grid == g) || (s.quads.any fun q => match q.2.run with | some p => p.grid == g | none => false) ||
  (s.remOut.any fun r => r.grid == g) || s.xreqs.any fun r => r.grid == g
/-- A grid can retire: its last block has ended, or its abort has no block left (R441, R52). -/
def State.retireNow (s : State) (g : Grid) : Bool :=
  ((g.phase == .running || g.phase == .retiring) && g.next == g.nblkAll && g.ended == g.nblkAll || (g.phase == .aborting && g.closed)) &&
  (s.blocksOf g.id).isEmpty && !s.gridBusy g.id && freeHold g.hold && !s.frozenCtx g.ctx

/-- The pages of n bytes at va can all be written for a queue: the outcome of the first that cannot (R469). -/
def State.devPages (s : State) (ctx q : Nat) (tok : Dword) (cancel : Option Nat) (va n : Nat) : List Nat → DA
  | [] => .ok s 0 0
  | k :: ks =>
    let a := if k == 0 then va else (va / 65536 + k) * 65536
    if va + n ≤ a then .ok s 0 0
    else
      match s.devAcc ctx q tok a 1 .write cancel with
      | .ok s1 _ _ => State.devPages s1 ctx q tok cancel va n ks
      | r => r

/-- Hold a grid's retirement at an address. -/
def State.holdGrid (s : State) (g : Nat) (va : Nat) : State := s.modGrid g fun x => { x with hold := some (heldOn va) }

/-- WriteCSF (R52, R397, R469): the frame of the first faulting block at ABORTCSF with every row inline; none while the write is held. -/
def State.abortFrame (s : State) (g : Grid) (cancel : Option Nat) : Option State × State :=
  let va := recN g.raw.toNat 0x68 8
  match g.snap, g.first with
  | some b, some c =>
    if va == 0 then (some s, s)
    else
      let n := b.fsize g
      match s.devPages g.ctx g.q g.token cancel va n (List.range (n / 65536 + 2)) with
      | .ok s1 _ _ => (some ((s1.writeFrame b g va c.code (b.fflags false true) 0 [] []).modGrid g.id fun x => { x with snap := none }), s1)
      | .bad s1 => (some ((s1.lqSet g.ctx g.q 0x2000).modGrid g.id fun x => { x with snap := none }), s1)
      | .held s1 a => (none, s1.holdGrid g.id a)
  | _, _ => (some s, s)

/-- CloseQueues (R52): CLOSED is set in each queue object that the grid's threads produced for. -/
def State.closeQueues (s : State) (g : Grid) : State :=
  g.closes.foldl (fun s o => match s.translate (.l2 0) g.ctx o.toNat .write with
    | (s1, .ok pa a) => s1.pwrite g.ctx (pa + 13) 1 1 a
    | (s1, _) => s1) s

/-- How many of n entries of a free list from an address can be written, and how it stopped: no more to write, a failure, or held at an address. -/
def State.freeRoom (s : State) (g : Grid) (cancel : Option Nat) (va : Nat) : Nat → Nat → State × Nat × Option (Option Nat)
  | 0, k => (s, k, none)
  | n + 1, k =>
    match s.devAcc g.ctx g.q g.token (va + 4 * k) 4 .own cancel with
    | .ok s1 _ _ => State.freeRoom s1 g cancel va n (k + 1)
    | .bad s1 => (s1, k, some none)
    | .held s1 a => (s1, k, some (some a))
/-- Return the unused blocks of the grid's reservations (R29, R40, R441, R469); none while an access is held. What cannot be written stays out of
the free list. -/
def State.returnBlocks (s : State) (g : Grid) (cancel : Option Nat) : List PoolRes → Option State × State
  | [] => (some s, s)
  | r :: rs =>
    let clr := fun (s : State) => s.modGrid g.id fun x => { x with resv := x.resv.map fun y => if y.decl == r.decl then { y with blocks := [] } else y }
    let bad := fun (s : State) => State.returnBlocks (clr (s.lqSet g.ctx g.q 0x2000)) g cancel rs
    if r.blocks.isEmpty then State.returnBlocks s g cancel rs
    else
      match s.devN g.ctx g.q g.token cancel r.hdr.toNat 64 with
      | .held s1 va => (none, s1.holdGrid g.id va)
      | .bad s1 => bad s1
      | .ok s1 hb =>
        let nf := leNat ((hb.drop 0x18).take 8)
        let fl := leNat ((hb.drop 0x28).take 8)
        match s1.freeRoom g cancel (fl + 4 * nf) r.blocks.length 0 with
        | (s2, _, some (some a)) => (none, s2.holdGrid g.id a)
        | (s2, n, stop) =>
          match s2.devAcc g.ctx g.q g.token (r.hdr.toNat + 0x18) 8 .own cancel with
          | .held s3 a => (none, s3.holdGrid g.id a)
          | .bad s3 => bad s3
          | .ok s3 pa at' =>
            let s4 := (List.range n).foldl (fun s k => match s.devW g.ctx g.q g.token none (fl + 4 * (nf + k)) 4 (r.blocks.getD k 0) with
              | .ok s _ _ => s | .held s _ => s | .bad s => s) s3
            let s5 := s4.pwrite g.ctx (pa) (nf + n) 8 at'
            State.returnBlocks (clr (if stop.isSome then s5.lqSet g.ctx g.q 0x2000 else s5)) g cancel rs

/-- The staging ways of a grid return to the cache, their contents discarded (R237). -/
def State.dropStaging (s : State) (g : Grid) : State :=
  { s with staging := g.claims.foldl (fun (m : Mem) c =>
      (List.range 64).foldl (fun m j => c.2.2.2.foldl (fun m w => Mem.clear m (stageAt (64 * c.2.1 + j) w 0) 131072) m) m) s.staging }

/-- GRID_RETIRE (R441, R442): held at the first access that is held, and continued by a later step. -/
def execGridRetire (grid : Nat) (s : State) : Res :=
  match s.grid? grid with
  | none => notNow "GRID_RETIRE"
  | some g =>
    if !s.retireNow g then notNow "GRID_RETIRE"
    else
      let cancel := cancelOf g.hold
      let s1 := g.cores.foldl (fun s c => s.l1Flush c) (s.modGrid grid fun x => { x with phase := if x.phase == .running then .retiring else x.phase, hold := none })
      let s2 := s1.hostDrop g.ctx
      match s2.abortFrame g cancel with
      | (none, s3) => .next s3
      | (some s3, _) =>
        match ((s3.closeQueues g).dropStaging g).returnBlocks g cancel g.resv with
        | (none, s4) => .next s4
        | (some s4, _) =>
          let cr := crecOf g.token g.status ((g.first.map Cause.code).getD 0) g.nfaults 0 0 g.fva.toNat g.fblock g.tstart s4.time g.nblk (min g.nswitch 0xFFFFFFFF)
            (min g.npark 0xFFFFFFFF)
          match s4.writeCrec g.ctx g.q g.raw.toNat g.token cr cancel with
          | (none, s5) => .next (s5.holdGrid grid (recN g.raw.toNat 0x40 8))
          | (some s5, _) => .next ({ s5 with grids := s5.grids.filter fun x => x.id != grid }.recDone g.ctx g.q g.ring g.status)

/-! ### Job-level barriers (R341) -/

/-- DBAR_FABRIC_ARRIVAL (R341): the arrival counts at the grid of its job and tag, and is kept when there is none yet. -/
def execDbarFabricArrival (job jtag id dev : Nat) (s : State) : Res :=
  match s.grids.find? fun g => g.jobid == job && g.jtag == jtag && job != 0 with
  | some g => .next ((s.modGrid g.id fun x => { x with jobArr := SMap.put x.jobArr (id * 1024 + dev) (SMap.get x.jobArr (id * 1024 + dev) 0 + 1) }).dbarCheck g.id)
  | none => .next { s with jobPend := s.jobPend ++ [(job, jtag, id, dev)] }

end Sys2Proof.Machine
end

