-- ==== Sys2Proof/Machine/TileScalar.lean ====
section
/-! DEFINITION. How a slot of a bundle issues (R99, R112, R122, R183), and the S slot: scalars, scratchpad, control, loops, configuration,
waits, SYSRD, TRAPT and RGATE (R185-R196, R215). -/
namespace Sys2Proof.Machine

/-! ### Issue of a slot -/

/-- What a slot does: it takes effect, transfers control, stalls with a cause of R126, is held by a page fault on its tensor record (R288), or meets a synchronous fault (R183). -/
inductive SEff
  | ok (s : State)
  | jump (s : State) (pc : Dword)
  | stall (k : Nat)
  | hold (s : State)
  | fault (s : State) (c : Cause)

/-- Change the tile context of a task slot. -/
def State.modTile (s : State) (core slot : Nat) (f : TileCtx → TileCtx) : State := s.modBlock core slot fun b => { b with tile := f b.tile }
/-- Change the tile context of a block's slot. -/
def State.onTile (s : State) (b : Block) (f : TileCtx → TileCtx) : State := s.modTile b.core b.slot f

/-- A guard holds (R99). -/
def SGuard.holds (g : SGuard) (t : TileCtx) : Bool := match g with | .always => true | .sg i => t.sg.getLsbD i.toNat

/-- A fault of a slot at its bundle (R183, R380). -/
def Block.tcauseOf (b : Block) (code info : Nat) : Cause := { causeOf code info b.tile.pc with tpc := b.tile.pc }
/-- ILLEGAL_ENCODING at issue: h0 holds bits [255:192] of the bundle (R380). -/
def State.tIllegal (s : State) (b : Block) : SEff := .fault s (b.tcauseOf cIllegalEncoding s.cur.word.toNat)
/-- A fault of a slot that changes nothing else. -/
def State.tFail (s : State) (b : Block) (code info : Nat) : SEff := .fault s (b.tcauseOf code info)

/-- A slot other than S issues for the task slot of this step: nothing when its guard does not hold (R99), a stall mark (R126), or a
synchronous fault (R183). -/
def runSlot (g : SGuard) (eff : State → Block → SEff) (s : State) : Res :=
  match s.block? s.cur.core s.cur.slot with
  | none => .next s
  | some b =>
    if !SGuard.holds g b.tile then .next s
    else
      match eff s b with
      | .ok s1 => .next s1
      | .jump s1 _ => .next s1
      | .stall k => .next { s with tileStall := k }
      | .hold s1 => .next { s1 with tileStall := 1 }
      | .fault s1 c => .next (s1.tileFault b.core b.slot c false)

/-- The S slot issues: the tile PC goes to the next bundle, or to the target of a taken transfer (R125, R187). -/
def runS (g : SGuard) (eff : State → Block → SEff) (s : State) : Res :=
  match s.block? s.cur.core s.cur.slot with
  | none => .next s
  | some b =>
    if !SGuard.holds g b.tile then .next (s.onTile b fun t => { t with pc := t.pc + 32 })
    else
      match eff s b with
      | .ok s1 => .next (s1.onTile b fun t => { t with pc := b.tile.pc + 32 })
      | .jump s1 pc => .next (s1.onTile b fun t => { t with pc := pc })
      | .stall k => .next { s with tileStall := k }
      | .hold s1 => .next { s1 with tileStall := 1 }
      | .fault s1 c => .next (s1.tileFault b.core b.slot c false)

/-- A result that lands n schedule clk after its bundle (R122). -/
def State.land (s : State) (b : Block) (unit : Nat) (d : IDest) (n : Nat) (tst : BitVec 5) (v : Nat) : State :=
  s.onTile b fun t => { t with infl := t.infl ++ [⟨unit, d, n, tst, v, t.sclk.toNat⟩] }

/-- A write of a port has yet to be performed. -/
def InFlight.isPort (f : InFlight) : Bool := match f.dest with | .port _ => true | _ => false
/-- A write of a register-backed tile has yet to be performed. -/
def InFlight.isTile (f : InFlight) : Bool := match f.dest with | .handle _ => true | _ => false
/-- Where an engine operation of a slot stands among its accesses (R194, R202, R203, R288): under .rel every earlier one is ordered before it, after an
SFENCE of its class those before the SFENCE. -/
def TileCtx.order (t : TileCtx) (rel c0 : Bool) : Nat × Nat := (if rel then t.sclk.toNat else 0, if c0 then t.fence else 0)
/-- A result in flight that an engine operation is ordered after. -/
def InFlight.first (f : InFlight) (a : Nat × Nat) : Bool :=
  (decide (f.iss < a.1) && (f.isPort || f.isTile)) || (decide (f.iss < a.2) && f.isPort)
/-- Every access that an engine operation of a block is ordered after has been performed. -/
def Block.inOrder (b : Block) (a : Nat × Nat) : Bool := !b.tile.infl.any fun f => f.first a

/-- A scalar as a bundle reads it (R112). -/
def TileCtx.sv (t : TileCtx) (r : SReg) : Dword := SMap.get t.s r.toNat 0

/-- A scalar result of latency 1. -/
def sAlu (g : SGuard) (d : SReg) (f : TileCtx → Dword) (s : State) : Res :=
  runS g (fun s b => .ok (s.land b 1 (.scalar d.toNat) 1 0 (f b.tile).toNat)) s

/-! ### Arithmetic (R185) -/

/-- SNOP (R98). -/
def execSnop (s : State) : Res := runS .always (fun s _ => .ok s) s
/-- SADD. -/
def execSadd (g : SGuard) (d a b : SReg) (s : State) : Res := sAlu g d (fun t => t.sv a + t.sv b) s
/-- SADDI. -/
def execSaddi (g : SGuard) (d a : SReg) (imm : BitVec 16) (s : State) : Res := sAlu g d (fun t => t.sv a + imm.signExtend 64) s
/-- SSUB. -/
def execSsub (g : SGuard) (d a b : SReg) (s : State) : Res := sAlu g d (fun t => t.sv a - t.sv b) s
/-- SMUL. -/
def execSmul (g : SGuard) (d a b : SReg) (s : State) : Res := sAlu g d (fun t => t.sv a * t.sv b) s
/-- SAND. -/
def execSand (g : SGuard) (d a b : SReg) (s : State) : Res := sAlu g d (fun t => t.sv a &&& t.sv b) s
/-- SOR. -/
def execSor (g : SGuard) (d a b : SReg) (s : State) : Res := sAlu g d (fun t => t.sv a ||| t.sv b) s
/-- SXOR. -/
def execSxor (g : SGuard) (d a b : SReg) (s : State) : Res := sAlu g d (fun t => t.sv a ^^^ t.sv b) s
/-- SSHL: 0 from 64 on. -/
def execSshl (g : SGuard) (d a b : SReg) (s : State) : Res :=
  sAlu g d (fun t => if 64 ≤ (t.sv b).toNat then 0 else t.sv a <<< (t.sv b).toNat) s
/-- SSHR: 0 from 64 on. -/
def execSshr (g : SGuard) (d a b : SReg) (s : State) : Res :=
  sAlu g d (fun t => if 64 ≤ (t.sv b).toNat then 0 else t.sv a >>> (t.sv b).toNat) s
/-- SSAR: copies of the sign from 64 on. -/
def execSsar (g : SGuard) (d a b : SReg) (s : State) : Res :=
  sAlu g d (fun t => (t.sv a).sshiftRight (min (t.sv b).toNat 63)) s
/-- SMOV. -/
def execSmov (g : SGuard) (d a : SReg) (s : State) : Res := sAlu g d (fun t => t.sv a) s
/-- SMOVI, short form. -/
def execSmovi (g : SGuard) (d : SReg) (imm : BitVec 26) (s : State) : Res := sAlu g d (fun _ => imm.signExtend 64) s
/-- SMOVI, long form (R100). -/
def execSmoviLong (g : SGuard) (d : SReg) (imm : BitVec 64) (s : State) : Res := sAlu g d (fun _ => imm) s
/-- SCMP. -/
def execScmp (g : SGuard) (d a b : SReg) (cond : SCond) (s : State) : Res :=
  sAlu g d (fun t => if scondTest cond (t.sv a) (t.sv b) then 1 else 0) s
/-- SSEL. -/
def execSsel (g : SGuard) (d a b c : SReg) (s : State) : Res := sAlu g d (fun t => if t.sv c != 0 then t.sv a else t.sv b) s

/-! ### Scratchpad (R186) -/

/-- The checks of a tile access of n bytes at scratchpad byte x, aligned to al: the cause, if any (R186, R190, R191, R240). -/
def State.tileSpad (s : State) (b : Block) (x n al : Nat) (rdA : Bool) : Option Cause :=
  if x % al != 0 then some (b.tcauseOf cMisaligned x)
  else if 4096 * b.sprows < x + n then some (b.tcauseOf cBounds x)
  else if rdA && s.spadUe b x n then some (b.tcauseOf cUncorrectable x)
  else none

/-- SLD: the bytes are read at issue and land 6 schedule clk later. -/
def execSld (g : SGuard) (d a : SReg) (off : BitVec 16) (s : State) : Res :=
  runS g (fun s b =>
    let x := (b.tile.sv a + off.signExtend 64).toNat
    match s.tileSpad b x 8 8 true with
    | some c => .fault s c
    | none => .ok (s.land b 1 (.scalar d.toNat) 6 0 (Mem.readN b.spad x 8))) s
/-- SST: the bytes are written at issue. -/
def execSst (g : SGuard) (d a : SReg) (off : BitVec 16) (s : State) : Res :=
  runS g (fun s b =>
    let x := (b.tile.sv a + off.signExtend 64).toNat
    match s.tileSpad b x 8 8 false with
    | some c => .fault s c
    | none => .ok (s.spadWrite b x 8 (b.tile.sv d).toNat)) s

/-! ### Control (R187-R189) -/

/-- A bundle offset from the bundle that holds the instruction. -/
def TileCtx.target {n : Nat} (t : TileCtx) (off : BitVec n) : Dword := t.pc + 32 * off.signExtend 64

/-- SBR. -/
def execSbr (g : SGuard) (a : SReg) (off : BitVec 16) (s : State) : Res :=
  runS g (fun s b => if b.tile.sv a != 0 then .jump s (b.tile.target off) else .ok s) s
/-- SJMP. -/
def execSjmp (g : SGuard) (off : BitVec 26) (s : State) : Res := runS g (fun s b => .jump s (b.tile.target off)) s
/-- SCALL. -/
def execScall (g : SGuard) (d : SReg) (off : BitVec 26) (s : State) : Res :=
  runS g (fun s b => .jump (s.land b 1 (.scalar d.toNat) 1 0 (b.tile.pc + 32).toNat) (b.tile.target off)) s
/-- SRET. -/
def execSret (g : SGuard) (a : SReg) (s : State) : Res := runS g (fun s b => .jump s (b.tile.sv a &&& ~~~31#64)) s

/-- The stage predicates of pass i for C passes of S stages (R127). -/
def stagePreds (i c st : Nat) : BitVec 8 :=
  BitVec.ofNat 8 ((List.range st).foldl (fun m j => if j ≤ i && i < c + j then m + 2 ^ j else m) 0)
/-- The loop record of a counter. -/
def TileCtx.loopRec (t : TileCtx) (l : Nat) : LoopRec := SMap.get t.loops l ⟨0, 0, 0, false⟩

/-- LOOP (R127, R188): a loop of no passes starts the scan for its LBR. -/
def execLoop (g : SGuard) (lc : BitVec 3) (a : SReg) (stages : BitVec 4) (s : State) : Res :=
  runS g (fun s b =>
    let l := lc.toNat
    if (b.tile.loopRec l).active then s.tIllegal b
    else
      let c := ((b.tile.sv a).extractLsb' 0 32).toNat
      let st := stages.toNat
      let p := if st == 0 then c else c + st - 1
      if p == 0 then .ok (s.onTile b fun t => { t with scan := some l })
      else
        let s1 := s.onTile b fun t => { t with loops := SMap.put t.loops l ⟨p, st, t.sg, true⟩, loopOrd := l :: t.loopOrd }
        let s2 := s1.land b 1 (.loop l) 1 0 0
        .ok (if st == 0 then s2 else s2.land b 1 .sgs 1 0 (stagePreds 0 c st).toNat)) s

/-- LBR (R189). -/
def execLbr (g : SGuard) (lc : BitVec 3) (off : BitVec 16) (s : State) : Res :=
  runS g (fun s b =>
    let l := lc.toNat
    let r := b.tile.loopRec l
    if !r.active then s.tIllegal b
    else
      let i := (SMap.get b.tile.lc l 0).toNat
      if i + 1 < r.passes then
        let s1 := s.land b 1 (.loop l) 1 0 (i + 1)
        .jump (if r.stages == 0 then s1 else s1.land b 1 .sgs 1 0 (stagePreds (i + 1) (r.passes + 1 - r.stages) r.stages).toNat) (b.tile.target off)
      else
        let s1 := s.onTile b fun t => { t with loops := SMap.put t.loops l { r with active := false }, loopOrd := t.loopOrd.erase l }
        .ok (if r.stages == 0 then s1 else s1.land b 1 .sgs 1 0 r.saved.toNat)) s

/-! ### Ports and the format table (R190, R192) -/

/-- A malformed port descriptor (R190). -/
def portBad (d : Nat) : Bool :=
  2 ≤ bits d 39 32 || 8 ≤ bits d 47 40 || bits d 55 54 != 3 * bits d 53 53 || bits d 63 56 != 0 ||
  ((List.range 4).any fun k => bits d (64 + 16 * k + 15) (64 + 16 * k) == 0) || bits d 511 256 != 0

/-- PCFG. -/
def execPcfg (g : SGuard) (pt : BitVec 2) (a : SReg) (off : BitVec 16) (s : State) : Res :=
  runS g (fun s b =>
    let x := (b.tile.sv a + off.signExtend 64).toNat
    match s.tileSpad b x 64 64 true with
    | some c => .fault s c
    | none =>
      let d := Mem.readN b.spad x 64
      if portBad d then s.tIllegal b else .ok (s.land b 1 (.pcfg pt.toNat) 1 0 d)) s
/-- FMTW, entry form. -/
def execFmtw (g : SGuard) (e : BitVec 4) (a : SReg) (s : State) : Res :=
  runS g (fun s b =>
    let v := (b.tile.sv a).toNat
    if 2 ^ 10 ≤ v || 10 ≤ v % 16 then s.tIllegal b else .ok (s.land b 1 (.fmt e.toNat) 1 0 v)) s
/-- FMTW.sel. -/
def execFmtwSel (g : SGuard) (lc : BitVec 3) (s : State) : Res := runS g (fun s b => .ok (s.land b 1 .fsel 1 0 lc.toNat)) s

/-! ### Waits, fences, SYSRD, TRAPT (R193-R196) -/

/-- WAITE (R193, R393). -/
def execWaite (g : SGuard) (eng : Eng) (n : BitVec 6) (s : State) : Res :=
  runS g (fun s b =>
    match needErr eng n.toNat b.tile.ops with
    | some (id, c) => .fault (s.modBlock b.core b.slot fun b => b.clearErr id) c
    | none => if countOps b.tile.ops eng ≤ n.toNat then .ok s else .stall 5) s
/-- SFENCE (R194): SLD, SST and the reads of ports are performed at issue and the writes of completed commands have reached every scope, so that only port
writes in flight are left, which later operations of class c0, MGO, MRET and commands of that CLS, come after. -/
def execSfence (g : SGuard) (_scope : Scope) (mask : BitVec 16) (s : State) : Res :=
  runS g (fun s b => .ok (if mask.getLsbD 0 then s.onTile b fun t => { t with fence := t.sclk.toNat } else s)) s
/-- SYSRD (R195, R389). -/
def execSysrd (g : SGuard) (d : SReg) (num : BitVec 16) (s : State) : Res :=
  runS g (fun s b =>
    let n := num.toNat
    let t := b.tile
    if sysHandler n then s.tFail b cPrivilege s.cur.word.toNat
    else
      let v : Dword :=
        if 0x100 ≤ n && n ≤ 0x105 then (SMap.get t.lc (n - 0x100) 0).setWidth 64
        else if n == 0x108 then t.sclk
        else if n == 0x110 then t.sg.setWidth 64
        else s.sysRead b n
      .ok (s.land b 1 (.scalar d.toNat) 1 0 v.toNat)) s
/-- TRAPT (R196): the bundle issues, the tile PC names the next bundle, and the gate thread takes TRAP_INSTR (R392). -/
def execTrapt (g : SGuard) (code : BitVec 16) (s : State) : Res :=
  runS g (fun s b =>
    let c := { b.tcauseOf cTrap code.toNat with tpc := b.tile.pc + 32 }
    .ok ({ s.onTile b fun t => { t with pc := t.pc + 32 } with tileTrap := true }.tileFault b.core b.slot c false)) s

/-! ### RGATE (R215) -/

/-- The register and lane of element (y, x) of a handle (R21): the thread of the role, the register and the low bit. -/
def Handle.place (h : Handle) (y x : Nat) : Nat × Nat × Nat :=
  let per := Fmt.perReg h.fmt
  let k := if h.lane then y else x
  ((if h.lane then h.t0 + x else h.t0 + y), h.reg0 + k / per, k % per * (32 / per))
/-- The block-warp and lane of a role's thread. -/
def Block.roleThread (b : Block) (r t : Nat) : Nat × Nat := ((b.roleWarp r (t / 32)).getD 0, t % 32)
/-- The registers of a handle: block-warp, lane, register. -/
def Block.handleRegs (b : Block) (h : Handle) : List (Nat × Nat × Nat) :=
  let nt := if h.lane then h.ncols else h.nrows
  let ne := if h.lane then h.nrows else h.ncols
  (List.range nt).flatMap fun t =>
    let (w, l) := b.roleThread h.role (h.t0 + t)
    (List.range (ne / Fmt.perReg h.fmt)).map fun r => (w, l, h.reg0 + r)
/-- A register bound to a handle is uncorrectable (R240). -/
def State.handleUe (s : State) (b : Block) (h : Handle) : Bool :=
  !s.poolBad.isEmpty && (b.handleRegs h).any fun p => s.poolBad.contains (b.regWord p.1 p.2.1 (BitVec.ofNat 8 p.2.2))
/-- Clear the registers of a handle. -/
def Block.clearHandle (b : Block) (h : Handle) : Block :=
  (b.handleRegs h).foldl (fun b p => b.modThread p.1 p.2.1 fun th => { th with regs := SMap.del th.regs p.2.2 }) b

/-- Clear the registers of the handles that a mask leaves out. -/
def Block.clearTiles (b : Block) (hs : SMap Handle) (mask : BitVec 16) : Block :=
  hs.foldl (fun b h => if mask.getLsbD h.1 then b else b.clearHandle h.2) b

/-- A command of a task slot that writes a register-backed tile (R215). -/
def Cmd.writesTile (m : Cmd) : Bool :=
  match m.i with
  | .cld _ c _ | .cmc _ c _ | .cgat _ c _ _ _ _ => (match c.loc with | .tile _ => m.hnd.isSome | .ring _ => false)
  | _ => false
/-- RGATE must wait for an engine: a matrix operation, a command that writes a tile, or a warp counter without room (R215). -/
def State.rgateWaits (s : State) (b : Block) : Bool :=
  decide (0 < countOps b.tile.ops .matrix) || ((s.core b.core).cq.any fun m => m.slot == b.slot && m.grid == b.grid && m.lin == b.lin && m.writesTile) ||
  [Eng.copy, .matrix, .gather, .xform, .remote].any fun e => b.warps.any fun w => w.inGate && decide (63 < countOps w.ops e + countOps b.tile.ops e)
/-- The block after RGATE: registers of unmasked tiles cleared, counts handed to the warps that took part, loops ended, handles unbound,
threads resumed after GATE. -/
def Block.rgate (b : Block) (mask : BitVec 16) : Block :=
  let b1 := b.clearTiles b.tile.handles mask
  let b2 := { b1 with warps := b1.warps.map fun (w : Warp) => { w with
    ops := if w.inGate then w.ops ++ b.tile.ops else w.ops
    inGate := false
    threads := w.threads.map fun (th : Thread) => if th.st != ThState.gated then th else
      { th with st := .running, wait := none, pc := if th.wait.isSome then th.pc + 8 else th.pc, taken := [], waited := 0 } } }
  { b2 with
    gate := b2.gate.map fun (f : GateFrame) => { f with gated := false }
    tile := { b2.tile with ops := [], loops := b2.tile.loops.map fun (r : Nat × LoopRec) => (r.1, { r.2 with active := false })
                           loopOrd := [], sg := 0, handles := [], joined := false } }.syncPoint

/-- RGATE (R215, R393): the tile sequencer then looks for another slot (R129). -/
def execRgate (g : SGuard) (mask : BitVec 16) (s : State) : Res :=
  runS g (fun s b =>
    match b.pendingErr with
    | some (id, c) => .fault (s.modBlock b.core b.slot fun b => b.clearErr id) c
    | none =>
      if !b.tile.infl.isEmpty then .stall 2
      else if s.rgateWaits b then .stall 5
      else
        let s1 := (s.traceTile b 2).modBlock b.core b.slot fun b => b.rgate mask
        .ok (s1.modCore b.core fun c => { c with seqFree := true })) s

end Sys2Proof.Machine
end

