-- ==== Sys2Proof/Machine/TileVector.lean ====
section
/-! DEFINITION. The V slot: formats in force, ports, vector operands and the vector instructions (R103, R106, R128, R146, R147, R191,
R205-R212). -/
namespace Sys2Proof.Machine

/-! ### Formats in force (R103, R128, R192) -/

/-- A format selector at issue: the format and its scale. -/
def TileCtx.fsel? (t : TileCtx) (f : FSel) : Fmt × Int :=
  match f with
  | .fmt x => (x, 0)
  | .table =>
    let e := SMap.get t.ftab ((SMap.get t.lc t.fsel 0).toNat % 16) 0
    ((Fmt.ofCode (e.extractLsb' 0 4)).getD .fp32, (e.extractLsb' 4 6).toInt)
/-- A selector at issue in the formats that an instruction accepts. -/
def TileCtx.fselIn (t : TileCtx) (f : FSel) (ok : List Fmt) : Option (Fmt × Int) :=
  let r := t.fsel? f
  if ok.contains r.1 then some r else none

/-- The formats between which conversions go (R206, R213). -/
def convFmts : List Fmt := [.fp32, .fp16, .bf16, .tf8, .tf6, .int8, .int32, .uint8]

/-! ### Ports (R190, R191) -/

/-- Fields of a port descriptor: write port, format, scale. -/
def Port.isWrite (p : Port) : Bool := p.desc.getLsbD 32
/-- PFMT. -/
def Port.fmt (p : Port) : Fmt := (Fmt.ofCode (p.desc.extractLsb' 40 4)).getD .fp32
/-- PSCALE. -/
def Port.scale (p : Port) : Int := (p.desc.extractLsb' 48 6).toInt
/-- CNT d. -/
def Port.cnt (p : Port) (d : Nat) : Nat := (p.desc.extractLsb' (64 + 16 * d) 16).toNat
/-- STR d. -/
def Port.str (p : Port) (d : Nat) : Int := (p.desc.extractLsb' (128 + 32 * d) 32).toInt
/-- The address of the port's next vector, mod 2^64 (R191). -/
def Port.addr (p : Port) : Nat :=
  let v := p.next
  let c0 := v % p.cnt 0
  let c1 := v / p.cnt 0 % p.cnt 1
  let c2 := v / p.cnt 0 / p.cnt 1 % p.cnt 2
  let c3 := v / p.cnt 0 / p.cnt 1 / p.cnt 2
  (BitVec.ofInt 64 (((p.desc.extractLsb' 0 32).toNat : Int) + c0 * p.str 0 + c1 * p.str 1 + c2 * p.str 2 + c3 * p.str 3)).toNat
/-- The port after one vector (R191). -/
def Port.step (p : Port) : Port := { p with next := (p.next + 1) % (p.cnt 0 * p.cnt 1 * p.cnt 2 * p.cnt 3) }
/-- Bytes of 64 elements (R191). -/
def vecBytes (f : Fmt) : Nat := 8 * f.width
/-- The element alignment of a port's vectors (R191). -/
def Port.align (p : Port) : Nat := if p.fmt == .tf6 then 1 else p.fmt.width / 8

/-- 64 lanes as one number. -/
def packLanes (f : Nat → Nat) : Nat := (List.range 64).foldr (fun i a => f i % 2 ^ 32 + 2 ^ 32 * a) 0
/-- Lane i of a vector. -/
def laneOf (v i : Nat) : Nat := v >>> (32 * i) % 2 ^ 32

/-- A popped element as a lane (R191): floats become exact FP32, integers are extended. -/
def portLane (f : Fmt) (sc : Int) (x : Nat) : Nat :=
  match f with
  | .fp32 | .int32 => x
  | .int8 => (BitVec.ofInt 32 (sextN 8 x)).toNat
  | .uint8 => x
  | _ => (convertTile f .fp32 .rn sc 0 x).bits
/-- The vector at a scratchpad byte in a port's format. -/
def portRead (spad : Mem) (f : Fmt) (sc : Int) (x : Nat) : Nat :=
  let w := f.width
  let v := Mem.readN spad x (vecBytes f)
  packLanes fun i => portLane f sc (v >>> (w * i) % 2 ^ w)
/-- A lane as a write port stores it (R191). -/
def portStore (f : Fmt) (sc : Int) (x : Nat) : Conv :=
  match f with
  | .fp32 | .int32 => ⟨x, false, false, false⟩
  | .int8 | .uint8 => convertTile .int32 f .rn 0 0 x
  | _ => convertTile .fp32 f .rn 0 sc x

/-! ### Operands (R106) -/

/-- A vector source at issue. -/
inductive VSrc
  | ok (s : State) (v : Nat)
  | stall (k : Nat)
  | fault (s : State) (c : Cause)

/-- Pop a read port (R191). -/
def State.portPop (s : State) (b : Block) (n : Nat) : VSrc :=
  match (s.block? b.core b.slot).bind fun b => SMap.get? b.tile.ports n with
  | none => .fault s (b.tcauseOf cTileBinding n)
  | some p =>
    if p.isWrite then .fault s (b.tcauseOf cTileBinding n)
    else if p.arrive != 0 then .stall 3
    else
      match s.tileSpad b p.addr (vecBytes p.fmt) p.align true with
      | some c => .fault s c
      | none => .ok (s.onTile b fun t => { t with ports := SMap.put t.ports n p.step })
          (portRead (((s.block? b.core b.slot).map Block.spad).getD b.spad) p.fmt p.scale p.addr)

/-- A source operand. -/
def State.vsrc (s : State) (b : Block) (o : VOp) : VSrc :=
  match o with
  | .w n => .ok s (SMap.get b.tile.w n.toNat 0).toNat
  | .pt n => s.portPop b n.toNat
  | .ix _ => .ok s 0
  | .lit x => .ok s (packLanes fun _ => x.toNat)
  | .wz => .ok s 0

/-- Source operands in order. -/
def State.vsrcs (s : State) (b : Block) : List VOp → List Nat → SEff × List Nat
  | [], acc => (.ok s, acc.reverse)
  | o :: os, acc =>
    match s.vsrc b o with
    | .ok s1 v => State.vsrcs s1 b os (v :: acc)
    | .stall k => (.stall k, [])
    | .fault s1 c => (.fault s1 c, [])

/-- Write a vector result: to a register, to a reserved entry of a write port (R191), or nowhere; flags are set when it lands (R149). -/
def State.vdst (s : State) (b : Block) (o : VOp) (lat : Nat) (tst : BitVec 5) (v : Nat) : SEff :=
  match o with
  | .w n => .ok (s.land b 3 (.vector n.toNat) lat tst v)
  | .ix n => .ok (s.land b 3 (.index n.toNat) lat tst v)
  | .pt n =>
    match (s.block? b.core b.slot).bind fun b => SMap.get? b.tile.ports n.toNat with
    | none => .fault s (b.tcauseOf cTileBinding n.toNat)
    | some p =>
      if !p.isWrite then .fault s (b.tcauseOf cTileBinding n.toNat)
      else if 8 ≤ (b.tile.infl.filter fun f => f.dest == .port n.toNat).length then .stall 4
      else
        match s.tileSpad b p.addr (vecBytes p.fmt) p.align false with
        | some c => .fault s c
        | none =>
          .ok ((s.onTile b fun t => { t with ports := SMap.put t.ports n.toNat p.step }).land b 3 (.port n.toNat) lat tst
            (v + 2 ^ 2048 * (p.addr % 2 ^ 32 + (Fmt.code p.fmt).toNat <<< 32 + (p.desc.extractLsb' 48 6).toNat <<< 40)))
  | _ => .ok (if tst == 0 then s else s.land b 3 .drop lat tst 0)

/-- A V instruction: formats resolved and checked at issue (R103), sources read, lanes computed, the result in flight; a fault of a port leaves what
earlier operands popped (R183, R191). -/
def vecOp (g : SGuard) (d : VOp) (srcs : List VOp) (fs : List (FSel × List Fmt)) (lat : Nat)
    (body : Block → List (Fmt × Int) → List Nat → (Nat → Nat) × BitVec 5) (s : State) : Res :=
  runSlot g (fun s b =>
    let rs := fs.map fun f => b.tile.fselIn f.1 f.2
    if rs.any Option.isNone then s.tIllegal b
    else
      match (match s.vsrcs b srcs [] with
        | (.ok s1, vs) => let r := body b (rs.filterMap id) vs; s1.vdst b d lat r.2 (packLanes r.1)
        | (e, _) => e) with
      | .fault _ c => .fault s c
      | e => e) s

/-- VNAN when a lane is NaN (R205). -/
def vnan (f : Nat → Nat) : BitVec 5 := if (List.range 64).any fun i => (ff32.dec (f i)).isNan then 1#5 else 0#5
/-- Wrapped 32-bit result of integers. -/
def wrap32 (x : Int) : Nat := (x % 2 ^ 32).toNat
/-- The formats FP32 and INT32. -/
def fpOrInt : List Fmt := [.fp32, .int32]

/-- A floating-point result: a NaN is canonical (R142). -/
def canonNan (x : Nat) : Nat := if (ff32.dec x).isNan then ff32.nanBits else x

/-- A lane-wise instruction of two sources in FP32 or INT32 (R205). -/
def vecLane2 (g : SGuard) (d a b : VOp) (f : FSel) (lat : Nat) (ok : List Fmt) (fp int : Nat → Nat → Nat) (s : State) : Res :=
  vecOp g d [a, b] [(f, ok)] lat (fun _ fm vs =>
    let x := vs.getD 0 0
    let y := vs.getD 1 0
    if (fm.headD (.fp32, 0)).1 == .int32 then (fun i => int (laneOf x i) (laneOf y i), 0)
    else let r := fun i => fp (laneOf x i) (laneOf y i); (r, vnan r)) s

/-! ### Instructions -/

/-- VNOP (R98). -/
def execVnop (s : State) : Res := runSlot .always (fun s _ => .ok s) s
/-- VMOV. -/
def execVmov (g : SGuard) (d a : VOp) (s : State) : Res := vecOp g d [a] [] 4 (fun _ _ vs => (laneOf (vs.getD 0 0), 0)) s
/-- VADD. -/
def execVadd (g : SGuard) (d a b : VOp) (f : FSel) (s : State) : Res :=
  vecLane2 g d a b f 4 fpOrInt (fun x y => rne ff32 ((ff32.dec x).add .rn (ff32.dec y))) (fun x y => (x + y) % 2 ^ 32) s
/-- VSUB. -/
def execVsub (g : SGuard) (d a b : VOp) (f : FSel) (s : State) : Res :=
  vecLane2 g d a b f 4 fpOrInt (fun x y => rne ff32 ((ff32.dec x).add .rn (ff32.dec y).neg)) (fun x y => wrap32 ((x : Int) - y)) s
/-- VMUL. -/
def execVmul (g : SGuard) (d a b : VOp) (f : FSel) (s : State) : Res :=
  vecLane2 g d a b f 4 fpOrInt (fun x y => rne ff32 ((ff32.dec x).mul (ff32.dec y))) (fun x y => x * y % 2 ^ 32) s
/-- VFMA: one rounding. -/
def execVfma (g : SGuard) (d a b c : VOp) (f : FSel) (s : State) : Res :=
  vecOp g d [a, b, c] [(f, [.fp32])] 4 (fun _ _ vs =>
    let r := fun i => rne ff32 (((ff32.dec (laneOf (vs.getD 0 0) i)).mul (ff32.dec (laneOf (vs.getD 1 0) i))).add .rn (ff32.dec (laneOf (vs.getD 2 0) i)))
    (r, vnan r)) s
/-- VMAX. -/
def execVmax (g : SGuard) (d a b : VOp) (f : FSel) (s : State) : Res :=
  vecLane2 g d a b f 4 fpOrInt (minMaxNan ff32 true) (fun x y => wrap32 (max (sextN 32 x) (sextN 32 y))) s
/-- VMIN. -/
def execVmin (g : SGuard) (d a b : VOp) (f : FSel) (s : State) : Res :=
  vecLane2 g d a b f 4 fpOrInt (minMaxNan ff32 false) (fun x y => wrap32 (min (sextN 32 x) (sextN 32 y))) s
/-- VEXPD (R147). -/
def execVexpd (g : SGuard) (d a b : VOp) (f : FSel) (s : State) : Res := vecLane2 g d a b f 8 [.fp32] vexpdBits (fun x _ => x) s
/-- VRCP (R144, R146). -/
def execVrcp (g : SGuard) (d a : VOp) (f : FSel) (s : State) : Res :=
  vecOp g d [a] [(f, [.fp32])] 8 (fun _ _ vs => let r := fun i => frcpBits (laneOf (vs.getD 0 0) i); (r, vnan r)) s

/-- TSTAT bits of conversions (R148, R206). -/
def convFlags (cs : List Conv) : BitVec 5 :=
  BitVec.ofNat 5 (b2n (cs.any Conv.nan) + 8 * b2n (cs.any Conv.sat) + 16 * b2n (cs.any Conv.lift))
/-- VCVT (R206). -/
def execVcvt (g : SGuard) (d a : VOp) (fd fs : FSel) (rm : Rm) (s : State) : Res :=
  vecOp g d [a] [(fd, convFmts), (fs, convFmts ++ [.e8])] 8
    (fun _ fm vs =>
      let df := fm.getD 0 (.fp32, 0)
      let src := fm.getD 1 (.fp32, 0)
      let c := fun i => convertTile src.1 df.1 rm src.2 df.2 (laneOf (vs.getD 0 0) i % 2 ^ src.1.width)
      (fun i => (c i).bits, convFlags ((List.range 64).map c))) s

/-- One step of a reduction (R207). -/
def vrStep (op : VrOp) (int : Bool) (x y : Nat) : Nat :=
  match op with
  | .add => if int then (x + y) % 2 ^ 32 else rne ff32 ((ff32.dec x).add .rn (ff32.dec y))
  | .max => if int then wrap32 (max (sextN 32 x) (sextN 32 y)) else minMaxNan ff32 true x y
  | .min => if int then wrap32 (min (sextN 32 x) (sextN 32 y)) else minMaxNan ff32 false x y
/-- The identity of a scan (R207). -/
def vrIdent (op : VrOp) (int : Bool) : Nat :=
  match op with
  | .add => 0
  | .max => if int then 0x80000000 else 0xFF800000
  | .min => if int then 0x7FFFFFFF else 0x7F800000
/-- Adjacent pairs of a list combined. -/
def pairUp (f : Nat → Nat → Nat) : List Nat → List Nat
  | x :: y :: r => f x y :: pairUp f r
  | l => l
/-- The pairwise tree over 2^k values (R146). -/
def treeOf (f : Nat → Nat → Nat) : Nat → List Nat → Nat
  | 0, l => l.headD 0
  | k + 1, l => treeOf f k (pairUp f l)
/-- VRED (R207). -/
def execVred (g : SGuard) (d a : VOp) (op : VrOp) (f : FSel) (s : State) : Res :=
  vecOp g d [a] [(f, fpOrInt)] 8 (fun _ fm vs =>
    let int := (fm.headD (.fp32, 0)).1 == .int32
    let x := treeOf (vrStep op int) 6 ((List.range 64).map (laneOf (vs.getD 0 0)))
    (fun _ => x, if int then 0 else vnan fun _ => x)) s
/-- The running folds of a list, the first its own element, a NaN canonical (R142, R207). -/
def scanGo (f : Nat → Nat → Nat) (acc : Nat) : List Nat → List Nat
  | [] => [acc]
  | x :: r => acc :: scanGo f (f acc x) r
/-- VSCAN (R146, R207). -/
def execVscan (g : SGuard) (d a : VOp) (op : VrOp) (excl : Bool) (f : FSel) (s : State) : Res :=
  vecOp g d [a] [(f, fpOrInt)] 8 (fun _ fm vs =>
    let int := (fm.headD (.fp32, 0)).1 == .int32
    let l := (List.range 64).map (laneOf (vs.getD 0 0))
    let x0 := l.headD 0
    let inc := scanGo (vrStep op int) (if int then x0 else canonNan x0) (l.drop 1)
    let out := if excl then vrIdent op int :: inc else inc
    let r := fun i => out.getD i 0
    (r, if int then 0 else vnan r)) s

/-- VCMP (R208). -/
def execVcmp (g : SGuard) (d a b : VOp) (cond : Cond) (f : FSel) (s : State) : Res :=
  vecOp g d [a, b] [(f, fpOrInt)] 4 (fun _ fm vs =>
    let int := (fm.headD (.fp32, 0)).1 == .int32
    (fun i =>
      let x := laneOf (vs.getD 0 0) i
      let y := laneOf (vs.getD 1 0) i
      if (if int then condInt cond (sextN 32 x) (sextN 32 y) else condFl cond (cond == .ne) (ff32.dec x) (ff32.dec y)) then 0xFFFFFFFF else 0, 0)) s
/-- VMSK (R209): a NaN that is kept is canonical (R142, R205). -/
def execVmsk (g : SGuard) (d a : VOp) (k : SReg) (f : FSel) (s : State) : Res :=
  vecOp g d [a] [(f, [.fp32])] 4 (fun b _ vs =>
    let n := (b.tile.sv k).toNat
    let r := fun i => if n / 2 ^ 32 + i < n % 2 ^ 32 then canonNan (laneOf (vs.getD 0 0) i) else 0xFF800000
    (r, vnan r)) s
/-- VSEL (R208): on the bits of c. -/
def execVsel (g : SGuard) (d a b c : VOp) (f : FSel) (s : State) : Res :=
  vecOp g d [a, b, c] [(f, fpOrInt)] 4 (fun _ _ vs =>
    (fun i => if laneOf (vs.getD 2 0) i != 0 then laneOf (vs.getD 0 0) i else laneOf (vs.getD 1 0) i, 0)) s

/-- Candidate x comes before candidate y (R210), by value. -/
def topBefore (x y : Nat) : Bool :=
  if (ff32.dec x).isNan then false else if (ff32.dec y).isNan then true else (ff32.dec x).cmp (ff32.dec y) == some .gt
/-- Insert a candidate after those that do not come after it. -/
def topInsert (p : Nat × Nat) : List (Nat × Nat) → List (Nat × Nat)
  | [] => [p]
  | q :: r => if topBefore p.2 q.2 then p :: q :: r else q :: topInsert p r
/-- The source vectors of VTOPK (R210). -/
def topSrcs (a : VOp) (n : Nat) : List VOp :=
  match a with | .w k => (List.range n).map fun i => .w (k + BitVec.ofNat 4 i) | _ => List.replicate n a
/-- VTOPK (R210). -/
def execVtopk (g : SGuard) (d a : VOp) (k : BitVec 7) (nv : BitVec 2) (f : FSel) (s : State) : Res :=
  vecOp g d (topSrcs a (nv.toNat + 1)) [(f, [.fp32])] 24 (fun _ _ vs =>
    let cs := (List.range (64 * vs.length)).map fun j => (j, laneOf (vs.getD (j / 64) 0) (j % 64))
    let o := cs.foldl (fun l p => topInsert p l) []
    (fun i => if i < k.toNat then (o.getD i (0, 0)).1 else 0xFFFFFFFF, 0)) s
/-- VLDIX (R211). -/
def execVldix (g : SGuard) (ix : BitVec 2) (a : VOp) (f : FSel) (s : State) : Res :=
  vecOp g (.ix ix) [a] [(f, [.int32])] 4 (fun _ _ vs => (laneOf (vs.getD 0 0), 0)) s

/-- One lane of VSACC (R212); a NaN that stays is canonical (R142). -/
def vsaccLane (x y : Nat) : Nat :=
  let a := ff32.dec x
  let b := ff32.dec y
  if b.isNan then canonNan x
  else
    let r := rne ff32 (a.add .rn b)
    match ff32.dec r with
    | .inf sg => if a.isFin && b.isFin then (if sg then 0xFF7FFFFF else 0x7F7FFFFF) else r
    | _ => r
/-- VSACC: a NaN operand b also sets VNAN. -/
def execVsacc (g : SGuard) (d a b : VOp) (f : FSel) (s : State) : Res :=
  vecOp g d [a, b] [(f, [.fp32])] 4 (fun _ _ vs =>
    let r := fun i => vsaccLane (laneOf (vs.getD 0 0) i) (laneOf (vs.getD 1 0) i)
    (r, vnan r ||| vnan fun i => laneOf (vs.getD 1 0) i)) s

end Sys2Proof.Machine
end

