-- ==== Sys2Proof/Machine/TileMatrix.lean ====
section
/-! DEFINITION. The M slot and the matrix engine: loop-nest table, passes, the arbiter, summation and MRET (R130-R132, R150-R155,
R198-R204, R224). -/
namespace Sys2Proof.Machine

/-! ### The shadow table (R199-R201) -/

/-- MNOP (R98). -/
def execMnop (s : State) : Res := runSlot .always (fun s _ => .ok s) s
/-- A level as a result in flight. -/
def Nest.pack (n : Nest) : Nat := n.e.toNat + n.sa.toNat <<< 16 + n.sb.toNat <<< 48 + n.sc.toNat <<< 80
/-- A level from a result in flight. -/
def Nest.unpack (v : Nat) : Nest := ⟨BitVec.ofNat 16 v, BitVec.ofNat 32 (v >>> 16), BitVec.ofNat 32 (v >>> 48), BitVec.ofNat 32 (v >>> 80)⟩
/-- MNEST (R199). -/
def execMnest (g : SGuard) (lvl : BitVec 3) (e a b c : SReg) (s : State) : Res :=
  runSlot g (fun s k =>
    let t := k.tile
    .ok (s.land k 2 (.level lvl.toNat) 1 0
      (Nest.pack ⟨(t.sv e).extractLsb' 0 16, (t.sv a).extractLsb' 0 32, (t.sv b).extractLsb' 0 32, (t.sv c).extractLsb' 0 32⟩))) s
/-- MSRC (R200): the word holds the instruction's local bits [32:0]. -/
def execMsrc (g : SGuard) (a b : Loc) (fa fb : FSel) (md : Option Loc) (s : State) : Res :=
  runSlot g (fun s k =>
    .ok (s.land k 2 .msrc 1 0 ((Loc.code a).toNat <<< 28 + (Loc.code b).toNat <<< 23 + (FSel.code fa).toNat <<< 19 + (FSel.code fb).toNat <<< 15 +
      (match md with | some l => 2 ^ 14 + (Loc.code l).toNat <<< 9 | none => 0)))) s
/-- MACC (R201). -/
def execMacc (g : SGuard) (row : BitVec 11) (z : Bool) (s : State) : Res :=
  runSlot g (fun s k => .ok (s.land k 2 .macc 1 0 (row.toNat <<< 22 + b2n z <<< 21))) s

/-! ### Operand classes (R150, R198) -/

/-- The operation class of a pair of formats: K positions of a dense step, and whether the accumulator is INT32. -/
def opClass (fa fb : Fmt) : Option (Nat × Bool) :=
  let tf := fun (f : Fmt) => f == .tf8 || f == .tf6
  let i8 := fun (f : Fmt) => f == .int8 || f == .uint8
  let h := fun (f : Fmt) => f == .fp16 || f == .bf16
  if tf fa && tf fb then some (16, false)
  else if i8 fa && i8 fb then some (16, true)
  else if (h fa || tf fa) && (h fb || tf fb) then some (4, false)
  else if fa == .fp32 && fb == .fp32 then some (1, false)
  else none

/-- What a pass reads and where it adds: locations, formats with scales, sparsity, base row, Z, class. -/
structure MatOp where
  a : Loc
  b : Loc
  m : Option Loc
  fa : Fmt
  sa : Int
  fb : Fmt
  sb : Int
  row : Nat
  z : Bool
  kd : Nat
  int : Bool
  deriving DecidableEq, Repr

/-- A format-table entry as format and scale. -/
def entryFmt (x : Nat) : Fmt × Int := ((Fmt.ofCode (BitVec.ofNat 4 x)).getD .fp32, (BitVec.ofNat 6 (x >>> 4)).toInt)
/-- A format selector's code at issue as a format-table entry. -/
def TileCtx.selEntry (t : TileCtx) (c : Nat) : Nat := if c == 15 then (SMap.get t.ftab ((SMap.get t.lc t.fsel 0).toNat % 16) 0).toNat else c
/-- The operation of a table with resolved formats: none when they break R200. -/
def matOp (n : NestTab) (fa fb : Nat) : Option MatOp :=
  let w := n.msrc.toNat
  let x := entryFmt fa
  let y := entryFmt fb
  let sp := bit w 14
  match opClass x.1 y.1 with
  | none => none
  | some (kd, int) =>
    if sp && kd == 1 then none
    else some ⟨Loc.ofCode (BitVec.ofNat 5 (w >>> 28)), Loc.ofCode (BitVec.ofNat 5 (w >>> 23)), if sp then some (Loc.ofCode (BitVec.ofNat 5 (w >>> 9))) else none,
      x.1, x.2, y.1, y.2, bits n.macc.toNat 32 22, bit n.macc.toNat 21, kd, int⟩
/-- K positions of a step (R198). -/
def MatOp.kc (o : MatOp) : Nat := if o.m.isSome then 2 * o.kd else o.kd
/-- Bytes of a row of an A slice. -/
def MatOp.aRow (o : MatOp) : Nat := o.kd * o.fa.width / 8
/-- Bytes of a column of a B slice. -/
def MatOp.bCol (o : MatOp) : Nat := o.kc * o.fb.width / 8
/-- Bytes of an A, a B and a metadata slice. -/
def MatOp.aBytes (o : MatOp) : Nat := 128 * o.aRow
/-- Bytes of a B slice. -/
def MatOp.bBytes (o : MatOp) : Nat := 128 * o.bCol
/-- Bytes of a metadata slice. -/
def MatOp.mBytes (o : MatOp) : Nat := 32 * o.kd

/-- Steps of a nest (R202). -/
def NestTab.steps (n : NestTab) : Nat := (n.lv.map fun l => l.e.toNat).foldl (· * ·) 1
/-- Least and greatest of Σ i × stride over a nest. -/
def NestTab.range (n : NestTab) (f : Nest → BitVec 32) : Int × Int :=
  n.lv.foldl (fun r l => let x := (f l).toInt * ((l.e.toNat : Int) - 1); (r.1 + min x 0, r.2 + max x 0)) (0, 0)
/-- Steps of a nest in order: A index, B index, row offset; level 0 fastest (R202). -/
def nestSteps : List Nest → List (Int × Int × Int)
  | [] => [(0, 0, 0)]
  | l :: ls => (nestSteps ls).flatMap fun p => (List.range l.e.toNat).map fun (i : Nat) =>
      (p.1 + i * l.sa.toInt, p.2.1 + i * l.sb.toInt, p.2.2 + i * l.sc.toInt)

/-! ### Checks at issue (R202) -/

/-- An accumulator row is allocated (R201). -/
def Block.accRow (b : Block) (r : Int) : Bool :=
  let ax := b.rows.length - 2 - (b.warps.map Warp.rows).sum - b.sprows
  (decide (0 ≤ r) && decide (r < 2 * b.acckb)) || (decide (1024 ≤ r) && decide (r < 1024 + 8 * ax))
/-- Every row of a range is allocated. -/
def Block.accRows (b : Block) (lo hi : Int) : Bool :=
  b.accRow lo && b.accRow hi && (decide (hi < 1024) || decide (1024 ≤ lo) || b.acckb == 512)
/-- The handle of a location. -/
def Block.locHandle (b : Block) (l : Loc) : Option Handle := match l with | .tile n => SMap.get? b.tile.handles n.toNat | .ring _ => none
/-- A location is bound, or configured. -/
def Block.locOk (b : Block) (l : Loc) : Bool :=
  match l with | .tile n => (SMap.get? b.tile.handles n.toNat).isSome | .ring q => (b.ring q.toNat).cfg
/-- The number of a location. -/
def locNum (l : Loc) : Nat := match l with | .tile n => n.toNat | .ring q => q.toNat
/-- Two locations name one ring. -/
def sameRing (x y : Loc) : Bool := match x, y with | .ring p, .ring q => p == q | _, _ => false
/-- Slices that a pass needs of a ring fit it. -/
def Block.ringFits (b : Block) (l : Loc) (n bytes : Nat) : Bool := match l with | .ring q => decide (n * bytes ≤ (b.ring q.toNat).size) | .tile _ => true

/-- The first failed check of an MGO in the order of R202: code and h0. -/
def mgoCheck (b : Block) (n : NestTab) (fa fb : Nat) (word : Nat) : Option (Nat × Nat) :=
  match matOp n fa fb with
  | none => some (cIllegalEncoding, word)
  | some o =>
    let st := n.steps
    let ra := n.range Nest.sa
    let rb := n.range Nest.sb
    let rc := n.range Nest.sc
    let z := st == 0
    let na := if z then 0 else (ra.2 + 1).toNat
    let nb := if z then 0 else (rb.2 + 1).toNat
    let ls := [o.a, o.b] ++ o.m.toList
    let neg := fun (x : Int) => (BitVec.ofInt 64 x).toNat
    let badTile := fun (l : Loc) (f : Fmt) (isA : Bool) => match b.locHandle l with
      | none => false
      | some h => h.fmt != f || (if isA then decide (128 < h.nrows) || decide (h.ncols < na * o.kd) else decide (128 < h.ncols) || decide (h.nrows < nb * o.kc))
    if 2 ^ 24 < st then some (cBounds, st)
    else if !z && ra.1 < 0 then some (cBounds, neg ra.1)
    else if !z && rb.1 < 0 then some (cBounds, neg rb.1)
    else if !z && !b.accRows (o.row + rc.1) (o.row + rc.2 + 127) then some (cBounds, neg (o.row + rc.1))
    else
      match ls.find? fun l => !b.locOk l with
      | some l => some (cTileBinding, locNum l)
      | none =>
        if sameRing o.a o.b || (o.m.any fun m => sameRing o.a m) then some (cTileBinding, locNum o.a)
        else if o.m.any fun m => sameRing o.b m then some (cTileBinding, locNum o.b)
        else if badTile o.a o.fa true then some (cTileBinding, locNum o.a)
        else if badTile o.b o.fb false then some (cTileBinding, locNum o.b)
        else if !b.ringFits o.a na o.aBytes then some (cTileBinding, locNum o.a)
        else if !b.ringFits o.b nb o.bBytes then some (cTileBinding, locNum o.b)
        else
          match o.m with
          | some m => if b.ringFits m na o.mBytes then none else some (cTileBinding, locNum m)
          | none => none

/-- An operation joins the tile counters (R184). -/
def State.tileOp (s : State) (b : Block) (e : Eng) (id : Nat) : State := s.onTile b fun t => { t with ops := t.ops ++ [⟨id, e, false, false, none⟩] }

/-! ### The arbiter (R131, R132) -/

/-- A pass may start: its block is resident, and neither frozen nor about to be saved; every access that the pass is ordered after has been performed
(R194, R202). -/
def State.passMay (s : State) (p : Pass) : Bool :=
  match s.block? p.core p.slot with | some b => !b.stopped && !b.preReq && b.inOrder p.after | none => false
/-- The least of a list by a strict order; the first of equals. -/
def leastBy {α : Type} (lt : α → α → Bool) : List α → Option α
  | [] => none
  | x :: r => match leastBy lt r with | none => some x | some y => if lt y x then some y else some x
/-- The entry that has been selected and may start. -/
def State.selected (s : State) (q : Nat) : Option Pass :=
  (s.quad q).tab.find? fun p => (s.quad q).sel == some p.id && s.passMay p
/-- The entry that the arbiter selects (R132). -/
def State.arbiter (s : State) (q : Nat) : Option Pass :=
  let es := (s.quad q).tab.filter s.passMay
  match leastBy (fun (x y : Pass) => decide (x.age < y.age)) (es.filter fun p => decide (8 ≤ p.skip)) with
  | some p => some p
  | none => leastBy (fun (x y : Pass) => decide (x.prio < y.prio) || (x.prio == y.prio && decide (x.age < y.age))) es
/-- The arbiter selects an entry: every other has been passed over once more (R132). -/
def State.selectPass (s : State) (q : Nat) : State :=
  match s.arbiter q with
  | none => s.modQuad q fun x => { x with sel := none }
  | some p => s.modQuad q fun x => { x with sel := some p.id, tab := x.tab.map fun (e : Pass) => if e.id == p.id then e else { e with skip := e.skip + 1 } }
/-- The entries of a quad's table: one that has been selected has left it (R132). -/
def QuadSt.waitingTab (x : QuadSt) : List Pass := x.tab.filter fun p => x.sel != some p.id
/-- An idle engine selects in the clk in which an entry enters the table (R132). -/
def State.selectIdle (s : State) (q : Nat) : State := if (s.quad q).run.isNone && (s.selected q).isNone then s.selectPass q else s
/-- PASS_START can happen: an entry has been selected, or may be selected and started on an idle engine. -/
def State.passNow (s : State) (q : Nat) : Bool := (s.quad q).run.isNone && ((s.selected q).isSome || (s.arbiter q).isSome)

/-- MGO (R130, R131, R202). -/
def execMgo (g : SGuard) (rel : Bool) (s : State) : Res :=
  runSlot g (fun s b =>
    let t := b.tile
    let w := t.nest.msrc.toNat
    let fa := t.selEntry (bits w 22 19)
    let fb := t.selEntry (bits w 18 15)
    let q := quadOf b.core
    let tab := (s.quad q).waitingTab
    if 63 ≤ countOps t.ops .matrix then .stall 6
    else if 16 ≤ tab.length || 4 ≤ (tab.filter fun p => p.core == b.core && p.slot == b.slot).length then .stall 7
    else
      match mgoCheck b t.nest fa fb s.cur.word.toNat with
      | some (c, i) => s.tFail b c i
      | none =>
        let f := s.fresh
        let prio := ((s.gridOf b).map Grid.prio).getD 0
        let o := matOp t.nest fa fb
        let hd := fun (l : Option Loc) => l.bind b.locHandle
        let p : Pass := ⟨f.1, b.core, b.slot, b.grid, b.lin, prio, s.clk, 0, t.nest, fa, fb, hd (o.map MatOp.a), hd (o.map MatOp.b), hd (o.bind MatOp.m), t.pc, [], t.order rel true⟩
        .ok (((f.2.modQuad q fun x => { x with tab := x.tab ++ [p] }).selectIdle q).tileOp b .matrix f.1)) s

/-- The head of the ring of a location. -/
def Block.headOf (b : Block) (l : Loc) : Nat := match l with | .ring q => (b.ring q.toNat).head.toNat | .tile _ => 0
/-- PASS_START. -/
def execPassStart (quad : Nat) (s0 : State) : Res :=
  if !s0.passNow quad then notNow "PASS_START"
  else
    let s := if (s0.selected quad).isSome then s0 else s0.selectPass quad
    match s.selected quad with
    | none => notNow "PASS_START"
    | some p =>
      let hs := match s.block? p.core p.slot, matOp p.tab p.fa p.fb with
        | some b, some o => [b.headOf o.a, b.headOf o.b, (o.m.map b.headOf).getD 0]
        | _, _ => []
      .next (s.modQuad quad fun x => { x with run := some { p with heads := hs }, last := some (p.core, p.slot), sel := none, tab := x.tab.filter fun e => e.id != p.id })
/-- The running pass of a quad has ended: the engine selects the next (R132). -/
def State.passEnd (s : State) (q : Nat) : State := (s.modQuad q fun x => { x with run := none }).selectPass q

/-! ### Operands of a pass (R198, R202) -/

/-- Element (y, x) of a bound tile (R21); 0 outside it. -/
def Block.tileElem (b : Block) (h : Handle) (y x : Nat) : Nat :=
  if h.nrows ≤ y || h.ncols ≤ x then 0
  else
    let p := h.place y x
    let (w, l) := b.roleThread h.role p.1
    match b.thread? w l with
    | some th => ((SMap.get th.regs p.2.1 0).toNat >>> p.2.2) % 2 ^ h.fmt.width
    | none => 0
/-- Write every element of a bound tile. -/
def Block.tileFill (b : Block) (h : Handle) (f : Nat → Nat → Nat) : Block :=
  let per := Fmt.perReg h.fmt
  let nt := if h.lane then h.ncols else h.nrows
  let ne := if h.lane then h.nrows else h.ncols
  (List.range nt).foldl (fun b t =>
    let (w, l) := b.roleThread h.role (h.t0 + t)
    b.modThread w l fun th => { th with regs := (List.range (ne / per)).foldl (fun m r =>
      let v := ((List.range per).map fun e => ((if h.lane then f (r * per + e) t else f t (r * per + e)) % 2 ^ h.fmt.width) <<< (e * (32 / per))).sum
      SMap.putD m (h.reg0 + r) 0 (BitVec.ofNat 32 v)) th.regs }) b

/-- The pool words whose two registers are among those listed, as State.poolBad numbers them. -/
def Block.wholeWords (b : Block) (rs : List (Nat × Nat × Nat)) : List Nat :=
  rs.filterMap fun p => if p.2.2 % 2 == 0 && rs.contains (p.1, p.2.1, p.2.2 + 1) then some (b.regWord p.1 p.2.1 (BitVec.ofNat 8 p.2.2)) else none
/-- Registers that are rewritten heal the words they cover (R240). -/
def State.healRegs (s : State) (b : Block) (rs : List (Nat × Nat × Nat)) : State :=
  if s.poolBad.isEmpty then s else let ws := b.wholeWords rs; { s with poolBad := s.poolBad.filter fun x => !ws.contains x }

/-- Stored element k of row i of A slice n. -/
def Block.matA (b : Block) (o : MatOp) (h : Option Handle) (head n i k : Nat) : Nat :=
  match o.a, h with
  | .ring q, _ => (b.streamRead (b.ring q.toNat) (head + n * o.aBytes + i * o.aRow) o.aRow >>> (o.fa.width * k)) % 2 ^ o.fa.width
  | .tile _, some x => b.tileElem x i (n * o.kd + k)
  | .tile _, none => 0
/-- Row k of column j of B slice n. -/
def Block.matB (b : Block) (o : MatOp) (h : Option Handle) (head n k j : Nat) : Nat :=
  match o.b, h with
  | .ring q, _ => (b.streamRead (b.ring q.toNat) (head + n * o.bBytes + j * o.bCol) o.bCol >>> (o.fb.width * k)) % 2 ^ o.fb.width
  | .tile _, some x => b.tileElem x (n * o.kc + k) j
  | .tile _, none => 0
/-- Byte k of a bound tile's elements in row-major order. -/
def Block.tileByte (b : Block) (h : Handle) (k : Nat) : Nat :=
  let w := h.fmt.width
  let el := fun (e : Nat) => if h.ncols == 0 then 0 else b.tileElem h (e / h.ncols) (e % h.ncols)
  if w == 6 then (((List.range 4).map fun j => el (k / 3 * 4 + j) <<< (6 * j)).sum >>> (8 * (k % 3))) % 256
  else (el (8 * k / w) >>> (8 * k % w)) % 256
/-- Position of stored element k of row i in its group of 4, from metadata slice n: of a ring, or of a tile whose elements hold the slices' bytes in
row-major order (log 70). -/
def Block.matM (b : Block) (o : MatOp) (h : Option Handle) (head n i k : Nat) : Nat :=
  let x := (i * o.kd + k) / 4
  let byte := match o.m, h with
    | some (.ring q), _ => b.streamRead (b.ring q.toNat) (head + n * o.mBytes + x) 1
    | some (.tile _), some t => b.tileByte t (n * o.mBytes + x)
    | _, _ => 0
  byte >>> (2 * ((i * o.kd + k) % 4)) % 4
/-- A metadata slice that R204 refuses. -/
def Block.metaBad (b : Block) (o : MatOp) (h : Option Handle) (head n : Nat) : Bool :=
  o.m.isSome && (List.range 128).any fun i => (List.range (o.kd / 2)).any fun g => decide (b.matM o h head n i (2 * g + 1) ≤ b.matM o h head n i (2 * g))

/-- A subnormal FP16 operand is 0 under NBV (R155). -/
def nbvFlush (nbv : Bool) (f : Fmt) (x : Nat) : Nat := if nbv && f == .fp16 && bits x 14 10 == 0 then 0 else x
/-- The K operands of row i in A slice n, absent positions zero (R150, R198). -/
def Block.rowA (b : Block) (o : MatOp) (nbv : Bool) (h mh : Option Handle) (ha hm n i : Nat) : List Fl :=
  let el := fun k => decFmt o.fa o.sa (nbvFlush nbv o.fa (b.matA o h ha n i k))
  match o.m with
  | none => (List.range o.kd).map el
  | some _ => (List.range o.kc).map fun k =>
    if b.matM o mh hm n i (k / 4 * 2) == k % 4 then el (k / 4 * 2)
    else if b.matM o mh hm n i (k / 4 * 2 + 1) == k % 4 then el (k / 4 * 2 + 1)
    else .fin false 0 0
/-- The K operands of column j in B slice n. -/
def Block.colB (b : Block) (o : MatOp) (nbv : Bool) (h : Option Handle) (hb n j : Nat) : List Fl :=
  (List.range o.kc).map fun k => decFmt o.fb o.sb (nbvFlush nbv o.fb (b.matB o h hb n k j))

/-! ### Summation (R150-R155) -/

/-- An exact integer value. -/
def Fl.toIntVal (x : Fl) : Int := match x with | .fin s m e => scaledInt s m e 0 | _ => 0
/-- One group into an accumulator: new bits, NaN, saturated. -/
def accGroup (int nbv : Bool) (acc : Nat) (ps : List Fl) : Nat × Bool × Bool :=
  if int then
    let x := sextN 32 acc + (ps.map Fl.toIntVal).sum
    let y := clampI x (-2147483648) 2147483647
    (wrap32 y, false, decide (x ≠ y))
  else
    let t := exactSum ps
    let u := if nbv then ff32.dec (rne ff32 t) else t
    let r := rne ff32 ((ff32.dec acc).add .rn u)
    (r, (ff32.dec r).isNan, false)
/-- All groups of g products, in order; n bounds the groups. -/
def accGroups (int nbv : Bool) (g : Nat) : Nat → Nat × Bool × Bool → List Fl → Nat × Bool × Bool
  | 0, a, _ => a
  | n + 1, a, ps =>
    match ps with
    | [] => a
    | _ => let r := accGroup int nbv a.1 (ps.take g); accGroups int nbv g n (r.1, a.2.1 || r.2.1, a.2.2 || r.2.2) (ps.drop g)
/-- The group size (R150, R155). -/
def MatOp.group (o : MatOp) (nbv : Bool) : Nat := if o.kd == 1 then 1 else if o.int then 16 else if nbv then 8 else o.kd

/-- A row of accumulators after the steps that add into it: their A index, B index and row within the block. -/
def Block.accRowAfter (b : Block) (o : MatOp) (nbv : Bool) (p : Pass) (row : Nat) (ss : List (Nat × Nat × Nat)) : Nat × Bool × Bool :=
  let ha := p.heads.getD 0 0
  let hb := p.heads.getD 1 0
  let hm := p.heads.getD 2 0
  let old := if o.z then 0 else (SMap.get b.acc row 0).toNat
  let as := ss.map fun x => b.rowA o nbv p.ha p.hm ha hm x.1 x.2.2
  (List.range 128).foldr (fun j (r : Nat × Bool × Bool) =>
    let ps := (List.zipWith (fun (a : List Fl) (x : Nat × Nat × Nat) => List.zipWith prodMx a (b.colB o nbv p.hb hb x.2.1 j)) as ss).flatten
    let e := accGroups o.int nbv (o.group nbv) ps.length (laneOf old j, false, false) ps
    (e.1 + 2 ^ 32 * r.1, r.2.1 || e.2.1, r.2.2 || e.2.2)) (0, false, false)

/-- The accumulators after a pass: its steps in order, up to the first with refused metadata; whether it failed, and its TSTAT bits. -/
def Block.runPass (b : Block) (o : MatOp) (nbv : Bool) (p : Pass) : SMap (BitVec 4096) × Bool × BitVec 5 :=
  let all := (nestSteps p.tab.lv).map fun x => (x.1.toNat, x.2.1.toNat, ((o.row : Int) + x.2.2).toNat)
  let good := all.takeWhile fun x => !b.metaBad o p.hm (p.heads.getD 2 0) x.1
  let rows := (good.flatMap fun x => (List.range 128).map fun i => x.2.2 + i).eraseDups
  let r := rows.foldl (fun (a : SMap (BitVec 4096) × Bool × Bool) row =>
    let ss := good.filterMap fun x => if x.2.2 ≤ row && row < x.2.2 + 128 then some (x.1, x.2.1, row - x.2.2) else none
    let e := b.accRowAfter o nbv p row ss
    (SMap.putD a.1 row 0 (BitVec.ofNat 4096 e.1), a.2.1 || e.2.1, a.2.2 || e.2.2)) (b.acc, false, false)
  (r.1, decide (good.length < all.length), BitVec.ofNat 5 (2 * b2n r.2.1 + 4 * b2n r.2.2))

/-! ### Retirement (R202, R204, R227) -/

/-- An asynchronous fault of an engine against the gate frame (R385, R393). -/
def engFault (code info : Nat) (va : Dword) (e : Eng) (eng : Nat) (tpc : Dword) : Cause :=
  { causeOf code info tpc with va := va, tpc := tpc, impr := true, gatef := true, ecls := (Eng.code e).toNat, eng := eng }
/-- Whether the slices that a pass needs of a location have arrived: none when its ring is not configured (R202, R223, R227). -/
def Block.slicesIn (b : Block) (l : Loc) (head n bytes : Nat) : Option Bool :=
  match l with
  | .tile _ => some true
  | .ring q => let r := b.ring q.toNat
    if !r.cfg then none else some (decide (n * bytes ≤ (r.tail - BitVec.ofNat 32 head).toNat % 2 ^ 32) || n == 0)
/-- What a running pass finds at its rings: for A, B and metadata. -/
def Block.passRings (b : Block) (o : MatOp) (p : Pass) : List (Loc × Option Bool × Nat) :=
  let z := p.tab.steps == 0
  let na := if z then 0 else ((p.tab.range Nest.sa).2 + 1).toNat
  let nb := if z then 0 else ((p.tab.range Nest.sb).2 + 1).toNat
  let e := fun (l : Loc) (k n bytes : Nat) => (l, b.slicesIn l (p.heads.getD k 0) n bytes, n * bytes)
  [e o.a 0 na o.aBytes, e o.b 1 nb o.bBytes] ++ (o.m.map fun m => e m 2 na o.mBytes).toList
/-- A grid's abort has stopped its work (R52). -/
def State.gridDead (s : State) (g : Nat) : Bool := match s.grid? g with | some x => x.phase == .aborting && x.closed | none => true
/-- The running pass of a quad can end. -/
def State.retirePassNow (s : State) (q : Nat) : Bool :=
  match (s.quad q).run with
  | none => false
  | some p => s.gridDead p.grid ||
    match s.block? p.core p.slot, matOp p.tab p.fa p.fb with
    | some b, some o => let rs := b.passRings o p; rs.any (fun r => r.2.1.isNone) || rs.all fun r => r.2.1 == some true
    | _, _ => true
/-- Pop n bytes of a location's ring. -/
def Block.popRing (b : Block) (l : Loc) (n : Nat) : Block :=
  match l with | .ring q => b.modRing q.toNat fun r => { r with head := r.head + BitVec.ofNat 32 n } | .tile _ => b

/-- An accumulator row holds an uncorrectable word (R240), as State.accBad and State.poolBad number them (log 16). -/
def State.accUe (s : State) (b : Block) (r : Nat) : Bool :=
  if r < 1024 then (b.accu[r / 8]?).any fun u => s.accBad.contains (b.core * 1024 + 8 * u + r % 8)
  else
    let row := b.rows.getD ((b.warps.map Warp.rows).sum + (r - 1024) / 8) 0
    !s.poolBad.isEmpty && (List.range 64).any fun k => s.poolBad.contains ((b.core * 768 + row) * 512 + 64 * ((r - 1024) % 8) + k)
/-- A written accumulator row is no longer uncorrectable. -/
def State.accClear (s : State) (b : Block) (r : Nat) : State :=
  if r < 1024 then { s with accBad := s.accBad.filter fun k => (b.accu[r / 8]?).map (fun u => b.core * 1024 + 8 * u + r % 8) != some k }
  else
    let row := b.rows.getD ((b.warps.map Warp.rows).sum + (r - 1024) / 8) 0
    { s with poolBad := s.poolBad.filter fun k => !(decide ((b.core * 768 + row) * 512 + 64 * ((r - 1024) % 8) ≤ k) && decide (k < (b.core * 768 + row) * 512 + 64 * ((r - 1024) % 8) + 64)) }
/-- The rows that a pass adds into. -/
def passRows (o : MatOp) (p : Pass) : List Nat :=
  ((nestSteps p.tab.lv).flatMap fun x => (List.range 128).map fun i => ((o.row : Int) + x.2.2).toNat + i).eraseDups
/-- A pass reads an uncorrectable word: a slice, a tile, or an accumulator that it does not clear first (R240). -/
def State.passUe (s : State) (b : Block) (o : MatOp) (p : Pass) : Bool :=
  if s.poolBad.isEmpty && s.accBad.isEmpty then false
  else
    ((b.passRings o p).zip [p.heads.getD 0 0, p.heads.getD 1 0, p.heads.getD 2 0]).any (fun x => match x.1.1 with
      | .ring q => let r := b.ring q.toNat; (List.range x.1.2.2).any fun k => s.spadUe b (r.rbase + (x.2 + k) % r.size) 1
      | .tile _ => false) ||
    ([p.ha, p.hb, p.hm].filterMap id).any (fun h => s.handleUe b h) || (!o.z && (passRows o p).any fun r => s.accUe b r)

/-- PASS_RETIRE. -/
def execPassRetire (quad : Nat) (s : State) : Res :=
  if !s.retirePassNow quad then notNow "PASS_RETIRE"
  else
    match (s.quad quad).run with
    | none => notNow "PASS_RETIRE"
    | some p =>
      let s1 := s.passEnd quad
      if s.gridDead p.grid then .next (s1.opDone p.id .matrix none)
      else
        match s.block? p.core p.slot, matOp p.tab p.fa p.fb with
        | some b, some o =>
          let rs := b.passRings o p
          match rs.find? fun r => r.2.1.isNone with
          | some (l, _, _) => .next (s1.opDone p.id .matrix (some (engFault cTileBinding (locNum l) 0 .matrix quad p.tpc)))
          | none =>
            if s.passUe b o p then .next (s1.opDone p.id .matrix (some (engFault cUncorrectable 0 0 .matrix quad p.tpc))) else
            let nbv := ((s.gridOf b).map Grid.nbv).getD false
            let r := b.runPass o nbv p
            let s2 := ((passRows o p).foldl (fun s k => s.accClear b k) s1).modBlock p.core p.slot fun b => { b with acc := r.1, tstat := b.tstat ||| r.2.2.setWidth 64 }
            if r.2.1 then .next (s2.opDone p.id .matrix (some (engFault cIllegalEncoding 0 0 .matrix quad p.tpc)))
            else
              let s3 := s2.modBlock p.core p.slot fun b => rs.foldl (fun b x => b.popRing x.1 x.2.2) b
              .next (s3.opDone p.id .matrix none)
        | _, _ => .next (s1.opDone p.id .matrix none)

/-! ### MRET (R203, R224) -/

/-- Bytes of an MRET's block in a ring. -/
def mretBytes (f : Fmt) : Nat := 2048 * f.width
/-- The first failed check of an MRET: code and h0. -/
def mretCheck (b : Block) (loc : Loc) (f : Fmt) (row : Nat) (word : Nat) : Option (Nat × Nat) :=
  if !convFmts.contains f then some (cIllegalEncoding, word)
  else if !b.accRows row (row + 127) then some (cBounds, row)
  else if !b.locOk loc then some (cTileBinding, locNum loc)
  else
    match loc, b.locHandle loc with
    | .tile _, some h => if h.fmt != f || decide (128 < h.nrows) || decide (128 < h.ncols) then some (cTileBinding, locNum loc) else none
    | .tile _, none => some (cTileBinding, locNum loc)
    | .ring q, _ => if (b.ring q.toNat).size < mretBytes f then some (cTileBinding, locNum loc) else none

/-- MRET (R203). The accumulator's type is that of the operand class of the shadow table's formats at issue. -/
def execMret (g : SGuard) (loc : Loc) (fmt : FSel) (rel : Bool) (s : State) : Res :=
  runSlot g (fun s b =>
    let t := b.tile
    let e := t.selEntry (FSel.code fmt).toNat
    let f := (entryFmt e).1
    let row := bits t.nest.macc.toNat 32 22
    let w := t.nest.msrc.toNat
    if 63 ≤ countOps t.ops .matrix then .stall 6
    else
      match mretCheck b loc f row s.cur.word.toNat with
      | some (c, i) => s.tFail b c i
      | none =>
        let x := s.fresh
        let q := s.quad (quadOf b.core)
        let mine := ((q.tab ++ q.run.toList).filter fun p => p.core == b.core && p.slot == b.slot && p.grid == b.grid && p.lin == b.lin).map Pass.id
        let int := match opClass (entryFmt (t.selEntry (bits w 22 19))).1 (entryFmt (t.selEntry (bits w 18 15))).1 with | some (_, i) => i | none => false
        let m : Mret := ⟨x.1, b.slot, loc, e, row, int, b.locHandle loc, mine, t.pc, false, t.order rel true⟩
        .ok ((x.2.modCore b.core fun c => { c with mrets := c.mrets ++ [m] }).tileOp b .matrix x.1)) s

/-- Free bytes of a ring (R223). -/
def Ring.free (r : Ring) : Nat := r.size - (r.resv - r.head).toNat
/-- Reserve bytes for a producer; it no longer waits (R224). -/
def Ring.reserve (r : Ring) (id n : Nat) (landed : Bool) : Ring :=
  { r with resv := r.resv + BitVec.ofNat 32 n, resvs := r.resvs ++ [⟨id, r.resv.toNat, n, landed⟩], waits := r.waits.filter fun w => w != id }
/-- Write bytes of a ring's stream from position p (R222). -/
def Block.streamWrite (b : Block) (r : Ring) (p : Nat) (bs : List Byte) : Block :=
  { b with spad := ((List.range bs.length).zip bs).foldl (fun m x => Mem.set m (r.rbase + (p + x.1) % r.size) x.2) b.spad }
/-- The words of a ring that n bytes of its stream from position p rewrite are no longer uncorrectable (R240). -/
def State.streamHeal (s : State) (b : Block) (r : Ring) (p n : Nat) : State :=
  if s.poolBad.isEmpty then s
  else
    let ws := (List.range (n / 8 + 1)).filterMap fun k =>
      let o := roundUpTo p 8 + 8 * k
      if o + 8 ≤ p + n then some (b.spadWord (r.rbase + o % r.size)) else none
    { s with poolBad := s.poolBad.filter fun w => !ws.contains w }

/-- The first MRET of a slot whose earlier passes have retired, and with them every access that it is ordered after (R194, R203). -/
def State.mretFront (s : State) (core slot : Nat) : Option Mret :=
  let q := s.quad (quadOf core)
  match (s.core core).mrets.find? fun m => m.slot == slot with
  | none => none
  | some m =>
    if ((q.tab ++ q.run.toList).any fun p => m.passes.contains p.id) || ((s.block? core slot).any fun b => !b.inOrder m.after) then none else some m
/-- MRET_PERFORM can happen: an MRET that waits for ring space must have its reservation. -/
def State.mretNow (s : State) (core slot : Nat) : Bool :=
  match s.block? core slot, s.mretFront core slot with
  | some b, some m => (match m.loc with | .ring q => m.rst || !(b.ring q.toNat).waits.contains m.id | .tile _ => true)
  | _, _ => false
/-- The converted elements of an MRET's block: element (y, x). -/
def Block.mretConv (b : Block) (m : Mret) (y x : Nat) : Conv :=
  let e := entryFmt m.fmt
  convertTile (if m.int then .int32 else .fp32) e.1 .rn 0 e.2 (laneOf (SMap.get b.acc (m.row + y) 0).toNat x)
/-- TSTAT bits of an MRET (R148, R203): a NaN that it writes sets MNAN, so that an integer destination sets none (log 122). -/
def mretFlags (cs : List Conv) : BitVec 5 :=
  BitVec.ofNat 5 (2 * b2n (cs.any Conv.nan) + 8 * b2n (cs.any Conv.sat) + 16 * b2n (cs.any Conv.lift))
/-- 128 × 128 converted elements as bytes, row-major (R203, R22). -/
def mretPack (w : Nat) (cs : List Conv) : List Byte :=
  leBytes (cs.foldr (fun c a => c.bits % 2 ^ w + 2 ^ w * a) 0) (cs.length * w / 8)

/-- MRET_PERFORM (R203, R204): without space in its ring the MRET joins the producers that wait. -/
def execMretPerform (core slot : Nat) (s : State) : Res :=
  if !s.mretNow core slot then notNow "MRET_PERFORM"
  else
    match s.block? core slot, s.mretFront core slot with
    | some b, some m =>
      let out := s.modCore core fun c => { c with mrets := c.mrets.filter fun x => x.id != m.id }
      let f := (entryFmt m.fmt).1
      if !(s.poolBad.isEmpty && s.accBad.isEmpty) && (List.range 128).any (fun k => s.accUe b (m.row + k)) then
        .next (out.opDone m.id .matrix (some (engFault cUncorrectable 0 0 .matrix (quadOf core) m.tpc)))
      else
      match m.loc with
      | .tile _ =>
        match m.hnd with
        | none => .next (out.opDone m.id .matrix none)
        | some h =>
          let cs := (List.range h.nrows).flatMap fun y => (List.range h.ncols).map fun x => b.mretConv m y x
          .next (((out.healRegs b (b.handleRegs h)).modBlock core slot fun b => { b.tileFill h (fun y x => (b.mretConv m y x).bits) with tstat := b.tstat ||| (mretFlags cs).setWidth 64 }).opDone m.id .matrix none)
      | .ring q =>
        let r := b.ring q.toNat
        let n := mretBytes f
        if m.rst || !r.cfg then .next (out.opDone m.id .matrix (some (engFault cIllegalEncoding 0 0 .matrix (quadOf core) m.tpc)))
        else
          let have' := r.resvs.find? fun x => x.id == m.id
          if have'.isNone && (!r.waits.isEmpty || decide (r.free < n)) then
            .next (s.modBlock core slot fun b => b.modRing q.toNat fun r => { r with waits := r.waits ++ [m.id] })
          else
            let cs := (List.range 128).flatMap fun y => (List.range 128).map fun x => b.mretConv m y x
            let start := match have' with | some x => x.start | none => r.resv.toNat
            .next (((out.streamHeal b r start n).modBlock core slot fun b =>
              let b1 := b.streamWrite r start (mretPack f.width cs)
              { b1.modRing q.toNat (fun r => match have' with
                  | some _ => { r with resvs := r.resvs.map fun (x : Resv) => if x.id == m.id then { x with landed := true } else x }
                  | none => r.reserve m.id n true) with tstat := b.tstat ||| (mretFlags cs).setWidth 64 }).opDone m.id .matrix none)
    | _, _ => notNow "MRET_PERFORM"

/-- Bytes that a waiting producer of a block's ring asks for: an MRET's here, a command's from its core's queue (Copy). -/
def Mret.bytes (m : Mret) : Nat := mretBytes (entryFmt m.fmt).1

end Sys2Proof.Machine
end

