-- ==== Sys2Proof/Machine/TileMove.lean ====
section
/-! DEFINITION. The T and X slots, the landing of results, arrivals at ports, decode traps of bundles and the stall that counts as a freeze
(R111, R122, R124, R149, R191, R213, R214, R252). -/
namespace Sys2Proof.Machine

/-! ### Transpose (R213) -/

/-- TNOP (R98). -/
def execTnop (s : State) : Res := runSlot .always (fun s _ => .ok s) s
/-- TRN and TRNC: shapes and formats checked at issue, all elements read at issue, landing 6 schedule clk later; f is the destination
format and its scale, or none for TRN. A format of the table that TRNC does not take is ILLEGAL_ENCODING (R103, R192), before the shapes are looked at
(log 121). -/
def transpose (d src : THandle) (f : Option FSel) (s : State) (b : Block) : SEff :=
  match SMap.get? b.tile.handles d.toNat, SMap.get? b.tile.handles src.toNat with
  | some hd, some hs =>
    match (match f with | some x => b.tile.fselIn x convFmts | none => some (hs.fmt, 0)) with
    | none => s.tIllegal b
    | some fd =>
    if hd.nrows != hs.ncols || hd.ncols != hs.nrows || decide (16384 < hd.nrows * hd.ncols) || hd.fmt != fd.1 then s.tFail b cTileBinding d.toNat
    else if s.handleUe b hs then s.tFail b cUncorrectable 0
    else
      let c := fun (y x : Nat) =>
        let v := b.tileElem hs x y
        match f with | some _ => convertTile hs.fmt fd.1 .rn 0 fd.2 v | none => ⟨v, false, false, false⟩
      let cs := (List.range hd.nrows).flatMap fun y => (List.range hd.ncols).map fun x => c y x
      .ok (s.land b 4 (.handle d.toNat) 6 (convFlags cs &&& 0x18#5) (cs.foldr (fun k a => k.bits % 2 ^ hd.fmt.width + 2 ^ hd.fmt.width * a) 0))
  | some _, none => s.tFail b cTileBinding src.toNat
  | none, _ => s.tFail b cTileBinding d.toNat
/-- TRN. -/
def execTrn (g : SGuard) (d k : THandle) (s : State) : Res := runSlot g (transpose d k none) s
/-- TRNC. -/
def execTrnc (g : SGuard) (d k : THandle) (f : FSel) (s : State) : Res := runSlot g (transpose d k (some f)) s

/-! ### Transfers (R214) -/

/-- XNOP (R98). -/
def execXnop (s : State) : Res := runSlot .always (fun s _ => .ok s) s
/-- XS2T. -/
def execXs2t (g : SGuard) (w : BitVec 4) (k : SReg) (s : State) : Res :=
  runSlot g (fun s b => .ok (s.land b 5 (.vector w.toNat) 3 0 (packLanes fun _ => (b.tile.sv k).toNat))) s
/-- XT2S. -/
def execXt2s (g : SGuard) (k : SReg) (w : BitVec 4) (s : State) : Res :=
  runSlot g (fun s b => .ok (s.land b 5 (.scalar k.toNat) 3 0 ((SMap.get b.tile.w w.toNat 0).toNat % 2 ^ 64))) s

/-! ### Landing (R122, R124, R149, R191) -/

/-- A port entry is filled: 64 lanes converted to the port's format and written (R191). -/
def State.portLand (s : State) (b : Block) (v : Nat) : State :=
  let m := v / 2 ^ 2048
  let f := (Fmt.ofCode (BitVec.ofNat 4 (m >>> 32))).getD .fp32
  let cs := (List.range 64).map fun i => portStore f (BitVec.ofNat 6 (m >>> 40)).toInt (laneOf v i)
  (s.spadWrite b (m % 2 ^ 32) (vecBytes f) (cs.foldr (fun c a => c.bits % 2 ^ f.width + 2 ^ f.width * a) 0)).modBlock b.core b.slot
    fun b => { b with tstat := b.tstat ||| ((convFlags cs &&& 0x18#5).setWidth 64) }
/-- One result lands: its destination and its TSTAT bits. A configured read port's first vector arrives in the third clk after this one (R191): the
count falls at the end of each clk, this one among them, and the vector arrives when it is 1. -/
def State.landOne (s : State) (core slot : Nat) (f : InFlight) : State :=
  match s.block? core slot with
  | none => s
  | some b =>
    let v := f.val
    let up := fun (g : TileCtx → TileCtx) => s.modTile core slot g
    let s1 := match f.dest with
      | .scalar n => up fun t => { t with s := SMap.putD t.s n 0 (BitVec.ofNat 64 v) }
      | .vector n => up fun t => { t with w := SMap.putD t.w n 0 (BitVec.ofNat 2048 v) }
      | .index n => up fun t => { t with ix := SMap.putD t.ix n 0 (BitVec.ofNat 2048 v) }
      | .port _ => s.portLand b v
      | .loop n => up fun t => { t with lc := SMap.putD t.lc n 0 (BitVec.ofNat 32 v) }
      | .sgs => up fun t => { t with sg := BitVec.ofNat 8 v }
      | .fsel => up fun t => { t with fsel := v % 8 }
      | .fmt n => up fun t => { t with ftab := SMap.putD t.ftab n 0 (BitVec.ofNat 10 v) }
      | .level n => up fun t => { t with nest := { t.nest with lv := t.nest.lv.set n (Nest.unpack v) } }
      | .msrc => up fun t => { t with nest := { t.nest with msrc := BitVec.ofNat 33 v } }
      | .macc => up fun t => { t with nest := { t.nest with macc := BitVec.ofNat 33 v } }
      | .pcfg n => up fun t => { t with ports := SMap.put t.ports n ⟨BitVec.ofNat 512 v, 0, if bit v 32 then 0 else 4⟩ }
      | .handle n =>
        match SMap.get? b.tile.handles n with
        | some h => (s.healRegs b (b.handleRegs h)).modBlock core slot fun b => b.tileFill h fun y x => v >>> (h.fmt.width * (y * h.ncols + x))
        | none => s
      | .drop => s
    s1.modBlock core slot fun b => { b with tstat := b.tstat ||| f.tst.setWidth 64 }
/-- Some result of a slot lands now. -/
def State.landNow (s : State) (core slot : Nat) : Bool :=
  match s.block? core slot with | some b => b.tile.infl.any fun f => f.rem == 0 | none => false
/-- TILE_RESULT_LAND: every result of the slot whose latency has run out, in order of issue (R124). -/
def execTileResultLand (core slot : Nat) (s : State) : Res :=
  match s.block? core slot with
  | none => notNow "TILE_RESULT_LAND"
  | some b =>
    if !s.landNow core slot then notNow "TILE_RESULT_LAND"
    else
      .next ((b.tile.infl.filter fun f => f.rem == 0).foldl (fun s f => s.landOne core slot f)
        (s.modTile core slot fun t => { t with infl := t.infl.filter fun f => f.rem != 0 }))

/-- The first vector of a read port arrives (R191). -/
def State.arriveNow (s : State) (core slot port : Nat) : Bool :=
  match (s.block? core slot).bind fun b => SMap.get? b.tile.ports port with | some p => p.arrive == 1 | none => false
/-- PORT_VECTOR_ARRIVE. -/
def execPortVectorArrive (core slot port : Nat) (s : State) : Res :=
  if !s.arriveNow core slot port then notNow "PORT_VECTOR_ARRIVE"
  else .next (s.modTile core slot fun t => { t with ports := t.ports.map fun (p : Nat × Port) => if p.1 == port then (p.1, { p.2 with arrive := 0 }) else p })

/-! ### Bundles that do not issue -/

/-- BUNDLE_DECODE_TRAP (R111): the slot that issues in this step takes the trap of its bundle. -/
def execBundleDecodeTrap (w : BitVec 256) (s : State) : Res :=
  match s.block? s.cur.core s.cur.slot, decodeBundle w with
  | some b, .error e => .next (s.tileFault b.core b.slot (b.tcauseOf (match e with | .illegalOpcode => cIllegalOpcode | _ => cIllegalEncoding) (w.extractLsb' 192 64).toNat) false)
  | _, _ => notNow "BUNDLE_DECODE_TRAP"

/-- A command of a block is held by a page fault (R251). -/
def State.cmdHeld (s : State) (b : Block) : Bool := (s.core b.core).cq.any fun m => m.slot == b.slot && m.grid == b.grid && m.lin == b.lin && m.st == .held
/-- The held commands that a bundle of a slot stalls on (R252), by its stall cause: those that WAITE or RGATE waits for (cause 5), and those that hold up
the queue, the slot's share of it, or the class counter (cause 6, R287). -/
def State.stallsOn (s : State) (b : Block) (bd : Bundle) (k : Nat) : List Nat :=
  let held := (s.core b.core).cq.filter fun m => m.st == .held
  let own := held.filter fun m => m.slot == b.slot && m.grid == b.grid && m.lin == b.lin
  let ops := fun (e : Eng) => (b.tile.ops.filter fun o => o.cls == e && !o.ret).map Op.id
  let among := fun (l : List Nat) => (own.map Cmd.id).filter l.contains
  if k == 5 then
    match bd.s with
    | .waite _ e n => let l := ops e; among (l.take (l.length - n.toNat))
    | _ => (own.filter Cmd.writesTile).map Cmd.id
  else if k == 6 then
    if 32 ≤ (s.core b.core).cq.length then held.map Cmd.id
    else if 16 ≤ ((s.core b.core).cq.filter fun m => m.slot == b.slot && m.grid == b.grid && m.lin == b.lin).length then own.map Cmd.id
    else
      let l := ops (match bd.c with | .cgat _ _ _ _ _ _ => .gather | _ => .copy)
      if 63 ≤ l.length then among l else []
  else []
/-- A slot that has stalled 256 clk with WAITE or CMDQ on a held command, which is held still (R252). -/
def State.stallFrozen (s : State) (b : Block) : Bool :=
  decide (256 ≤ b.tile.stallRun) && (s.core b.core).cq.any fun m => m.st == .held && b.tile.stallOn.contains m.id
/-- TILE_STALL_FREEZE can happen: the stalled slot is the one that the sequencer serves. -/
def State.stallNow (s : State) (core slot : Nat) : Bool :=
  match s.block? core slot with | some b => s.stallFrozen b && !(s.core core).seqFree && (s.core core).seq == slot | none => false
/-- TILE_STALL_FREEZE (R129, R252): the sequencer leaves the slot. -/
def execTileStallFreeze (core slot : Nat) (s : State) : Res :=
  if !s.stallNow core slot then notNow "TILE_STALL_FREEZE" else .next (s.modCore core fun c => { c with seqFree := true })

end Sys2Proof.Machine
end

