-- ==== Sys2Proof/Machine/Copy.lean ====
section
/-! DEFINITION. The C slot and the copy engine: fields and checks of commands, the record cache, data movement, rings, chunks and
completion (R222-R227, R233, R287-R305). -/
namespace Sys2Proof.Machine

/-! ### Fields of a command (R290-R292) -/

/-- The kinds of commands that enter the queue. -/
inductive CKind | ld | st | gat | pre | mc | sum
  deriving DecidableEq, Repr
/-- The kind of a command. -/
def cmdKind (i : Instr) : CKind :=
  match i with | .cst _ _ _ => .st | .cgat _ _ _ _ _ _ => .gat | .cpre _ _ _ => .pre | .cmc _ _ _ => .mc | .csum _ _ _ => .sum | _ => .ld
/-- The common fields. -/
def cmdFld (i : Instr) : CFld :=
  match i with
  | .cld _ c _ | .cst _ c _ | .cpre _ c _ | .cmc _ c _ | .csum _ c _ => c
  | .cgat _ c _ _ _ _ => c
  | _ => ⟨0, .ring 0, 0, 0, false⟩
/-- CMOD: for CGAT BAR alone (R298). -/
def cmdMod (i : Instr) : CMod :=
  match i with
  | .cld _ _ m | .cst _ _ m | .cpre _ _ m | .cmc _ _ m | .csum _ _ m => m
  | .cgat _ _ _ _ _ bar => ⟨false, bar, false, none, 0, false, false, 0⟩
  | _ => ⟨false, false, false, none, 0, false, false, 0⟩
/-- The class of a command (R290). -/
def cmdCls (i : Instr) : Eng := match cmdKind i with | .gat => .gather | _ => .copy
/-- Base scalars (R290). -/
def cmdBase (i : Instr) : Nat := match cmdKind i with | .mc => 8 | .sum => 6 | _ => 5
/-- The position of a scalar of the group after the base: source staging, destination staging, barrier, CRC array (R292). -/
def cmdIx (i : Instr) (k : Nat) : Nat :=
  let m := cmdMod i
  cmdBase i + (if k = 0 then 0 else b2n m.side + (if k = 1 then 0 else b2n m.dside + (if k = 2 then 0 else b2n m.bar)))
/-- A scalar of a group as a number. -/
def grpN (grp : List Dword) (k : Nat) : Nat := (grp.getD k 0).toNat
/-- Start coordinate d of the source, or from scalar 5 on of CMC's destination. -/
def grpStart (grp : List Dword) (o d : Nat) : Int := sextN 32 (grpN grp (o + d / 2) >>> (32 * (d % 2)))
/-- Box extent d. -/
def grpBox (grp : List Dword) (d : Nat) : Nat := grpN grp (3 + d / 4) >>> (16 * (d % 4)) % 65536

/-! ### Records (R23, R24) -/

/-- BUF of a record. -/
def recBuf (r : Nat) : Nat := bits r 127 112
/-- FMT. -/
def recFmt (r : Nat) : Fmt := (Fmt.ofCode (BitVec.ofNat 4 (bits r 79 76))).getD .fp32
/-- NDIM. -/
def recNd (r : Nat) : Nat := bits r 75 73
/-- OOBZ. -/
def recOobz (r : Nat) : Bool := bit r 72
/-- An extent. -/
def recExt (r d : Nat) : Nat := bits r (128 + 32 * d + 31) (128 + 32 * d)
/-- A stride in units of 16 bytes. -/
def recStr (r d : Nat) : Nat := bits r (320 + 32 * (d - 1) + 31) (320 + 32 * (d - 1))
/-- Planes of a code's full width (R291). -/
def planesOf (f : Fmt) : Nat := if f == .tf6 then 6 else 8
/-- The smallest unit of a format in memory: elements and bytes (R22). -/
def fmtUnit : Fmt → Nat × Nat | .tf6 => (4, 3) | .fp32 => (1, 4) | .int32 => (1, 4) | .fp16 => (1, 2) | .bf16 => (1, 2) | _ => (1, 1)
/-- Bytes of n elements. -/
def fmtBytes (f : Fmt) (n : Nat) : Nat := n / (fmtUnit f).1 * (fmtUnit f).2
/-- The offset of an element from a base, signed; xf gives a BSW record its plane count (R24). -/
def recOff (r : Nat) (xf : Option Fmt) (i : Nat → Int) : Int :=
  let off0 := match recFmt r with
    | .bsw => 64 * (planesOf (xf.getD .tf8) : Int) * (i 0 / 512)
    | f => ((fmtUnit f).2 : Int) * (i 0 / ((fmtUnit f).1 : Int))
  off0 + ((List.range 5).map fun k => i (k + 1) * 16 * (recStr r (k + 1) : Int)).sum
/-- Element-wise: an index within the extents in every dimension from 1 on. -/
def recIn (r : Nat) (i : Nat → Int) : Bool := (List.range 5).all fun k => decide (recNd r ≤ k + 1) || (decide (0 ≤ i (k + 1)) && decide (i (k + 1) < recExt r (k + 1)))

/-! ### Checks at issue (R294, R298, R299) -/

/-- What a command of a block names when it issues: instruction, scalars, records, index entries. -/
structure CIss where
  i : Instr
  grp : List Dword
  r1 : Nat
  r2 : Nat
  ents : List Nat
/-- The record of the source (CST: none). -/
def CIss.srcRec (c : CIss) : Option Nat := match cmdKind c.i with | .st => none | _ => some c.r1
/-- The record of a destination in memory. -/
def CIss.dstRec (c : CIss) : Option Nat := match cmdKind c.i with | .st => some c.r1 | .mc => some c.r2 | _ => none
/-- The format of the bytes that move (R293). -/
def CIss.fmt (c : CIss) : Fmt := (cmdMod c.i).xf.getD (recFmt c.r1)
/-- The box of a command. -/
def CIss.box (c : CIss) (d : Nat) : Nat := grpBox c.grp d
/-- Bytes of one box. -/
def CIss.boxBytes (c : CIss) : Nat := fmtBytes c.fmt (((List.range 6).map c.box).foldl (· * ·) 1)
/-- Check 3. -/
def CIss.fmtBad (c : CIss) : Bool :=
  let k := cmdKind c.i
  let bsw := recFmt c.r1 == .bsw
  let xf := (cmdMod c.i).xf
  xf.isSome != bsw || (bsw && !(k == .ld || k == .mc || k == .pre)) || (k == .mc && recFmt c.r2 != c.fmt)
/-- Check 4 for one record and start. -/
def boxBad (r : Nat) (start : Nat → Int) (box : Nat → Nat) : Bool :=
  ((List.range 6).any fun d => box d == 0 || (decide (recNd r ≤ d) && (box d != 1 || start d != 0))) ||
  (recFmt r == .tf6 && (start 0 % 4 != 0 || box 0 % 4 != 0)) || (recFmt r == .bsw && (start 0 % 512 != 0 || box 0 % 512 != 0))
/-- Check 5 for one record and start: the first dimension that leaves the extents (D: CGAT's block dimension, left out). -/
def boxOut (r : Nat) (start : Nat → Int) (box : Nat → Nat) (skip : Option Nat) : Option Nat :=
  if recOobz r then none
  else (List.range (recNd r)).find? fun d => skip != some d && (decide (start d < 0) || decide ((recExt r d : Int) < start d + box d))
/-- The start of the source, or of CST's destination. -/
def CIss.start (c : CIss) (d : Nat) : Int := grpStart c.grp 0 d
/-- The start of CMC's destination. -/
def CIss.start2 (c : CIss) (d : Nat) : Int := grpStart c.grp 5 d
/-- CGAT's block dimension (R298). -/
def CIss.gdim (c : CIss) : Nat := recNd c.r1 - 1
/-- The in-bounds elements of a run in dimension 0 (R293, R294). -/
def run0 (r : Nat) (i0 : Int) (b0 : Nat) : Nat × Nat := ((max 0 (-i0)).toNat, (min (b0 : Int) ((recExt r 0 : Int) - i0)).toNat)

/-- The combinations of x1 to x5 in box order (R293). -/
def boxRuns (box : Nat → Nat) : List (List Nat) :=
  (List.range (box 5)).flatMap fun x5 => (List.range (box 4)).flatMap fun x4 => (List.range (box 3)).flatMap fun x3 =>
    (List.range (box 2)).flatMap fun x2 => (List.range (box 1)).map fun x1 => [x1, x2, x3, x4, x5]
/-- The index of a run's first element. -/
def runIdx (start : Nat → Int) (xs : List Nat) (g : Option (Nat × Nat)) (d : Nat) : Int :=
  match g with
  | some (k, e) => if k == d then (e : Int) else start d + (if d = 0 then 0 else (xs.getD (d - 1) 0 : Nat))
  | none => start d + (if d = 0 then 0 else (xs.getD (d - 1) 0 : Nat))

/-- Check 6 (R299): a staged record and its scalar against the claims of the grid; every byte of the box (R293), also outside the extents, lies in the
claim. -/
def stageBad (gr : Grid) (r : Nat) (xf : Option Fmt) (v : Nat) (start : Nat → Int) (box : Nat → Nat) : Bool :=
  match gr.claims.find? fun c => c.1 == recBuf r && c.2.1 == v % 256 / 64 with
  | none => true
  | some c =>
    bits v 31 8 != 0 ||
    (boxRuns box).any fun xs =>
      let u := match recFmt r with | .bsw => (512, 64 * planesOf (xf.getD .tf8)) | f => fmtUnit f
      let o := (bits v 63 32 : Int) + recOff r xf (runIdx start xs none)
      decide (o < 0) || decide ((c.2.2.1 * 131072 : Int) < o + (box 0 / u.1 * u.2 : Nat))

/-- The first failed check of R294 from check 3 on: cause code and h0. -/
def CIss.check (c : CIss) (b : Block) (gr : Grid) (word : Nat) : Option (Nat × Nat) :=
  let k := cmdKind c.i
  let m := cmdMod c.i
  let f := cmdFld c.i
  let n := c.boxBytes
  let gd := if k == .gat then some c.gdim else none
  let ill : Option (Nat × Nat) := some (cIllegalEncoding, word)
  if c.fmtBad then ill
  else if boxBad c.r1 c.start c.box || (k == .mc && boxBad c.r2 c.start2 c.box) || (k == .gat && (c.start c.gdim != 0 || c.box c.gdim != 1)) || decide (2 ^ 31 < n) then ill
  else
    match boxOut c.r1 c.start c.box gd with
    | some d => some (cBounds, (BitVec.ofInt 64 (c.start d)).toNat)
    | none =>
      match if k == .mc then boxOut c.r2 c.start2 c.box none else none with
      | some d => some (cBounds, (BitVec.ofInt 64 (c.start2 d)).toNat)
      | none =>
        match if k == .gat && !recOobz c.r1 then c.ents.find? (fun e => decide (recExt c.r1 c.gdim ≤ e)) else none with
        | some e => some (cBounds, e)
        | none =>
          let s0 := grpN c.grp (cmdIx c.i 0)
          let s1 := grpN c.grp (cmdIx c.i 1)
          let bar := grpN c.grp (cmdIx c.i 2)
          let ver := grpN c.grp (cmdIx c.i 3)
          let sum := grpN c.grp 5
          if m.side && stageBad gr c.r1 m.xf s0 c.start c.box then some (cBounds, s0)
          else if m.dside && stageBad gr c.r2 none s1 c.start2 c.box then some (cBounds, s1)
          else if (k == .ld || k == .st || k == .gat) && !(match f.loc with
              | .tile t => match SMap.get? b.tile.handles t.toNat with
                | some h => ((List.range 4).all fun d => c.box (d + 2) == 1) && decide (c.box 0 ≤ h.ncols) && decide (c.box 1 ≤ h.nrows) && h.fmt == c.fmt
                | none => false
              | .ring q => (b.ring q.toNat).cfg && decide (c.ents.length * n ≤ (b.ring q.toNat).size)) then some (cTileBinding, locNum f.loc)
          else if k == .sum && sum % 4 != 0 then some (cMisaligned, sum)
          else if m.bar && bar % 32 != 0 then some (cMisaligned, bar)
          else if m.ver && ver % 4 != 0 then some (cMisaligned, ver)
          else if k == .sum && decide (4096 * b.sprows < sum + 4) then some (cBounds, sum)
          else none

/-! ### Memory as an engine reads and writes it (R233, R240, R241-R250, R295) -/

/-- What an engine access meets: the bytes read and whether a halting slice watchpoint matched, a replayable fault at an address with its
reason and level, or a cause at an address. -/
inductive EngR
  | ok (s : State) (bs : List Byte) (hit : Bool)
  | held (s : State) (va reason level : Nat)
  | fail (s : State) (code va : Nat)

/-- The first of n bytes at pa that a test of their sector or line finds bad. -/
def firstBad (p : Nat → Bool) (pa n : Nat) : Option Nat := (List.range n).find? fun k => p (pa + k)
/-- Read n bytes at va, in the pieces that its 64 KiB pages make, at most k pieces; keep: what is read becomes present in L2 (R305). -/
def State.engFetch (s : State) (keep : Bool) (tlb : Tlb) (ctx va n : Nat) : Nat → EngR
  | 0 => .ok s [] false
  | k + 1 =>
    if n == 0 then .ok s [] false
    else
      let m := min n (65536 - va % 65536)
      match s.translate tlb ctx va .read with
      | (s1, .prot) => .fail s1 cProtection va
      | (s1, .pf r l) => .held s1 va r l
      | (s1, .ok pa a) =>
        if s1.poisoned pa m then .fail (s1.ueRead pa m) cUncorrectable (va + (firstBad (fun x => s1.poisoned x 1) pa m).getD 0)
        else
          let s2 := if keep && cachedPage pa a then s1.touchL2 ctx pa m false a else s1
          match State.engFetch s2 keep tlb ctx (va + m) (n - m) k with
          | .ok s3 bs h => .ok s3 (s1.pbytes pa m ++ bs) h
          | r => r
/-- Read n bytes at va into L2, at most k pieces. -/
def State.engRead (s : State) (tlb : Tlb) (ctx va n k : Nat) : EngR := s.engFetch true tlb ctx va n k

/-- Registers of slice watchpoint j of slice n (R414). -/
def swReg (n j k : Nat) : Nat := ctxReg 0 (0x40000 + 512 * n + 16 * j + 8 * k)
/-- The slice watchpoints that a write of n bytes at pa matches, of the kind whose enable is bit kb: index, lowest watched byte from pa,
and HALT (R414). A watchpoint matches writes of the context that receives its reports (log 30). -/
def State.swMatch (s : State) (kb ctx home pa n : Nat) : List (Nat × Nat × Bool) :=
  if !s.regs.any fun r => decide (0x40000 ≤ r.1) && decide (r.1 < 0x60000) then []
  else
    let sl := homeSlice home pa
    (List.range 32).filterMap fun j =>
      let a := s.regN (swReg sl j 0)
      let c := s.regN (swReg sl j 1)
      if bit c 0 && bit c kb && bits c 63 48 == ctx then
        ((List.range n).find? fun k => (pa + k) % 2 ^ 48 / 16 == bits a 47 4 && bit c (16 + (pa + k) % 16)).map fun k => (j, k, bit c 2)
      else none
/-- Note the hits of a write for the latch (R415): the lowest watchpoint reports; whether some hit halts. -/
def State.swNote (s : State) (w : Writer) (home pa n va : Nat) : State × Bool :=
  let hits := s.swMatch w.kind w.ctx home pa n
  let halt := hits.any fun x => x.2.2
  match hits with
  | [] => (s, false)
  | (j, k, _) :: _ => ({ s with swHits := s.swHits ++ [⟨homeSlice home pa, j, w, BitVec.ofNat 64 (va + k), halt⟩] }, halt)

/-- Write bytes at va for an engine of a core. -/
def State.engWrite (s : State) (tlb : Tlb) (core va : Nat) (w : Writer) (bs : List Byte) : Nat → EngR
  | 0 => .ok s [] false
  | k + 1 =>
    if bs.isEmpty then .ok s [] false
    else
      let m := min bs.length (65536 - va % 65536)
      match s.translate tlb w.ctx va .write with
      | (s1, .prot) => .fail s1 cProtection va
      | (s1, .pf r l) => .held s1 va r l
      | (s1, .ok pa a) =>
        if s1.partPoison pa m then .fail s1 cUncorrectable va
        else
          if s1.metaUe pa m then .fail (s1.ueWrite pa m) cMetaUe va
          else
            let s2 := ((s1.l1Engine core pa m).rcWrite core w.ctx va m).pwrite w.ctx pa (leNat (bs.take m)) m a
            let (s3, hit) := s2.swNote w (bits a.toNat 9 8) pa m va
            match State.engWrite s3 tlb core (va + m) w (bs.drop m) k with
            | .ok s4 _ h => .ok s4 [] (hit || h)
            | r => r

/-! ### The record cache (R288, R289) -/

/-- Read a tensor record of a block's image: through the cache, or at its home slice when REL is set. -/
def State.recFetch (s : State) (b : Block) (gr : Grid) (k : Nat) (rel : Bool) : EngR :=
  let va := gr.img.base + gr.img.tensOff + 64 * k
  match if rel then none else (s.core b.core).rcache.find? fun r => r.1 == b.ctx && r.2.1 == va with
  | some r => .ok s (leBytes r.2.2.toNat 64) false
  | none =>
    match s.engRead (.quad (quadOf b.core)) b.ctx va 64 2 with
    | .ok s1 bs _ =>
      .ok (s1.modCore b.core fun c => { c with
        rcache := ((b.ctx, va, BitVec.ofNat 512 (leNat bs)) :: c.rcache.filter fun r => !(r.1 == b.ctx && r.2.1 == va)).take 64 }) bs false
    | r => r

/-- A replayable fault of a core's engine or tile side on its way to the fault unit (R253, R254). -/
def State.engReport (s : State) (b : Block) (core va kind reason level src : Nat) : State :=
  s.report ⟨b.ctx, BitVec.ofNat 64 va, ((s.gridOf b).map Grid.token).getD 0, kind, reason, level, src, core, b.slot, 0xFF, none⟩
/-- The tile side stops at a fetch that a page fault holds (R251, R288). -/
def State.holdFetch (s : State) (b : Block) (va reason level : Nat) : State :=
  (s.engReport b b.core va 4 reason level 1).modBlock b.core b.slot fun b => { b with
    state := .frozen, why := if b.why.contains .fetch then b.why else .fetch :: b.why, frozenTile := true, fetchVa := some (BitVec.ofNat 64 va) }

/-! ### Issue (R287, R294) -/

/-- A cause that a C slot raises with a virtual address (R380). -/
def Block.tcauseVa (b : Block) (code va : Nat) : Cause := { b.tcauseOf code va with va := BitVec.ofNat 64 va }
/-- The entries that CGAT names, as a snapshot (R211, R298); [0] stands for one box. -/
def cmdEnts (i : Instr) (t : TileCtx) : List Nat :=
  match i with
  | .cgat _ _ ix first nm1 _ => (List.range (nm1.toNat + 1)).map fun k => laneOf (SMap.get t.ix ix.toNat 0).toNat (first.toNat + k)
  | _ => [0]
/-- A command finds no room: the queue, the slot's share, or the class counter (R287). -/
def State.cmdFull (s : State) (b : Block) (e : Eng) : Bool :=
  let q := (s.core b.core).cq
  decide (32 ≤ q.length) || decide (16 ≤ (q.filter fun m => m.slot == b.slot && m.grid == b.grid && m.lin == b.lin).length) || decide (63 ≤ countOps b.tile.ops e)

/-- A command enters the queue (R287): a command with REL has its release actions first (R288). -/
def State.enqueue (s : State) (b : Block) (c : CIss) : State :=
  let f := s.fresh
  let m : Cmd :=
    { id := f.1, core := b.core, slot := b.slot, ctx := b.ctx, grid := b.grid, lin := b.lin, i := c.i, grp := c.grp, rec1 := BitVec.ofNat 512 c.r1,
      rec2 := BitVec.ofNat 512 c.r2, hnd := (match (cmdFld c.i).loc with | .tile t => SMap.get? b.tile.handles t.toNat | .ring _ => none),
      ixs := (match c.i with | .cgat _ _ ix _ _ _ => SMap.get b.tile.ix ix.toNat 0 | _ => 0), tpc := b.tile.pc, st := .queued, va := 0, pos := 0,
      crc := 0xFFFFFFFF, chunks := [], counted := 0, err := none, watched := false,
      after := b.tile.order (cmdFld c.i).rel ((cmdFld c.i).cls == 0) }
  (f.2.modCore b.core fun x => { x with cq := x.cq ++ [m] }).tileOp b (cmdCls c.i) f.1

/-- The checks after the records are read, and the entry into the queue. -/
def State.issueCmd (s : State) (b : Block) (gr : Grid) (i : Instr) (grp : List Dword) (r1 r2 : Nat) : SEff :=
  let c : CIss := ⟨i, grp, r1, r2, cmdEnts i b.tile⟩
  let n := gr.img.bufs.length
  if tensorBad r1 n || (cmdKind i == .mc && tensorBad r2 n) then s.tIllegal b
  else
    match c.check b gr s.cur.word.toNat with
    | some (code, h0) => if code == cMisaligned then .fault s (b.tcauseVa code h0) else s.tFail b code h0
    | none => .ok (s.enqueue b c)

/-- One record of a command, and what follows. -/
def State.withRec (s : State) (b : Block) (gr : Grid) (k : Nat) (rel : Bool) (next : State → Nat → SEff) : SEff :=
  match s.recFetch b gr k rel with
  | .ok s1 bs _ => next s1 (leNat bs)
  | .held s1 va r l => .hold (s1.holdFetch b va r l)
  | .fail s1 code va => .fault s1 (b.tcauseVa code va)

/-- A C-slot command other than CRING issues (R287, R288, R294). -/
def cmdEff (i : Instr) (s : State) (b : Block) : SEff :=
  match s.gridOf b with
  | none => .ok s
  | some gr =>
    let f := cmdFld i
    let m := cmdMod i
    let mc := cmdKind i == .mc
    if s.cmdFull b (cmdCls i) then .stall 6
    else if gr.img.tensCount ≤ f.tens.toNat then s.tFail b cBounds f.tens.toNat
    else if mc && decide (gr.img.tensCount ≤ m.tens2.toNat) then s.tFail b cBounds m.tens2.toNat
    else
      let s0 := if f.rel then s.release b.core .sys else s
      let grp := (List.range 13).map fun k => b.tile.sv (f.sc + BitVec.ofNat 5 k)
      s0.withRec b gr f.tens.toNat f.rel fun s1 r1 =>
        if mc then s1.withRec b gr m.tens2.toNat f.rel fun s2 r2 => s2.issueCmd b gr i grp r1 r2
        else s1.issueCmd b gr i grp r1 0

/-- CNOP (R98). -/
def execCnop (s : State) : Res := runSlot .always (fun s _ => .ok s) s
/-- CLD (R297). -/
def execCld (g : SGuard) (c : CFld) (m : CMod) (s : State) : Res := runSlot g (cmdEff (.cld g c m)) s
/-- CST (R297). -/
def execCst (g : SGuard) (c : CFld) (m : CMod) (s : State) : Res := runSlot g (cmdEff (.cst g c m)) s
/-- CGAT (R298). -/
def execCgat (g : SGuard) (c : CFld) (ix : BitVec 2) (first nm1 : BitVec 6) (bar : Bool) (s : State) : Res :=
  runSlot g (cmdEff (.cgat g c ix first nm1 bar)) s
/-- CPRE (R300). -/
def execCpre (g : SGuard) (c : CFld) (m : CMod) (s : State) : Res := runSlot g (cmdEff (.cpre g c m)) s
/-- CMC (R297). -/
def execCmc (g : SGuard) (c : CFld) (m : CMod) (s : State) : Res := runSlot g (cmdEff (.cmc g c m)) s
/-- CSUM (R300). -/
def execCsum (g : SGuard) (c : CFld) (m : CMod) (s : State) : Res := runSlot g (cmdEff (.csum g c m)) s

end Sys2Proof.Machine
end

