-- ==== Sys2Proof/Machine/CopyMove.lean ====
section
/-! DEFINITION. The copy engine at work: pieces of a box, their movement, start, rings, chunks, completion, and CRING (R222-R227, R287,
R293-R304). -/
namespace Sys2Proof.Machine

/-! ### Pieces of a command (R293, R297-R299, R304) -/

/-- Where the bytes of a piece come from. -/
inductive PSrc
  | zero
  | mem (va : Nat)
  | stage (slice buf off : Nat)
  | tile (y x : Nat)
  deriving DecidableEq, Repr
/-- Where they go. -/
inductive PDst
  | none
  | mem (va : Nat)
  | stage (slice buf off : Nat)
  | ring
  | tile (y x : Nat)
  deriving DecidableEq, Repr
/-- A piece of the byte stream of a command: its place in the stream, its bytes, source, destination; of an expanded block, the bytes before it. -/
structure Piece where
  off : Nat
  n : Nat
  src : PSrc
  skip : Nat
  dst : PDst
  deriving DecidableEq, Repr

/-- What a command named when it issued. -/
def Cmd.iss (m : Cmd) : CIss :=
  ⟨m.i, m.grp, m.rec1.toNat, m.rec2.toNat, cmdEnts m.i { TileCtx.empty with ix := (List.range 4).map fun k => (k, m.ixs) }⟩
/-- Bytes of a command's stream. -/
def Cmd.total (m : Cmd) : Nat := m.iss.ents.length * m.iss.boxBytes
/-- The class of a command. -/
def Cmd.cls (m : Cmd) : Eng := cmdCls m.i

/-- One side of a run in memory or staging: in-bounds units, and the place of unit 0, signed. -/
structure Side where
  lo : Nat
  hi : Nat
  base : Int
/-- A side from a record (R24, R294, R299): stg is the staging scalar, if any. -/
def recSide (r : Nat) (xf : Option Fmt) (u b0 : Nat) (stg : Option Nat) (i : Nat → Int) : Side :=
  let w := if recIn r i then run0 r (i 0) b0 else (0, 0)
  ⟨w.1 / u, w.2 / u, (match stg with | some v => (bits v 63 32 : Int) | none => (bits r 63 0 : Int)) + recOff r xf i⟩
/-- Units from unit k up to where its bounds change. -/
def Side.span (d : Side) (k n : Nat) : Nat := if k < d.lo then d.lo - k else if k < d.hi then d.hi - k else n - k
/-- Unit k is in bounds. -/
def Side.has (d : Side) (k : Nat) : Bool := decide (d.lo ≤ k) && decide (k < d.hi)
/-- Units of ub bytes that fit from address a up to the next multiple of g. -/
def upTo (g a ub : Nat) : Nat := max 1 ((g - a % g) / ub)

/-- The pieces of one run from unit k on: of source src and destination dst, with the units each allows. -/
def runPieces (n ub o : Nat) (src : Nat → PSrc × Nat × Nat) (dst : Nat → PDst × Nat) : Nat → Nat → List Piece
  | 0, _ => []
  | fuel + 1, k =>
    if n ≤ k then []
    else
      let s := src k
      let d := dst k
      let m := max 1 (min (n - k) (min s.2.2 d.2))
      ⟨o + ub * k, ub * m, s.1, s.2.1, d.1⟩ :: runPieces n ub o src dst fuel (k + m)

/-- The pieces of a command in box order, entry by entry (R293, R297, R298), each within 512 bytes of memory or staging (log 42). -/
def Cmd.pieces (m : Cmd) : List Piece :=
  let c := m.iss
  let k := cmdKind m.i
  let md := cmdMod m.i
  let loc := (cmdFld m.i).loc
  let u := fmtUnit c.fmt
  let b0 := c.box 0
  let n := b0 / u.1
  let addr := fun (d : Side) (j : Nat) => (BitVec.ofInt 64 (d.base + u.2 * j)).toNat
  let s0 := grpN c.grp (cmdIx m.i 0)
  let s1 := grpN c.grp (cmdIx m.i 1)
  let bu := 512 / u.1
  let one := fun (o : Nat) (xs : List Nat) (g : Option (Nat × Nat)) =>
    let y := xs.getD 0 0
    let i := runIdx c.start xs g
    let a := recSide c.r1 md.xf u.1 b0 (if md.side then some s0 else none) i
    let place := fun (stg : Bool) (v r x : Nat) => if stg then PSrc.stage (v % 256) (recBuf r) x else .mem x
    let src := fun (j : Nat) =>
      if k == .st then (PSrc.tile y (u.1 * j), 0, n)
      else if !a.has j then (.zero, 0, a.span j n)
      else if md.xf.isSome then (place md.side s0 c.r1 (addr a (j / bu * bu)), u.2 * (j % bu), min (a.span j n) (bu - j % bu))
      else (place md.side s0 c.r1 (addr a j), 0, min (a.span j n) (upTo 512 (addr a j) u.2))
    let put := fun (d : Side) (stg : Bool) (v r j : Nat) =>
      if !d.has j then (PDst.none, d.span j n)
      else (if stg then .stage (v % 256) (recBuf r) (addr d j) else .mem (addr d j), min (d.span j n) (upTo 512 (addr d j) u.2))
    let dst := fun (j : Nat) =>
      match k with
      | .st => put a md.side s0 c.r1 j
      | .mc => put (recSide c.r2 none u.1 b0 (if md.dside then some s1 else none) (runIdx c.start2 xs none)) md.dside s1 c.r2 j
      | .pre | .sum => (.none, n)
      | _ => match loc with | .ring _ => (.ring, n) | .tile _ => (.tile y (u.1 * j), n)
    runPieces n u.2 o src dst n 0
  let runs := boxRuns c.box
  let rb := u.2 * n
  (List.range c.ents.length).flatMap fun e => (List.range runs.length).flatMap fun r =>
    one (e * c.boxBytes + r * rb) (runs.getD r []) (if k == .gat then some (c.gdim, c.ents.getD e 0) else none)

/-! ### Blocks by identity: resident, or saved (R295) -/

/-- A block of a grid, resident or saved. -/
def State.home? (s : State) (grid lin : Nat) : Option Block :=
  (s.blocks.find? fun b => b.grid == grid && b.lin == lin).or ((s.saved.find? fun v => v.grid == grid && v.lin == lin).map Saved.snap)
/-- Change a block of a grid, resident or saved. -/
def State.modHome (s : State) (grid lin : Nat) (f : Block → Block) : State :=
  { s with
    blocks := s.blocks.map fun b => if b.grid == grid && b.lin == lin then f b else b
    saved := s.saved.map fun v => if v.grid == grid && v.lin == lin then { v with snap := f v.snap } else v }
/-- Replace a command where it is queued. -/
def State.setCmd (s : State) (m : Cmd) : State :=
  { s with cores := s.cores.map fun (c : Nat × CoreSt) => (c.1, { c.2 with cq := c.2.cq.map fun (x : Cmd) => if x.id == m.id then m else x }) }
/-- Write bytes of a block's scratchpad; words wholly written are no longer uncorrectable. -/
def State.homePut (s : State) (b : Block) (x : Nat) (bs : List Byte) : State :=
  let s1 := s.modHome b.grid b.lin fun b => { b with spad := Mem.put b.spad x bs }
  if s.poolBad.isEmpty then s1
  else { s1 with poolBad := s1.poolBad.filter fun w => !(List.range (bs.length / 8)).any fun k => b.spadWord (roundUpTo x 8 + 8 * k) == w && decide (roundUpTo x 8 + 8 * k + 8 ≤ x + bs.length) }
/-- The registers of a handle all of whose elements lie in its first ny rows and nx columns. -/
def Block.boxRegs (b : Block) (h : Handle) (ny nx : Nat) : List (Nat × Nat × Nat) :=
  let per := Fmt.perReg h.fmt
  let nt := if h.lane then nx else ny
  let ne := if h.lane then ny else nx
  (List.range nt).flatMap fun t =>
    let (w, l) := b.roleThread h.role (h.t0 + t)
    (List.range (ne / per)).map fun r => (w, l, h.reg0 + r)
/-- Write one element of a tile. -/
def Block.tilePut (b : Block) (h : Handle) (y x v : Nat) : Block :=
  let p := h.place y x
  let (w, l) := b.roleThread h.role p.1
  b.modThread w l fun th =>
    let old := (SMap.get th.regs p.2.1 0).toNat
    let m := 2 ^ h.fmt.width
    { th with regs := SMap.putD th.regs p.2.1 0 (BitVec.ofNat 32 (old - (old >>> p.2.2 % m) <<< p.2.2 + (v % m) <<< p.2.2)) }

/-! ### Staging (R237, R299) -/

/-- Where a staging offset of a buffer on a slice lies. -/
def Grid.stageByte (g : Grid) (slice buf o : Nat) : Nat :=
  match g.claims.find? fun c => c.1 == buf && c.2.1 == slice / 64 with
  | some c => stageAt slice (c.2.2.2.getD (o / 131072) 0) (o % 131072)
  | none => stageAt slice 0 o
/-- Read staging bytes. -/
def State.stageRead (s : State) (g : Grid) (slice buf o n : Nat) : List Byte := (List.range n).map fun k => Mem.get s.staging (g.stageByte slice buf (o + k))
/-- Write staging bytes. -/
def State.stageWrite (s : State) (g : Grid) (slice buf o : Nat) (bs : List Byte) : State :=
  { s with staging := ((List.range bs.length).zip bs).foldl (fun m x => Mem.set m (g.stageByte slice buf (o + x.1)) x.2) s.staging }

/-! ### Movement (R295, R297, R300, R303, R304) -/

/-- The codes of a bit-sliced block of w bits from its first p planes, as one number (R304). -/
def expandPlanes (w p : Nat) (mid : Bool) (bs : List Byte) : List Nat :=
  (List.range 512).map fun j =>
    (List.range p).foldl (fun c k => c + b2n ((bs.getD (64 * k + j / 8) 0).getLsbD (j % 8)) <<< (w - 1 - k)) (if mid && decide (p < w) then 2 ^ (w - 1 - p) else 0)
/-- A list of w-bit elements as bytes (R22). -/
def packElems (w : Nat) (es : List Nat) : List Byte := leBytes (es.foldr (fun e a => e % 2 ^ w + 2 ^ w * a) 0) (es.length * w / 8)
/-- Element k of packed bytes. -/
def elemAt (w : Nat) (bs : List Byte) (k : Nat) : Nat := leNat bs >>> (w * k) % 2 ^ w

/-- A read of bit-sliced planes leaves them in L2 unless they are marked for a controller (R305): the mark is EXP of the record's buffer (R12), 3
without one. -/
def Cmd.keeps (m : Cmd) (g : Grid) : Bool :=
  (cmdMod m.i).xf.isNone || recBuf m.rec1.toNat == 0xFFFF ||
  decide (2 ≤ bits (((g.img.bufs[recBuf m.rec1.toNat]?).map BufE.attr).getD 0xC0) 7 6)
/-- Bytes that a piece of a command reads at its source: the fetched planes of a block under XF (R304). -/
def Cmd.fetched (m : Cmd) (p : Piece) : Nat := if (cmdMod m.i).xf.isSome then 64 * ((cmdMod m.i).pl.toNat + 1) else p.n
/-- Read a piece. -/
def State.pieceRead (s : State) (m : Cmd) (b : Block) (g : Grid) (p : Piece) : EngR :=
  let md := cmdMod m.i
  let tlb := Tlb.quad (quadOf m.core)
  let w := m.iss.fmt.width
  let x := fun (bs : List Byte) => match md.xf with
    | some f => ((packElems w (expandPlanes (planesOf f) (md.pl.toNat + 1) md.mid bs)).drop p.skip).take p.n
    | none => bs
  let n := m.fetched p
  match p.src with
  | .zero => .ok s (List.replicate p.n 0#8) false
  | .mem va => (match s.engFetch (m.keeps g) tlb m.ctx va n 3 with | .ok s1 bs _ => .ok s1 (x bs) false | r => r)
  | .stage sl buf o => .ok s (x (s.stageRead g sl buf o n)) false
  | .tile y x0 =>
    match m.hnd with
    | none => .ok s (List.replicate p.n 0#8) false
    | some h =>
      if s.handleUe b h then .fail s cUncorrectable 0
      else .ok s (packElems w ((List.range (8 * p.n / w)).map fun k => b.tileElem h y (x0 + k))) false

/-- Write a piece. -/
def State.pieceWrite (s : State) (m : Cmd) (b : Block) (g : Grid) (p : Piece) (bs : List Byte) : EngR :=
  match p.dst with
  | .none => .ok s [] false
  | .mem va => s.engWrite (.quad (quadOf m.core)) m.core va ⟨3, m.core, m.ctx, m.id, m.grid, m.lin, ⟨m.core, m.slot, 0, 0⟩, m.tpc⟩ bs 3
  | .stage sl buf o => .ok (s.stageWrite g sl buf o bs) [] false
  | .ring =>
    let r := b.ring (locNum (cmdFld m.i).loc)
    match r.resvs.find? fun x => x.id == m.id with
    | none => .ok s [] false
    | some x =>
      let a := (x.start + p.off) % r.size
      let k := min bs.length (r.size - a)
      .ok ((s.homePut b (r.rbase + a) (bs.take k)).homePut b r.rbase (bs.drop k)) [] false
  | .tile y x0 =>
    match m.hnd with
    | none => .ok s [] false
    | some h =>
      let w := m.iss.fmt.width
      .ok ((s.healRegs b (if y + 1 == m.iss.box 1 && x0 + 8 * p.n / w == m.iss.box 0 then b.boxRegs h (m.iss.box 1) (m.iss.box 0) else [])).modHome b.grid b.lin fun b => (List.range (8 * p.n / w)).foldl (fun b k => b.tilePut h y (x0 + k) (elemAt w bs k)) b) [] false

/-- Chunks of a command's stream (R302). -/
def Cmd.nChunks (m : Cmd) : Nat := (m.total + 4095) / 4096
/-- The chunk of a command that an address it fails at belongs to (R295, R380): of the piece that moves, else the one that is to be counted. -/
def Cmd.chunkAt (m : Cmd) (va : Nat) : Nat :=
  match m.pieces[m.pos]? with
  | none => m.counted
  | some p =>
    let o := match p.src, p.dst with
      | .mem a, .mem d => if a ≤ va && va < a + p.n then va - a else if d ≤ va && va < d + p.n then va - d else 0
      | .mem a, _ => if (cmdMod m.i).xf.isNone && a ≤ va && va < a + p.n then va - a else 0
      | _, .mem d => if d ≤ va && va < d + p.n then va - d else 0
      | _, _ => 0
    (p.off + o) / 4096
/-- A command ends with a fault (R295): its report names its tile PC, address and chunk; chunks that have landed are counted still unless the fault is
one of counting (R302, R303). The first fault stays. -/
def State.cmdEndBy (s : State) (m : Cmd) (code va chunk : Nat) (h4 : Dword) (keep : Bool) : State :=
  let c := { engFault code va (BitVec.ofNat 64 va) m.cls m.core m.tpc with chunk := chunk, h4 := h4 }
  s.setCmd { m with st := .moved, chunks := if keep then m.chunks else [], err := m.err.or (some c) }
/-- A command fails at an address of its movement. -/
def State.cmdFail (s : State) (m : Cmd) (code va : Nat) : State := s.cmdEndBy m code va (m.chunkAt va) 0 true
/-- A replayable fault holds a command (R251); that of an aborting grid is dropped (R54). -/
def State.cmdHold (s : State) (m : Cmd) (va kind reason level : Nat) : State :=
  if s.gridDead m.grid then
    ({ s with cores := s.cores.map fun (c : Nat × CoreSt) => (c.1, { c.2 with cq := c.2.cq.filter fun (x : Cmd) => x.id != m.id }) }).opDone m.id m.cls none
  else
    let tok := ((s.grid? m.grid).map Grid.token).getD 0
    (s.report ⟨m.ctx, BitVec.ofNat 64 va, tok, kind, reason, level, 2, m.core, m.slot, 0xFF, none⟩).setCmd { m with st := .held, va := BitVec.ofNat 64 va }

/-- CRC-32C over bytes (R300). -/
def crcBytes (c : Nat) (bs : List Byte) : Nat := bs.foldl (fun c b => crcStep (c ^^^ b.toNat) 8) c
/-- Add stream bytes from offset o to the chunks of a command (R302, R303). -/
def chunkBytes : List Byte → Nat → Nat → List (Nat × Nat) → Nat × List (Nat × Nat)
  | [], _, c, ch => (c, ch)
  | b :: bs, o, c, ch =>
    let c1 := crcStep (c ^^^ b.toNat) 8
    if (o + 1) % 4096 == 0 then chunkBytes bs (o + 1) 0xFFFFFFFF (ch ++ [(4096, c1 ^^^ 0xFFFFFFFF)]) else chunkBytes bs (o + 1) c1 ch
/-- A command counts chunks. -/
def Cmd.counts (m : Cmd) : Bool := (cmdMod m.i).bar || (cmdMod m.i).ver
/-- A command after a piece of bytes has moved. -/
def Cmd.moved (m : Cmd) (p : Piece) (bs : List Byte) : Cmd :=
  if cmdKind m.i == .sum then { m with pos := m.pos + 1, crc := crcBytes m.crc bs }
  else if m.counts then let r := chunkBytes bs p.off m.crc m.chunks; { m with pos := m.pos + 1, crc := r.1, chunks := r.2 }
  else { m with pos := m.pos + 1 }

/-- Mark the reservation of a command landed (R224). -/
def State.cmdLand (s : State) (m : Cmd) : State :=
  match (cmdFld m.i).loc with
  | .ring q => s.modHome m.grid m.lin fun b =>
      if (b.ring q.toNat).resvs.any fun x => x.id == m.id then
        b.modRing q.toNat fun r => { r with resvs := r.resvs.map fun (x : Resv) => if x.id == m.id then { x with landed := true } else x }
      else b
  | .tile _ => s
/-- All pieces have moved (R287, R300): CSUM writes its result; the last chunk is as long as what is left. -/
def State.cmdEnd (s : State) (m : Cmd) (b : Block) : State :=
  let n := m.total % 4096
  let m1 := { m with st := .moved, chunks := if m.counts && cmdKind m.i != .sum && n != 0 then m.chunks ++ [(n, m.crc ^^^ 0xFFFFFFFF)] else m.chunks }
  let s1 := s.setCmd m1
  if cmdKind m.i == .sum then s1.homePut b (grpN m.grp 5) (leBytes (m.crc ^^^ 0xFFFFFFFF) 4)
  else if (cmdMod m.i).ver then s1 else s1.cmdLand m

/-- Move the next piece of a command (R295): a fault holds or ends it; a halting watchpoint stops it (R415); after the last piece all has moved. -/
def State.moveOne (s : State) (m : Cmd) (b : Block) (g : Grid) (p : Piece) (last : Bool) : State :=
  match s.pieceRead m b g p with
  | .held s1 va r l => s1.cmdHold m va 5 r l
  | .fail s1 code va => s1.cmdFail m code va
  | .ok s1 bs _ =>
    match s1.pieceWrite m b g p bs with
    | .held s2 va r l => s2.cmdHold m va 6 r l
    | .fail s2 code va => s2.cmdFail m code va
    | .ok s2 _ hit =>
      let m1 : Cmd := { m.moved p bs with watched := hit }
      if last then s2.cmdEnd m1 b else s2.setCmd m1
/-- One line of a CPRE becomes resident (R300); one that faults or is poisoned is dropped. -/
def State.preLine (s : State) (m : Cmd) (keep : Bool) (va n : Nat) : State :=
  match s.translate (.quad (quadOf m.core)) m.ctx va .read with
  | (s1, .ok pa a) => if keep && cachedPage pa a && !s1.poisoned pa n then s1.touchL2 m.ctx pa n false a else s1
  | (s1, _) => s1
/-- The lines of a piece of a CPRE (R300): those of its planes under XF. -/
def State.prePiece (s : State) (m : Cmd) (g : Grid) (p : Piece) : State :=
  match p.src with
  | .mem va => (linesOf va (m.fetched p)).foldl (fun s k =>
      let lo := max va (512 * k)
      s.preLine m (m.keeps g) lo (min (va + m.fetched p) (512 * k + 512) - lo)) s
  | _ => s
/-- Move the next piece of a command. -/
def State.runCmd (s : State) (m0 : Cmd) : State :=
  let m : Cmd := { m0 with st := .reserved }
  let ps := m.pieces
  match m.err.isSome, s.home? m.grid m.lin, s.grid? m.grid, ps[m.pos]? with
  | false, some b, some g, some p =>
    if cmdKind m.i == .pre then
      (s.prePiece m g p).setCmd (if m.pos + 1 < ps.length then { m with pos := m.pos + 1 } else { m with st := .moved, pos := m.pos + 1 })
    else s.moveOne m b g p (decide (ps.length ≤ m.pos + 1))
  | _, _, _, _ => s.setCmd { m with st := .moved }

/-! ### Start (R224, R251, R287, R288) -/

/-- Bytes that a command touches: space, first byte, bytes, written, the ring that they belong to as its destination. Spaces: 0 memory, 1 scratchpad,
from 2 on staging by slice and buffer, from 2^32 on the registers of a thread. -/
structure Span where
  space : Nat
  lo : Nat
  n : Nat
  w : Bool
  ring : Option Nat
/-- Two spans overlap and one of them is written (R288); reservations of one ring are apart. -/
def Span.meets (a b : Span) : Bool :=
  a.space == b.space && (a.w || b.w) && decide (a.lo < b.lo + b.n) && decide (b.lo < a.lo + a.n) && !(a.ring.isSome && a.ring == b.ring)

/-- The ring that a command fills. -/
def Cmd.ringOf (m : Cmd) : Option Nat :=
  match cmdKind m.i, (cmdFld m.i).loc with | .ld, .ring q => some q.toNat | .gat, .ring q => some q.toNat | _, _ => none
/-- The bytes of a ring that a command writes: those it has reserved, or any. -/
def Cmd.ringSpans (m : Cmd) (b : Block) (q : Nat) : List Span :=
  let r := b.ring q
  match r.resvs.find? fun x => x.id == m.id with
  | some x =>
    let a := x.start % r.size
    let k := min x.len (r.size - a)
    [⟨1, r.rbase + a, k, true, some q⟩, ⟨1, r.rbase, x.len - k, true, some q⟩]
  | none => if r.cfg then [⟨1, r.rbase, r.size, true, some q⟩] else []
/-- What a command touches: its source, its destination, its ring, and the CRC array of VER. -/
def Cmd.spans (m : Cmd) (b : Block) : List Span :=
  let tile := fun (w : Bool) => match m.hnd with
    | some h => (b.handleRegs h).map fun p => Span.mk (2 ^ 32 + 32 * p.1 + p.2.1) p.2.2 1 w none
    | none => []
  (m.pieces.flatMap fun p =>
    (match p.src with | .mem va => [Span.mk 0 va (m.fetched p) false none] | .stage sl buf o => [⟨2 + sl + 256 * buf, o, m.fetched p, false, none⟩] | _ => []) ++
    (match p.dst with | .mem va => [Span.mk 0 va p.n true none] | .stage sl buf o => [⟨2 + sl + 256 * buf, o, p.n, true, none⟩] | _ => [])) ++
  (match cmdKind m.i with | .ld => tile true | .st => tile false | .sum => [Span.mk 1 (grpN m.grp 5) 4 true none] | _ => []) ++
  (match m.ringOf with | some q => m.ringSpans b q | none => []) ++
  (if (cmdMod m.i).ver then [Span.mk 0 (grpN m.grp (cmdIx m.i 3)) (4 * m.nChunks) false none] else [])
/-- Two commands overlap and one of them writes there (R288). -/
def overlaps (x y : List Span) : Bool := x.any fun a => y.any a.meets

/-- A command waits for space of its ring (R224). -/
def State.ringWaits (s : State) (m : Cmd) : Bool :=
  match m.ringOf, s.home? m.grid m.lin with | some q, some b => (b.ring q).waits.contains m.id | _, _ => false
/-- Commands of a core in progress: fewer than 8 (R287). -/
def CoreSt.cmdRoom (c : CoreSt) : Bool := decide ((c.cq.filter fun x => x.st != .queued).length < 8)
/-- A queued command may start: fewer than 8 are in progress, its context is not frozen, the accesses that it is ordered after have been performed
(R194, R288), and no earlier command of its slot that it overlaps is outstanding. -/
def State.mayStart (s : State) (c : CoreSt) (m : Cmd) : Bool :=
  c.cmdRoom && !s.frozenCtx m.ctx &&
  match s.home? m.grid m.lin with
  | none => false
  | some b => b.inOrder m.after && !(c.cq.takeWhile fun x => x.id != m.id).any fun x => x.grid == m.grid && x.lin == m.lin && overlaps (x.spans b) (m.spans b)
/-- The next command in issue order that waits neither for its ring nor behind a held command of its class, if it may start. -/
def State.nextQueued (s : State) (core : Nat) : Option Cmd :=
  let c := s.core core
  (c.cq.find? fun m => m.st == .queued && !s.ringWaits m && !(c.cq.takeWhile fun x => x.id != m.id).any fun x => x.st == .held && x.cls == m.cls).filter (s.mayStart c)
/-- The commands of a core whose next bytes the engine can move: those in progress, and the one that can start (R287). -/
def State.movers (s : State) (core : Nat) : List Cmd :=
  ((s.core core).cq.filter fun m => m.st == .reserved && !m.watched) ++ (s.nextQueued core).toList
/-- The command whose bytes the engine of a core moves next: a free choice among several, whose bytes thus interleave (R287, log 42). -/
def State.nextCmd (s : State) (core : Nat) : Option Cmd :=
  match s.movers core with
  | [] => none
  | [m] => some m
  | m :: ms => (m :: ms)[Config.pick s.free % (ms.length + 1)]?
/-- COPY_CMD_START (R287): the bytes of a command move on by a piece; one that starts and whose ring has no room joins the producers that wait (R224). -/
def execCopyCmdStart (core : Nat) (s0 : State) : Res :=
  match s0.nextCmd core with
  | none => notNow "COPY_CMD_START"
  | some m =>
    let s := if (s0.movers core).length == 1 then s0 else s0.freeN.2
    match if m.st == .queued then m.ringOf else none, s.home? m.grid m.lin with
    | some q, some b =>
      let r := b.ring q
      if !r.waits.isEmpty || decide (r.free < m.total) then
        .next (s.modHome m.grid m.lin fun b => b.modRing q fun r => { r with waits := r.waits ++ [m.id] })
      else .next ((s.modHome m.grid m.lin fun b => b.modRing q fun r => r.reserve m.id m.total false).runCmd m)
    | _, _ => .next (s.runCmd m)

/-! ### Rings (R224, R226) -/

/-- Bytes that a waiting producer of a ring asks for: an MRET, or a command. -/
def State.waiterBytes (s : State) (core id : Nat) : Option Nat :=
  match (s.core core).mrets.find? fun m => m.id == id with
  | some m => some m.bytes
  | none => s.cores.findSome? fun c => (c.2.cq.find? fun m => m.id == id).map Cmd.total
/-- The first producer that waits for a ring and now has room; a command also needs to be among the 8 in progress (R287). -/
def State.reserveNow (s : State) (core slot ring : Nat) : Option (Nat × Nat) :=
  match s.block? core slot with
  | none => none
  | some b =>
    let r := b.ring ring
    match r.waits with
    | [] => none
    | id :: _ =>
      match s.waiterBytes core id with
      | some n =>
        let cmd := (s.core core).cq.any fun m => m.id == id
        if r.cfg && decide (n ≤ r.free) && !s.frozenCtx b.ctx && (!cmd || (s.core core).cmdRoom) then some (id, n) else none
      | none => none
/-- RING_RESERVE (R224): the producer has its reservation; a command then starts. -/
def execRingReserve (core slot ring : Nat) (s : State) : Res :=
  match s.reserveNow core slot ring with
  | none => notNow "RING_RESERVE"
  | some (id, n) =>
    let s1 := s.modBlock core slot fun b => b.modRing ring fun r => r.reserve id n false
    .next { s1 with cores := s1.cores.map fun (c : Nat × CoreSt) => (c.1, { c.2 with
      cq := c.2.cq.map fun (m : Cmd) => if m.id == id then { m with st := .reserved } else m }) }
/-- The first reservation of a ring has landed. -/
def State.arriveRing (s : State) (core slot ring : Nat) : Bool :=
  match s.block? core slot with
  | some b => (match (b.ring ring).resvs with | x :: _ => x.landed | [] => false)
  | none => false
/-- RING_ARRIVE (R224). -/
def execRingArrive (core slot ring : Nat) (s : State) : Res :=
  if !s.arriveRing core slot ring then notNow "RING_ARRIVE"
  else .next (s.modBlock core slot fun b => b.modRing ring fun r =>
    { r with tail := r.tail + BitVec.ofNat 32 ((r.resvs.head?.map Resv.len).getD 0), resvs := r.resvs.drop 1 })

/-! ### Chunks and completion (R287, R302, R303) -/

/-- A command of a core's queue. -/
def State.cmd? (s : State) (core id : Nat) : Option Cmd := (s.core core).cq.find? fun m => m.id == id
/-- The address of a stream byte at its destination (R380): of memory, scratchpad or staging; 0 for a tile. -/
def Cmd.dstAddr (m : Cmd) (b : Block) (o : Nat) : Nat :=
  match m.pieces.find? fun p => decide (p.off ≤ o) && decide (o < p.off + p.n) with
  | none => 0
  | some p =>
    match p.dst with
    | .mem va => va + (o - p.off)
    | .stage _ _ x => x + (o - p.off)
    | .ring =>
      let r := b.ring (locNum (cmdFld m.i).loc)
      r.rbase + (((r.resvs.find? fun x => x.id == m.id).map Resv.start).getD 0 + o) % r.size
    | _ => 0
/-- CHUNK_COUNTED can happen: a chunk has landed, and the command is neither held nor stopped. -/
def State.chunkNow (s : State) (core id : Nat) : Bool :=
  match s.cmd? core id with | some m => (m.st == .moved || m.st == .reserved) && !m.watched && !m.chunks.isEmpty | none => false
/-- The chunk of n bytes is counted: the barrier's pending bytes go down, with the release of an arrival (R302, R338). -/
def State.chunkCount (s : State) (m : Cmd) (n : Nat) : State :=
  let m1 := { m with chunks := m.chunks.drop 1, counted := m.counted + 1 }
  if !(cmdMod m.i).bar then s.setCmd m1
  else
    let va := grpN m.grp (cmdIx m.i 2)
    match s.translate (.quad (quadOf m.core)) m.ctx va .write with
    | (s1, .pf r l) => s1.cmdHold m va 6 r l
    | (s1, .prot) => s1.cmdEndBy m cProtection va m.counted 0 false
    | (s1, .ok pa a) =>
      let s2 := s1.setCmd m1
      if barBad s2 pa || barPoisoned s2 pa then s2 else (s2.barAdd m.ctx pa (-(n : Int)) a).1
/-- CHUNK_COUNTED (R302, R303): under VER the chunk verifies first. -/
def execChunkCounted (core id : Nat) (s : State) : Res :=
  if !s.chunkNow core id then notNow "CHUNK_COUNTED"
  else
    match s.cmd? core id with
    | none => notNow "CHUNK_COUNTED"
    | some m =>
      match m.chunks with
      | [] => notNow "CHUNK_COUNTED"
      | (n, crc) :: _ =>
        if !(cmdMod m.i).ver then .next (s.chunkCount m n)
        else
          match s.engRead (.quad (quadOf m.core)) m.ctx (grpN m.grp (cmdIx m.i 3) + 4 * m.counted) 4 2 with
          | .held s1 va r l => .next (s1.cmdHold m va 5 r l)
          | .fail s1 code va => .next (s1.cmdEndBy m code va m.counted 0 false)
          | .ok s1 bs _ =>
            if leNat bs == crc then .next (s1.chunkCount m n)
            else
              let va := match s1.home? m.grid m.lin with | some b => m.dstAddr b (4096 * m.counted) | none => 0
              .next (s1.cmdEndBy m cChecksum va m.counted (BitVec.ofNat 64 (leNat bs <<< 32 + crc)) false)
/-- A command has performed all that it does, its counting included. -/
def State.completeNow (s : State) (core id : Nat) : Bool :=
  match s.cmd? core id with | some m => m.st == .moved && !m.watched && m.chunks.isEmpty | none => false
/-- A command that ended with a fault before its counting was complete poisons its barrier (R303, R340); a page fault of that holds the command. -/
def State.cmdPoison (s : State) (m : Cmd) (c : Cause) : Except State State :=
  if !(cmdMod m.i).bar || m.nChunks ≤ m.counted then .ok s
  else
    let va := grpN m.grp (cmdIx m.i 2)
    match s.translate (.quad (quadOf m.core)) m.ctx va .write with
    | (s1, .ok pa a) => .ok (s1.barPoison m.ctx pa c.code a)
    | (s1, .prot) => .ok s1
    | (s1, .pf r l) => if s.gridDead m.grid then .ok s1 else .error (s1.cmdHold m va 6 r l)
/-- COPY_CMD_COMPLETE (R184, R287, R295). -/
def execCopyCmdComplete (core id : Nat) (s : State) : Res :=
  if !s.completeNow core id then notNow "COPY_CMD_COMPLETE"
  else
    match s.cmd? core id with
    | none => notNow "COPY_CMD_COMPLETE"
    | some m =>
      match (match m.err with | some c => s.cmdPoison m c | none => .ok (s.cmdLand m)) with
      | .error s1 => .next s1
      | .ok s1 => .next ((s1.modCore core fun c => { c with cq := c.cq.filter fun x => x.id != id }).opDone id m.cls m.err)

/-! ### CRING (R227, R301) -/

/-- A location is a ring. -/
def locIsRing (l : Loc) (q : Nat) : Bool := match l with | .ring r => r.toNat == q | .tile _ => false
/-- Producers and consumers of a ring fail when it is reset or reconfigured (R204, R227, R282, R295). -/
def State.ringFail (s : State) (b : Block) (q : Nat) : State :=
  let bad := fun (m : Cmd) => m.grid == b.grid && m.lin == b.lin && m.ringOf == some q && m.err.isNone
  let ms := s.cores.flatMap fun c => c.2.cq.filter bad
  let s1 := ms.foldl (fun s m => s.cmdFail m cTileBinding q) s
  let s2 := s1.modCore b.core fun c => { c with mrets := c.mrets.map fun (m : Mret) => if m.slot == b.slot && locIsRing m.loc q then { m with rst := true } else m }
  let s3 := match (s2.quad (quadOf b.core)).run with
    | some p =>
      let uses := match matOp p.tab p.fa p.fb with | some o => locIsRing o.a q || locIsRing o.b q || (match o.m with | some l => locIsRing l q | none => false) | none => false
      if p.core == b.core && p.slot == b.slot && uses then
        (s2.passEnd (quadOf b.core)).opDone p.id .matrix (some (engFault cTileBinding q 0 .matrix (quadOf b.core) p.tpc))
      else s2
    | none => s2
  (b.ring q).pops.foldl (fun s t =>
    match (s.thread? t).bind fun th => th.held.find? fun o => o.kind == .pop && o.a == q with
    | none => s
    | some o => (s.modThread t fun th => { th with
        held := th.held.filter (fun x => x.tag != o.tag), pend := th.pend.filter fun x => x.tag != o.tag }).deliver t ((causeOf cTileBinding q o.pc).late (s.pcOf t)) false) s3
/-- CRING (R301): it takes effect in the step that issues it, and so neither enters the queue nor stays counted. -/
def execCring (g : SGuard) (ring : BitVec 4) (sc : SReg) (s : State) : Res :=
  runSlot g (fun s b =>
    let v := (b.tile.sv sc).toNat
    let q := ring.toNat
    let n := bits v 25 22
    let base := bits v 21 0
    if 63 ≤ countOps b.tile.ops .copy then .stall 6
    else if bits v 63 32 != 0 || bits v 30 26 != 0 || decide (13 < n) || base % 256 != 0 then s.tIllegal b
    else if bit v 31 && decide (4096 * b.sprows < base + 2 ^ (n + 8)) then s.tFail b cBounds v
    else
      let s1 := (s.ringFail b q).modBlock b.core b.slot fun b => { b with
        rings := SMap.put b.rings q (if bit v 31 then { Ring.none with cfg := true, lsize := n, rbase := base } else Ring.none) }
      let f := s1.fresh
      .ok ((f.2.tileOp b .copy f.1).opDone f.1 .copy none)) s

end Sys2Proof.Machine
end

