-- ==== Sys2Proof/Machine/Xform.lean ====
section
/-! DEFINITION. The transform engines: request blocks, operations, completion records (R305-R314). -/
namespace Sys2Proof.Machine

/-! ### Imprecise causes of a block that may be saved (R381, R399) -/

/-- Queue an imprecise cause at the thread that made an access, in its block wherever it is; a frame in memory notes it. -/
def State.impreciseAny (s : State) (grid lin : Nat) (t : TRef) (c : Cause) : State :=
  let c1 := { c with impr := true }
  match s.blocks.find? fun b => b.grid == grid && b.lin == lin with
  | some b =>
    let s1 := s.imprecise { t with core := b.core, slot := b.slot } c
    match b.frame with | some f => s1.efNote b f.va.toNat c1 | none => s1
  | none =>
    match s.saved.find? fun v => v.grid == grid && v.lin == lin with
    | none => s
    | some v =>
      let live := v.snap.live
      match (live.find? fun u => u.warp == t.warp && u.lane == t.lane).or ((live.find? fun u => u.warp == t.warp).or live.head?) with
      | some u => (s.modHome grid lin fun b => b.modThread u.warp u.lane fun th => { th with imps := th.imps ++ [c1] }).efNote v.snap v.frame.toNat c1
      | none => s.abortGrid grid lin c1 (some v.snap)

/-! ### Request blocks (R312) -/

/-- The sources that QUANT takes, and the destinations of DEQUANT. -/
def wideFmt (f : Nat) : Bool := f ≤ 2
/-- The packed 8-bit and 6-bit formats of R313. -/
def narrowFmt (f : Nat) : Bool := f == 3 || f == 4 || f == 5 || f == 7
/-- The format of a code. -/
def fmtOf (f : Nat) : Fmt := (Fmt.ofCode (BitVec.ofNat 4 f)).getD .fp32
/-- A malformed request (R312); a format code that R22 reserves is a value outside its limits, whatever the operation. -/
def reqBad (r : Nat) : Bool :=
  let op := recN r 0 1
  let fl := recN r 1 1
  let par := recN r 2 1
  let len := recN r 4 4
  let src := recN r 0x34 1
  let dst := recN r 0x35 1
  let q := op == 1 || op == 2
  decide (5 < op) || decide (9 < src) || decide (9 < dst) || decide (1 < fl) || (op != 0 && fl != 0) || recN r 3 1 != 0 || recN r 0x37 9 != 0 || decide (1 < recN r 0x36 1) ||
  (match op with
   | 0 => par == 0 || decide (planesOf (fmtOf dst) < par) || !narrowFmt dst || len % 512 != 0
   | 1 => par != 0 || !wideFmt src || !narrowFmt dst || len % 32 != 0
   | 2 => par != 0 || !narrowFmt src || !wideFmt dst || len % 32 != 0
   | 3 => par != 0 || recN r 0x10 8 != 0
   | 4 => decide (3 < par) || len % 512 != 0 || recN r 0x10 8 % 512 != 0
   | _ => par != 0 || len % 512 != 0 || recN r 0x10 8 % 512 != 0) ||
  (!q && recN r 0x18 8 != 0) || (op != 3 && recN r 0x30 4 != 0) || recN r 0x20 8 == 0 || recN r 0x20 8 % 32 != 0
/-- Blocks of work of a request. -/
def reqUnits (r : Nat) : Nat :=
  let len := recN r 4 4
  match recN r 0 1 with | 1 => len / 32 | 2 => len / 32 | 3 => (len + 511) / 512 | _ => len / 512

/-! ### Operations (R308, R313) -/

/-- The quotient of two exact values, rounded once to a format (R313): a conversion, with NaN where the quotient has none. -/
def quotTo (f : Fmt) (x y : Fl) : Conv :=
  match x, y with
  | .nan, _ => convert f .rn 0 .nan
  | _, .nan => convert f .rn 0 .nan
  | .inf _, .inf _ => convert f .rn 0 .nan
  | .inf a, .fin b _ _ => convert f .rn 0 (.inf (a != b))
  | .fin _ _ _, .inf _ => convert f .rn 0 (.fin false 0 0)
  | .fin a m e, .fin b n k =>
    if n == 0 then convert f .rn 0 (if m == 0 then .nan else .inf (a != b))
    else if m == 0 then convert f .rn 0 (.fin false 0 0)
    else
      let p := ratio m e
      let q := ratio n k
      convertQ f .rn 0 (a != b) (p.1 * q.2) (p.2 * q.1)
/-- An exact product rounded once to a format. -/
def prodTo (f : Fmt) (x y : Fl) : Conv := convert f .rn 0 (x.mul y).plusZero
/-- A converted result of a scaled element, and whether a NaN took part. -/
def scaleElem (quant : Bool) (df : Fmt) (x y : Fl) : Conv × Bool :=
  let c := if quant then quotTo df x y else prodTo df x y
  let invalid := match x, y with
    | .inf _, .inf _ => quant
    | .fin _ m _, .fin _ n _ => quant && m == 0 && n == 0
    | .inf _, .fin _ n _ => !quant && n == 0
    | .fin _ m _, .inf _ => !quant && m == 0
    | _, _ => false
  (c, c.nan || x.isNan || y.isNan || invalid)

/-- The class of a delta (R308). -/
def deltaClass (d : Nat) : Nat := let i := sextN 32 d; if d == 0 then 0 else if -128 ≤ i && i ≤ 127 then 1 else if -32768 ≤ i && i ≤ 32767 then 2 else 3
/-- Bytes of a delta of a class. -/
def deltaBytes : Nat → Nat | 0 => 0 | 1 => 1 | 2 => 2 | _ => 4
/-- The deltas of 128 words. -/
def deltasOf : Nat → List Nat → List Nat
  | _, [] => []
  | w, x :: xs => (x + 2 ^ 32 - w) % 2 ^ 32 :: deltasOf x xs
/-- One piece. -/
def deltaPiece (ds : List Nat) : List Byte :=
  match ds with
  | [] => []
  | d :: _ => BitVec.ofNat 8 (64 * deltaClass d + (ds.length - 1)) :: ds.flatMap fun x => leBytes x (deltaBytes (deltaClass x))
/-- Split deltas into maximal runs of one class, each into pieces of at most 64: cur is the piece in progress, last first. -/
def deltaPieces : List Nat → List Nat → List Byte
  | cur, [] => deltaPiece cur.reverse
  | cur, d :: ds =>
    match cur with
    | [] => deltaPieces [d] ds
    | c :: _ => if deltaClass c == deltaClass d && decide (cur.length < 64) then deltaPieces (d :: cur) ds else deltaPiece cur.reverse ++ deltaPieces [d] ds
/-- The encoding of a line (R308). -/
def packLine (bs : List Byte) : List Byte := deltaPieces [] (deltasOf 0 ((List.range 128).map fun k => leNat ((bs.drop (4 * k)).take 4)))

/-! ### A request on its engine (R295, R311, R313) -/

/-- The translation buffer of a transform engine: its quarter's L2 TLB. -/
def XReq.tlb (r : XReq) : Tlb := .l2 (r.eng / 16)
/-- Replace a request. -/
def State.setReq (s : State) (r : XReq) : State := { s with xreqs := s.xreqs.map fun x => if x.ctx == r.ctx && x.ring == r.ring && x.idx == r.idx then r else x }
/-- A request ends with a status, a cause and an address. -/
def XReq.fail (r : XReq) (status cause va : Nat) : XReq := { r with done := true, status := status, cause := cause, va := BitVec.ofNat 64 va }
/-- A page fault holds a request (R251); that of an aborting grid ends (R54). -/
def State.holdReq (s : State) (r : XReq) (va kind reason level : Nat) : State :=
  if s.gridDead r.grid then s.setReq (r.fail 2 cPageFault va)
  else
    (s.report ⟨r.ctx, BitVec.ofNat 64 va, ((s.grid? r.grid).map Grid.token).getD 0, kind, reason, level, 3, r.eng, 0xFF, 0xFF, none⟩).setReq
      { r with hold := some (BitVec.ofNat 64 va) }

/-- What one block of a request does: its effect on memory and its request with the counts. -/
inductive XR
  | ok (s : State) (r : XReq)
  | held (s : State) (va kind reason level : Nat)
  | fail (s : State) (status code va : Nat)
/-- Continue with the bytes read. -/
def EngR.xrd (e : EngR) (f : State → List Byte → XR) : XR :=
  match e with | .ok s bs _ => f s bs | .held s va r l => .held s va 5 r l | .fail s c va => .fail s 2 c va
/-- Continue after a write. -/
def EngR.xwr (e : EngR) (r : XReq) : XR :=
  match e with | .ok s _ h => .ok s { r with watched := r.watched || h } | .held s va x l => .held s va 6 x l | .fail s c va => .fail s 2 c va
/-- A request as a writer. -/
def XReq.writer (r : XReq) : Writer := ⟨4, r.eng, r.ctx, r.idx + 2 ^ 32 * r.ring, r.grid, r.lin, r.t, r.pc⟩
/-- Write for a request. -/
def State.xWrite (s : State) (r : XReq) (va : Nat) (bs : List Byte) : EngR :=
  s.engWrite r.tlb r.t.core va r.writer bs 4

/-- COMPRESS of one line: its packed bytes, or the raw line, with its entry (R308, R313). -/
def State.compressLine (s : State) (r : XReq) (lvl va : Nat) (bs : List Byte) : XR :=
  match s.translate r.tlb r.ctx va .write with
  | (s1, .prot) => .fail s1 2 cProtection va
  | (s1, .pf x l) => .held s1 va 6 x l
  | (s1, .ok pa a) =>
    match s1.cwEntry pa with
    | none => .fail s1 1 cIllegalEncoding 0
    | some e =>
      let p := packLine bs
      let raw := decide (448 < p.length)
      let out := if raw then bs else p
      let s2 := (s1.l1Engine r.t.core pa 512).rcWrite r.t.core r.ctx va 512
      let s3 := { s2 with
        mem := Mem.writeN (Mem.put s2.mem pa out) e ((if raw then 0 else 2 ^ 30 + p.length) + lvl <<< 28) 4
        poison := s2.poison.filter fun k => !(decide (pa ≤ 64 * k) && decide (64 * k + 64 ≤ pa + 512)) }
      let (s4, hit) := (if cachedPage pa a then s3.touchL2 r.ctx pa 512 true a else s3).swNote r.writer (bits a.toNat 9 8) pa 512 va
      .ok s4 { r with result := r.result + out.length, watched := r.watched || hit }

/-- One block of a request. -/
def State.reqUnit (s : State) (r : XReq) (k : Nat) : XR :=
  let q := r.blk.toNat
  let sa := recN q 8 8
  let da := recN q 0x10 8
  let sc := recN q 0x18 8
  let sf := fmtOf (recN q 0x34 1)
  let df := fmtOf (recN q 0x35 1)
  let par := recN q 2 1
  let rd := fun (s : State) (va n : Nat) => s.engRead r.tlb r.ctx (va % 2 ^ 64) n 3
  match recN q 0 1 with
  | 0 =>
    let w := planesOf df
    (rd s (sa + 64 * w * k) (64 * par)).xrd fun s1 bs =>
      (s1.xWrite r ((da + 64 * w * k) % 2 ^ 64) (packElems w (expandPlanes w par (bit q 8) bs))).xwr r
  | 3 =>
    let n := min 512 (recN q 4 4 - 512 * k)
    (rd s (sa + 512 * k) n).xrd fun s1 bs => .ok s1 { r with result := crcBytes r.result bs }
  | 4 => (rd s (sa + 512 * k) 512).xrd fun s1 bs => s1.compressLine r par ((da + 512 * k) % 2 ^ 64) bs
  | 5 => (rd s (da + 512 * k) 512).xrd fun s1 bs => (s1.xWrite r ((da + 512 * k) % 2 ^ 64) bs).xwr r
  | op =>
    let quant := op == 1
    let e8 := recN q 0x36 1 == 1
    let nb := fun (f : Fmt) => 4 * f.width
    (rd s (sa + nb sf * k) (nb sf)).xrd fun s1 xs =>
      (rd s1 (if e8 then sc + k else sc + 4 * k) (if e8 then 1 else 4)).xrd fun s2 ys =>
        let y := decFmt (if e8 then .e8 else .fp32) 0 (leNat ys)
        let cs := (List.range 32).map fun j => scaleElem quant df (decFmt sf 0 (elemAt sf.width xs j)) y
        let r1 := { r with sat := r.sat + (cs.filter fun c => c.1.sat).length, nan := r.nan + (cs.filter fun c => c.2).length }
        (s2.xWrite r ((da + nb df * k) % 2 ^ 64) (packElems df.width (cs.map fun c => c.1.bits))).xwr r1

/-- The next block of a request, of which n are left; a page fault holds it, a halting watchpoint stops it. -/
def State.reqRun (s : State) (r : XReq) (n : Nat) : State :=
  if n == 0 then s.setReq { r with done := true }
  else
    match s.reqUnit r (r.pos - 1) with
    | .held s1 va k x l => s1.holdReq r va k x l
    | .fail s1 st c va => s1.setReq (r.fail st c va)
    | .ok s1 r1 => s1.setReq { r1 with pos := r.pos + 1, done := n == 1 }

/-- Run a request from where it stands: its block is read first (R312). -/
def State.runReq (s : State) (r : XReq) : State :=
  if r.pos != 0 then s.reqRun r (reqUnits r.blk.toNat + 1 - r.pos)
  else
    let n := bits (s.regN (xrReg r.ctx r.ring 1)) 11 8
    let va := s.regN (xrReg r.ctx r.ring 0) + 64 * (r.idx % 2 ^ n)
    match s.engRead r.tlb r.ctx va 64 3 with
    | .held s1 va x l => s1.holdReq r va 5 x l
    | .fail s1 c va => s1.setReq (r.fail 2 c va)
    | .ok s1 bs _ =>
      let q := leNat bs
      let r1 := { r with blk := BitVec.ofNat 512 q, pos := 1, result := if recN q 0 1 == 3 then recN q 0x30 4 else 0 }
      if reqBad q then s1.setReq (r1.fail 1 cIllegalEncoding 0) else s1.reqRun r1 (reqUnits q)

/-- The engines of a ring's quarters that are idle (R311). -/
def State.idleEngines (s : State) (ctx ring : Nat) : List Nat :=
  let m := bits (s.regN (xrReg ctx ring 1)) 15 12
  (List.range 64).filter fun e => bit m (e / 16) && !s.xreqs.any fun r => r.started && !r.done && r.eng == e
/-- The request that a ring would start next, on an idle engine (R311). -/
def State.newReq (s : State) (ctx ring : Nat) : Option XReq :=
  let rs := s.xreqs.filter fun r => r.ctx == ctx && r.ring == ring
  (rs.find? fun r => !r.started).filter fun _ =>
    bit (s.regN (xrReg ctx ring 1)) 0 && decide ((rs.filter fun x => x.started).length < 16) && !(s.idleEngines ctx ring).isEmpty && !s.frozenCtx ctx
/-- The requests of a ring that can go on: those in progress, and the next in ring order. -/
def State.liveReqs (s : State) (ctx ring : Nat) : List XReq :=
  (s.xreqs.filter fun r => r.ctx == ctx && r.ring == ring && r.started && !r.done && r.hold.isNone && !r.watched) ++ (s.newReq ctx ring).toList
/-- The request of a ring that an engine works on next: a free choice among several (R311, log 42). -/
def State.nextReq (s : State) (ctx ring : Nat) : Option XReq :=
  match s.liveReqs ctx ring with
  | [] => none
  | [r] => some r
  | r :: rs => (r :: rs)[Config.pick s.free % (rs.length + 1)]?
/-- XFORM_REQUEST_START (R311): a request in progress goes on by a block; a new one starts on any idle engine, a free choice (log 2). -/
def execXformRequestStart (ctx ring : Nat) (s0 : State) : Res :=
  match s0.nextReq ctx ring with
  | none => notNow "XFORM_REQUEST_START"
  | some r =>
    let s := if (s0.liveReqs ctx ring).length == 1 then s0 else s0.freeN.2
    if r.started then .next (s.runReq r)
    else
      let es := s.idleEngines ctx ring
      let f := s.freeN
      let r1 := { r with started := true, eng := es.getD (Config.pick f.1 % es.length) 0 }
      .next (((f.2.setReq r1).setReg (xrReg ctx ring 2) (BitVec.ofNat 64 ((r.idx + 1) % 2 ^ 32))).runReq r1)

/-! ### Completion (R314) -/

/-- A completion record. -/
def XReq.record (r : XReq) : List Byte :=
  let m32 := fun (n : Nat) => min n 0xFFFFFFFF
  leBytes (recN r.blk.toNat 0x28 8) 8 ++ leBytes r.idx 4 ++ leBytes r.status 1 ++ leBytes r.cause 1 ++ leBytes r.eng 2 ++ leBytes (m32 r.sat) 4 ++
    leBytes (m32 r.nan) 4 ++ leBytes (if r.status == 0 then (match recN r.blk.toNat 0 1 with | 3 => r.result | 4 => r.result | _ => 0) else 0) 4 ++ leBytes 1 4
/-- The oldest request of a ring that has started, once it is done. -/
def State.doneReq (s : State) (ctx ring : Nat) : Option XReq :=
  match s.xreqs.find? fun r => r.ctx == ctx && r.ring == ring with
  | some r => if r.started && r.done && !r.watched && r.hold.isNone then some r else none
  | none => none
/-- A request is over: its fault, if any, goes to the warp that posted it, and its count goes down (R314). -/
def State.endReq (s : State) (r : XReq) (cause va : Nat) : State :=
  let s1 := { s with xreqs := s.xreqs.filter fun x => !(x.ctx == r.ctx && x.ring == r.ring && x.idx == r.idx) }
  let s2 := if s1.opBusy r.op then s1 else s1.opDone r.op .xform none
  if cause == 0 || s.gridDead r.grid then s2
  else s2.impreciseAny r.grid r.lin r.t { causeVa cause va r.pc with rpc := r.pc + 8, ecls := (Eng.code .xform).toNat, eng := r.eng }
/-- A request ends whose record cannot be written (R257, R314): its own fault is delivered, or else that of the record. -/
def State.endBare (s : State) (r : XReq) (code va : Nat) : State :=
  s.endReq r (if r.cause == 0 then code else r.cause) (if r.cause == 0 then va else r.va.toNat)
/-- XFORM_COMPLETE (R311, R314): in ring order; when the record cannot be written, that fault is delivered. -/
def execXformComplete (ctx ring : Nat) (s : State) : Res :=
  match s.doneReq ctx ring with
  | none => notNow "XFORM_COMPLETE"
  | some r =>
    let va := recN r.blk.toNat 0x20 8
    if va == 0 || va % 32 != 0 then .next (s.endReq r (if r.cause == 0 then cIllegalEncoding else r.cause) r.va.toNat)
    else
      match s.xWrite r va r.record with
      | .held s1 x k l => if s1.gridDead r.grid then .next (s1.endReq r r.cause r.va.toNat) else .next (s1.holdReq r x 6 k l)
      | .fail s1 c x => .next (s1.endBare r c x)
      | .ok s1 _ _ => .next (s1.endReq r r.cause r.va.toNat)

end Sys2Proof.Machine
end

