-- ==== Sys2Proof/Machine/Remote.lean ====
section
/-! DEFINITION. Remote operations at their destination device, and their replies (R263, R269, R277-R280, R421). -/
namespace Sys2Proof.Machine

/-- The context of this device that a remote operation is performed in: its issuer's, or the job's (R277; the lowest of the job's contexts). -/
def State.remCtx (s : State) (r : RemIn) : Option Nat :=
  if r.own then ((s.remOut.find? fun o => o.tag == r.tag).bind fun o => s.grid? o.grid).map Grid.ctx
  else if r.job == 0 then none else (List.range 64).find? fun c => s.jobOf c == r.job
/-- Two operations of one source, destination and class (R278, R279). -/
def State.sameStream (s : State) (a b : RemIn) : Bool := a.src == b.src && a.job == b.job && a.cls == b.cls && a.own == b.own && s.remCtx a == s.remCtx b
/-- Two operations of one source that may overlap, one of them a write (R318): their bytes have the same place in a page of 64 KiB, the least size. -/
def RemIn.clash (a b : RemIn) : Bool :=
  a.src == b.src && a.job == b.job && a.own == b.own && (a.kind != 0 || b.kind != 0) &&
  decide (a.va.toNat % 65536 < b.va.toNat % 65536 + b.sz.bytes) && decide (b.va.toNat % 65536 < a.va.toNat % 65536 + a.sz.bytes)
/-- A remote operation can be performed: nothing of its stream and nothing that it may overlap is before it, nothing holds it, and no wave freezes what
it would change. -/
def State.remNow (s : State) (r : RemIn) : Bool :=
  !r.hold && !r.watch && !((s.remIn.takeWhile fun x => x.n != r.n).any fun x => s.sameStream x r || x.clash r) &&
  !(s.regN (devReg 0x508) % 8 == 1 && s.fw.ckptCut) && (match s.remCtx r with | some c => s.rbState c == 0 | none => true)

/-- Answer a remote operation: on this device as an event, else on the link to its source (R421, R455). -/
def State.answer (s : State) (r : RemIn) (cause data : Nat) : State :=
  let s1 := { s with remIn := s.remIn.filter fun x => x.n != r.n }
  if r.own then { s1 with inputs := s1.inputs ++ [.remoteReply r.tag cause data] }
  else
    match s.remCtx r with
    | none => s1
    | some c => match s.route c r.src with | some l => if bit (s.regN (devReg (0x300 + 8 * l))) 0 then s1.send c l (.reply r.tag cause data) else s1 | none => s1
/-- KIND of a remote operation (R254). -/
def RemIn.kindCode (r : RemIn) : Nat := match r.kind with | 0 => 0 | 1 => 1 | _ => 2

/-- A remote write has been performed: its reply leaves at once, or, when a slice watchpoint matched it, once the hit is latched; until
then its stream waits (R414, R415). -/
def State.remWrote (s : State) (r : RemIn) (ctx pa n : Nat) (attr : BitVec 10) (data : Nat) : State :=
  let w : Writer := ⟨5, r.src, ctx, r.n, 0, 0, ⟨0, 0, 0, 0⟩, 0⟩
  let s1 := (s.swNote w (bits attr.toNat 9 8) pa n r.va.toNat).1
  if s1.swHits.length == s.swHits.length then s1.answer r 0 data
  else { s1 with remIn := s1.remIn.map fun (y : RemIn) => if y.n == r.n then { y with watch := true, data := data } else y }
/-- Bytes read at a home slice for a remote operation. -/
def State.remRead (s : State) (ctx pa n : Nat) (attr : BitVec 10) : State × Nat :=
  (if cachedPage pa attr then s.touchL2 ctx pa n false attr else s, s.pread pa n)
/-- The effect of a remote operation at the home slice: its cause, or the value that its reply carries (R277, R279); of a 128-bit access to host memory,
the first half, either one (R268). -/
def State.remDo (s : State) (r : RemIn) (ctx pa : Nat) (attr : BitVec 10) : State :=
  let n := r.sz.bytes
  let cached := cachedPage pa attr
  match r.kind with
  | 0 =>
    if s.poisoned pa n then (s.ueRead pa n).answer r cUncorrectable 0
    else if n == 16 && paHost pa then
      let c := s.freeN
      let hi := Config.freeBool c.1
      let x := c.2.remRead ctx (pa + 8 * b2n hi) 8 attr
      { x.1 with remIn := x.1.remIn.map fun (y : RemIn) => if y.n == r.n then { y with part := some (pa, attr, !hi, x.2) } else y }
    else let x := s.remRead ctx pa n attr; x.1.answer r 0 (extendLd r.sx n x.2)
  | 1 =>
    if s.partPoison pa n then s.answer r cUncorrectable 0
    else if s.metaUe pa n then (s.ueWrite pa n).answer r cMetaUe 0
    else if n == 16 && paHost pa then
      let c := s.freeN
      let hi := Config.freeBool c.1
      let s1 := c.2.pwrite ctx (pa + 8 * b2n hi) (r.data >>> (64 * b2n hi)) 8 attr
      { s1 with remIn := s1.remIn.map fun (y : RemIn) => if y.n == r.n then { y with part := some (pa, attr, !hi, 0) } else y }
    else (s.pwrite ctx pa r.data n attr).remWrote r ctx pa n attr 0
  | _ =>
    if !cached && !hostAtomic r.am.op r.am.ty then s.answer r cProtection 0
    else if !cached && Config.atomicRefused s.free then { s with free := s.free + 1 }.answer r cProtection 0
    else
      let s0 := if cached then s else { s with free := s.free + 1 }
      if s0.poisoned pa n then (s0.ueRead pa n).answer r cUncorrectable 0
      else if s0.metaUe pa n then (s0.ueWrite pa n).answer r cMetaUe 0
      else
        let old := s0.pread pa n
        (s0.pwrite ctx pa (atomicNew r.am.op r.am.ty (8 * n) old r.data) n attr).remWrote r ctx pa n attr old
/-- The second half of a 128-bit access to host memory (R268). -/
def State.remRest (s : State) (r : RemIn) (ctx pa : Nat) (attr : BitVec 10) (hi : Bool) (v : Nat) : State :=
  if r.kind == 0 then
    if s.poisoned (pa + 8 * b2n hi) 8 then s.answer r cUncorrectable 0
    else
      let x := s.remRead ctx (pa + 8 * b2n hi) 8 attr
      x.1.answer r 0 (if hi then v + x.2 <<< 64 else x.2 + v <<< 64)
  else (s.pwrite ctx (pa + 8 * b2n hi) (r.data >>> (64 * b2n hi)) 8 attr).remWrote r ctx pa 16 attr 0

/-- The quarter whose L2 TLB serves a remote operation: that of the home slice of what its page gives (R249), 0 where no page does (log 54). -/
def State.homeQuarter (s : State) (ctx va : Nat) : Nat :=
  match (s.pageWalk 0 ctx va).2 (.l2 0) with
  | .ok e => homeSlice (bits e.attr.toNat 9 8) (e.pa (va % 2 ^ 52)) / 64
  | .error _ => 0
/-- REMOTE_PERFORM (R277-R279): a page fault holds the operation and is recorded in this device's fault buffer. One that this device issued to itself
meets no line of its core's L1 (R230, R318). -/
def execRemotePerform (n : Nat) (s : State) : Res :=
  match s.remIn.find? fun r => r.n == n with
  | none => notNow "REMOTE_PERFORM"
  | some r =>
    if !s.remNow r then notNow "REMOTE_PERFORM"
    else
      match s.remCtx r with
      | none => .next (s.answer r cFabric 0)
      | some ctx =>
        match r.part with
        | some (pa, attr, hi, v) => .next (s.remRest r ctx pa attr hi v)
        | none =>
          match s.translate (.l2 (s.homeQuarter ctx r.va.toNat)) ctx r.va.toNat (if r.kind == 0 then .read else .write) with
          | (s1, .prot) => .next (s1.answer r cProtection 0)
          | (s1, .pf x l) =>
            .next ({ s1 with remIn := s1.remIn.map fun (y : RemIn) => if y.n == n then { y with hold := true } else y }.report
              ⟨ctx, r.va, 0, r.kindCode, x, l, 4, r.src, 0xFF, 0xFF, none⟩)
          | (s1, .ok pa a) =>
            let s2 := match if r.own then s1.remOut.find? (fun o => o.tag == r.tag) else none with
              | some o => s1.l1Home o.t.core pa r.sz.bytes
              | none => s1
            .next (s2.remDo r ctx pa a)

/-- REMOTE_REPLY (R87, R269, R278, R279): the value lands, or the fault is reported by R87 where a destination is pending and imprecisely
otherwise; then the count goes down. An acquire has its L1 actions (R321). Cause WATCHPOINT reports a slice watchpoint's hit at the
byte that it carries above bit 8, imprecisely (R414); the operation has completed. -/
def execRemoteReply (tag cause data : Nat) (s : State) : Res :=
  match s.remOut.find? fun o => o.tag == tag with
  | none => notNow "REMOTE_REPLY"
  | some o =>
    let s1 := { s with remOut := s.remOut.filter fun x => x.tag != tag }
    let s2 := if s1.opBusy o.op then s1 else s1.opDone o.op .remote none
    let c := causeVa cause o.va.toNat o.pc
    let here := match s2.block? o.t.core o.t.slot with | some b => b.grid == o.grid && b.lin == o.lin | none => false
    if cause != 0 && cause % 256 != cWatchpoint then
      if s2.gridDead o.grid then .next s2
      else if o.pend && here then
        .next ((s2.modThread o.t fun th => { th with pend := th.pend.filter fun p => p.tag != tag }).deliver o.t (c.late (s2.pcOf o.t)) false)
      else .next (s2.impreciseAny o.grid o.lin o.t { c with rpc := o.pc + 8, ecls := (Eng.code .remote).toNat, eng := o.dev })
    else
      let s3 := if o.acq && here then s2.acquire o.t.core (s2.ctxOf o.t) .job else s2
      let s4 := if here then s3.modThread o.t fun th => th.known tag data else s3
      let engid := 0x3000 + ((s4.grid? o.grid).map fun g => s4.devIdx g.ctx).getD 0
      .next (if cause == 0 then s4
        else s4.impreciseAny o.grid o.lin o.t { causeVa cWatchpoint (o.va.toNat + cause / 256) o.pc with rpc := o.pc + 8, ecls := (Eng.code .remote).toNat, eng := engid })

end Sys2Proof.Machine
end

