-- ==== Sys2Proof/Machine/Faults.lean ====
section
/-! DEFINITION. The fault unit and its buffer, replay and cancellation, invalidation of translations, page walks of their own, evictions
from L2 (R235, R242-R259, R396, R408). -/
namespace Sys2Proof.Machine

/-- Interrupt the function that owns a context with a vector. -/
def State.irq (s : State) (ctx vec : Nat) : State := { s with outs := s.outs ++ [.msix (s.owner ctx) vec] }

/-! ### Page walks and evictions (R235, R242, R250, R396) -/

/-- PAGE_WALK can happen: the L2 TLB of the quarter misses. -/
def State.walkNow (s : State) (quarter ctx : Nat) (va : Dword) : Bool :=
  decide (quarter < 4) && decide (ctx < 64) && canonical va.toNat && !(s.tlb (.l2 quarter)).any fun e => e.hits ctx (va.toNat % 2 ^ 52)
/-- PAGE_WALK (R242-R250): on success the quarter's L2 TLB holds the translation; a walk of its own raises no fault. -/
def execPageWalk (quarter ctx : Nat) (va : BitVec 64) (s : State) : Res :=
  if !s.walkNow quarter ctx va then notNow "PAGE_WALK" else .next (s.pageWalk quarter ctx va.toNat).1

/-- Charge an uncorrectable sector to a context (R396). -/
def State.chargeUe (s : State) (ctx pa : Nat) : State :=
  let r := ctxReg ctx 0x280
  let c := s.regN r
  (s.setReg r (BitVec.ofNat 64 (pa / 64 * 64 + 1 + (if bit c 0 then 2 else c / 2 % 2 * 2)))).irq ctx (bits (s.regN (ctxReg ctx 0x218)) 31 16)
/-- Charge the sectors of a line to its owner, or audit those of a line without one (R236, R396). -/
def State.chargeLine (s : State) (l : L2Line) (line : Nat) (js : List Nat) : State :=
  js.foldl (fun s j => if l.owner < 64 then s.chargeUe l.owner (512 * line + 64 * j) else s.audit (512 * line + 64 * j) 0 3 0xFFFF 0) s
/-- The dirty sectors of a line that is written back and that are found uncorrectable (R396), or that metadata does not let be written (R310). -/
def State.evictBad (s : State) (l : L2Line) (line : Nat) (ue : Bool) : List Nat :=
  (List.range 8).filter fun j => l.dirty.getLsbD j && (ue || s.sectorBad (8 * line + j))
/-- L2_EVICT (R235, R236, R310, R396): a line that has left the L2 is written back; its dirty sectors that are uncorrectable, or that could not be written
for their metadata, are charged to its owner, and its bytes of host memory go to the host (R329). -/
def execL2Evict (line : Nat) (s : State) : Res :=
  match s.l2out.find? fun x => x.1 == line with
  | none => notNow "L2_EVICT"
  | some x =>
    let s1 := { s with l2out := s.l2out.erase x }
    let s2 := if x.2.2 then s1 else if (SMap.get? s1.l2 line).isSome then s1.hostPut line x.2.1 else s1.hostSync line x.2.1
    .next (s2.chargeLine x.2.1 line (s.evictBad x.2.1 line x.2.2))

/-! ### The fault unit (R253-R255) -/

/-- KIND is of a write. -/
def kindWrites (k : Nat) : Bool := k == 1 || k == 2 || k == 6 || k == 7
/-- The address of entry i of a context's fault buffer. -/
def State.fbAt (s : State) (ctx i : Nat) : Nat :=
  bits (s.regN (ctxReg ctx 0x208)) 47 12 * 4096 + 32 * (i % 2 ^ (s.regN (ctxReg ctx 0x210) % 16))
/-- A fault is dropped: DROPPED is set, with an interrupt where it is enabled. -/
def State.fbDrop (s : State) (ctx : Nat) : State :=
  let st := s.regN (ctxReg ctx 0x218)
  let s1 := s.setReg (ctxReg ctx 0x218) (BitVec.ofNat 64 (st ||| 2))
  if bit st 2 then s1.irq ctx (bits st 31 16) else s1
/-- The entry between FBHEAD and FBTAIL that has the key of an address. -/
def State.fbFind (s : State) (ctx : Nat) (va : Dword) : Option Nat :=
  let h := s.regN (ctxReg ctx 0x220)
  let n := (s.regN (ctxReg ctx 0x228) + 2 ^ 32 - h) % 2 ^ 32
  ((List.range (min n 1024)).map fun k => (h + k) % 2 ^ 32).find? fun i => bits (s.pread (s.fbAt ctx i) 8) 51 16 == bits va.toNat 51 16
/-- A new entry (R254). -/
def State.fbEnter (s : State) (f : FRep) (tail : Nat) : State :=
  let a := s.fbAt f.ctx tail
  let st := s.regN (ctxReg f.ctx 0x218)
  let w := f.va.toNat + f.token.toNat <<< 64 + (f.kind + 128 * b2n (kindWrites f.kind)) <<< 128 + f.reason <<< 136 + f.level <<< 144 + f.src <<< 152 + 1 <<< 160 +
    f.unit <<< 176 + f.tslot <<< 192 + f.wslot <<< 200
  let s1 := ((s.pwrite f.ctx a w 28 (physAttr a)).pwrite f.ctx (a + 28) (tail + 1) 4 (physAttr a)).setReg (ctxReg f.ctx 0x228) (BitVec.ofNat 64 ((tail + 1) % 2 ^ 32))
  if bit st 2 then s1.irq f.ctx (bits st 31 16) else s1
/-- FAULT_REPORT (R253, R254): coalesced, entered or dropped. -/
def execFaultReport (ctx : Nat) (s : State) : Res :=
  match s.freps.find? fun f => f.ctx == ctx with
  | none => notNow "FAULT_REPORT"
  | some f =>
    let s1 := { s with freps := s.freps.erase f }
    if !bit (s.regN (ctxReg ctx 0x218)) 0 then .next (s1.fbDrop ctx)
    else
      match s1.fbFind ctx f.va with
      | some i =>
        let a := s1.fbAt ctx i
        let s2 := s1.pwrite ctx (a + 0x14) (min (s1.pread (a + 0x14) 2 + 1) 0xFFFF) 2 (physAttr a)
        .next (if kindWrites f.kind then s2.pwrite ctx (a + 0x10) (s2.pread (a + 0x10) 1 ||| 0x80) 1 (physAttr a) else s2)
      | none =>
        let tail := s1.regN (ctxReg ctx 0x228)
        if (tail + 2 ^ 32 - s1.regN (ctxReg ctx 0x220)) % 2 ^ 32 < 2 ^ (s1.regN (ctxReg ctx 0x210) % 16) then .next (s1.fbEnter f tail) else .next (s1.fbDrop ctx)

/-- A HEAD register that only moves forward, up to its tail (R255, R445, R447). -/
def headMoves (head tail v : Nat) : Bool := decide ((v + 2 ^ 32 - head) % 2 ^ 32 ≤ (tail + 2 ^ 32 - head) % 2 ^ 32)
/-- FBHEAD_WRITE (R255). -/
def execFbheadWrite (ctx : Nat) (v : BitVec 64) (s : State) : Res :=
  let x := v.toNat % 2 ^ 32
  .next (if headMoves (s.regN (ctxReg ctx 0x220)) (s.regN (ctxReg ctx 0x228)) x then s.setReg (ctxReg ctx 0x220) (BitVec.ofNat 64 x) else s)
/-- FB_ENABLE: a write of FBSTAT (R255); setting EN empties the buffer. -/
def execFbEnable (ctx : Nat) (v : BitVec 64) (s : State) : Res :=
  let r := ctxReg ctx 0x218
  let old := s.regN r
  let x := v.toNat
  let s1 := s.setReg r (BitVec.ofNat 64 (bits x 31 16 <<< 16 + bits x 2 2 <<< 2 + (if bit x 1 then 0 else bits old 1 1 * 2) + x % 2))
  .next (if bit x 0 && !bit old 0 then (s1.setReg (ctxReg ctx 0x220) 0).setReg (ctxReg ctx 0x228) 0 else s1)

/-! ### Replay and cancellation (R256, R257) -/

/-- The threads of a block that parked execute their access anew, its held operations may be retried, and a held fetch is fetched again. -/
def Block.replay (b : Block) : Block :=
  let why := b.why.filter fun w => w != .fetch
  { b with
    why := why, state := if why.isEmpty then .running else b.state, frozenTile := b.frozenTile && why.contains .tileFault, fetchVa := none
    warps := b.warps.map fun (w : Warp) => { w with threads := w.threads.map fun (th : Thread) =>
      let th1 := { th with held := th.held.map fun o => if o.hs == HoldSt.parked then { o with hs := HoldSt.again } else o }
      if th.st == ThState.parked && (match th.wait with | some w => w.kind == WKind.access | none => false) then { th1 with st := .running, wait := none } else th1 } }
/-- REPLAY_ALL (R256, R469): held accesses of the context's resident blocks, engines, remote operations and queues are retried; what FBCANCEL has ended
stays ended. -/
def execReplayAll (ctx : Nat) (v : BitVec 64) (s : State) : Res :=
  if !v.getLsbD 0 then .next s
  else
    let resident := fun (m : Cmd) => s.blocks.any fun b => b.grid == m.grid && b.lin == m.lin
    let again := fun (h : Option Dword) => h.filter fun x => (cancelOf (some x)).isSome
    .next { s with
      blocks := s.blocks.map fun b => if b.ctx == ctx then b.replay else b
      cores := s.cores.map fun (c : Nat × CoreSt) => (c.1, { c.2 with cq := c.2.cq.map fun (m : Cmd) =>
        if m.ctx == ctx && m.st == .held && (resident m) then { m with st := CmdSt.reserved } else m })
      xreqs := s.xreqs.map fun (r : XReq) => if r.ctx == ctx then { r with hold := none } else r
      remIn := s.remIn.map fun (r : RemIn) => if s.remCtx r == some ctx then { r with hold := false } else r
      grids := s.grids.map fun (g : Grid) => if g.ctx == ctx then { g with hold := again g.hold } else g
      queues := s.queues.map fun (q : LQueue) => if q.ctx == ctx then
        { q with hold := again q.hold, recs := q.recs.map fun (r : LRec) => { r with hold := again r.hold } } else q }

/-- An address lies on a 64 KiB page. -/
def onPage (p : Nat) (va : Dword) : Bool := bits va.toNat 51 16 == p
/-- A held access of a queue's work on a page: cancelled (R469). -/
def cancelHold (p : Nat) (h : Option Dword) : Option Dword := h.map fun x => if (cancelOf h).isNone && onPage p x then heldOn x.toNat + 1 else x
/-- A held command whose page is cancelled (R257, R295): it ends with a PAGE_FAULT; one that had ended and was to poison its barrier does without. -/
def Cmd.cancel (m : Cmd) : Cmd :=
  if m.err.isSome then { m with st := .moved, counted := m.nChunks }
  else
    let va := m.va.toNat
    let counting := ((cmdMod m.i).bar && va == grpN m.grp (cmdIx m.i 2)) || ((cmdMod m.i).ver && va == grpN m.grp (cmdIx m.i 3) + 4 * m.counted)
    { m with
      st := .moved, chunks := if counting then [] else m.chunks
      err := some { engFault cPageFault va m.va m.cls m.core m.tpc with chunk := if counting then m.counted else m.chunkAt va } }
/-- Held commands on a page end, withdrawn ones when they are re-entered (R257, R295, R431). -/
def State.cancelCmds (s : State) (ctx p : Nat) : State :=
  let ending := fun (m : Cmd) => if m.ctx == ctx && m.st == .held && onPage p m.va then m.cancel else m
  { s with
    cores := s.cores.map fun (c : Nat × CoreSt) => (c.1, { c.2 with cq := c.2.cq.map ending })
    saved := s.saved.map fun (v : Saved) => { v with cmds := v.cmds.map ending } }
/-- Insert a block by its linear index. -/
def insertLin (b : Block) : List Block → List Block
  | [] => [b]
  | x :: xs => if b.lin < x.lin then b :: x :: xs else x :: insertLin b xs
/-- The blocks of a context in the order of FBLOCK, that of causes of one step (R53). -/
def State.blocksByLin (s : State) (ctx : Nat) : List Block := (s.blocks.filter fun b => b.ctx == ctx).foldl (fun l b => insertLin b l) []
/-- FBCANCEL (R257, R469). -/
def execFbcancel (ctx : Nat) (v : BitVec 64) (s : State) : Res :=
  let p := bits v.toNat 51 16
  let s1 := (s.blocksByLin ctx).foldl (fun s b => s.cancelHeld b.core b.slot [p]) s
  let s2 := s1.cancelCmds ctx p
  let s3 := (s2.remIn.filter fun r => r.hold && s2.remCtx r == some ctx && onPage p r.va).foldl (fun s r => s.answer r cPageFault 0) s2
  let hit := fun (r : XReq) => r.ctx == ctx && r.hold.any (onPage p)
  let s4 := (s3.xreqs.filter hit).foldl (fun s r =>
    let va := (r.hold.getD 0).toNat
    if r.done then s.endBare r cPageFault va else s.setReq { r.fail 2 cPageFault va with hold := none }) s3
  .next { s4 with
    saved := s4.saved.map fun (v : Saved) => if v.ctx == ctx then { v with cancels := p :: v.cancels } else v
    grids := s4.grids.map fun (g : Grid) => if g.ctx == ctx then { g with hold := cancelHold p g.hold } else g
    queues := s4.queues.map fun (q : LQueue) => if q.ctx == ctx then
      { q with hold := cancelHold p q.hold, recs := q.recs.map fun (r : LRec) => { r with hold := cancelHold p r.hold } } else q }

/-! ### Invalidation (R258, R259, R289, R453) -/

/-- The span of a translation that goes with it: a member of a 2 MiB group takes its whole group (R259). -/
def TlbEnt.span (e : TlbEnt) : Nat × Nat := if e.attr.getLsbD 7 then (e.vbase / 512 * 512, 512) else (e.vbase, 2 ^ (e.lg - 12))
/-- Remove translations from every buffer. -/
def State.tlbFilter (s : State) (keep : TlbEnt → Bool) : State :=
  { s with
    cores := s.cores.map fun (c : Nat × CoreSt) => (c.1, { c.2 with tlb := c.2.tlb.filter keep })
    quads := s.quads.map fun (q : Nat × QuadSt) => (q.1, { q.2 with tlb := q.2.tlb.filter keep })
    l2tlb := s.l2tlb.map fun (q : Nat × List TlbEnt) => (q.1, q.2.filter keep) }
/-- Start an invalidation of a context (R259): the entries it names, the table-entry caches and the record caches. -/
def State.invalidate (s : State) (ctx : Nat) (hit : TlbEnt → Bool) : State :=
  let s1 := s.tlbFilter fun e => !(e.ctx == ctx && hit e)
  { s1 with
    pteCache := s1.pteCache.map fun (q : Nat × List (Nat × Nat × Dword)) => (q.1, q.2.filter fun e => e.1 != ctx)
    cores := s1.cores.map fun (c : Nat × CoreSt) => (c.1, { c.2 with rcache := c.2.rcache.filter fun r => r.1 != ctx }) }.setReg (ctxReg ctx 0x248) 0x80000000
/-- An invalidation of a context is in progress. -/
def State.invBusy (s : State) (ctx : Nat) : Bool := bit (s.regN (ctxReg ctx 0x248)) 31
/-- TLB_INVALIDATE_RANGE: a write of MODE 0 to TLBINVC (R258). -/
def execTlbInvalidateRange (ctx : Nat) (s : State) : Res :=
  if s.invBusy ctx then .next s
  else
    let v := s.regN (ctxReg ctx 0x240)
    let lo := 16 * bits v 51 16
    let n := 16 * (v % 65536 + 1)
    .next (s.invalidate ctx fun e => let r := e.span; decide (r.1 < lo + n) && decide (lo < r.1 + r.2))
/-- TLB_INVALIDATE_CONTEXT: a write of MODE 1 to TLBINVC (R258). -/
def execTlbInvalidateContext (ctx : Nat) (s : State) : Res := if s.invBusy ctx then .next s else .next (s.invalidate ctx fun _ => true)
/-- An access of a context that has translated its address has still to be performed: half of a 128-bit access to host memory (R259, R268). -/
def State.invUsers (s : State) (ctx : Nat) : Bool :=
  (s.blocks.any fun b => b.ctx == ctx && b.warps.any fun w => w.threads.any fun th => th.held.any fun o => o.kind == .half) ||
  s.remIn.any fun r => r.part.isSome && s.remCtx r == some ctx
/-- TLB_INVALIDATE_DONE (R259): every other access is performed in the step that translates it, so that no user is left. -/
def execTlbInvalidateDone (ctx : Nat) (s : State) : Res :=
  if !s.invBusy ctx || s.invUsers ctx then notNow "TLB_INVALIDATE_DONE" else .next (s.setReg (ctxReg ctx 0x248) 0)

/-! ### XRCTL and FSPILL (R311, R403, R408) -/

/-- XR_ENABLE: a write of XRCTL (R311). -/
def execXrEnable (ctx ring : Nat) (v : BitVec 64) (s : State) : Res :=
  let r := xrReg ctx ring 1
  let old := s.regN r
  let x := v.toNat
  let err := if bit x 1 then 0 else bits old 1 1 * 2
  if bit old 0 then .next (s.setReg r (BitVec.ofNat 64 (bits old 15 8 <<< 8 + err + x % 2)))
  else
    let bad := bit x 0 && (bits x 15 12 == 0 || !(4 ≤ bits x 11 8 && bits x 11 8 ≤ 12))
    .next (s.setReg r (BitVec.ofNat 64 (bits x 15 8 <<< 8 + (if bad then 2 else err + x % 2))))

/-- The frame of a frozen resident block at an address (R406). -/
def State.frozenAt (s : State) (ctx a : Nat) : Option (Block × FrameAt) :=
  s.blocks.findSome? fun b => if b.ctx == ctx then (b.frame.filter fun f => f.va.toNat % 2 ^ 52 == a).map fun f => (b, f) else none
/-- A command of a resident block that still writes its rows. -/
def State.cmdMovingAt (s : State) (b : Block) : Bool := (s.core b.core).cq.any fun m => m.grid == b.grid && m.lin == b.lin && (m.st == .reserved || m.st == .moved) && !m.watched
/-- Spill every row that the frame at an address holds by reference: of a saved block, or of a frozen one, whose rows stay its own (R401, R403,
R406, R408); none while a command writes them. -/
def State.spillFrame (s : State) (ctx a : Nat) : Option State :=
  match s.saved.find? fun x => x.ctx == ctx && x.frame.toNat % 2 ^ 52 == a with
  | some x => if s.cmdMoving x then none else some (s.spillRows x fun _ => true)
  | none =>
    match s.frozenAt ctx a with
    | some (b, f) => if s.cmdMovingAt b then none
      else some ((s.inlineRows b f.va.toNat (f.refs.map fun r => r.1)).modBlock b.core b.slot fun b => { b with frame := some { f with refs := [] } })
    | none => some s
/-- FSPILL (R403): the rows of the frame at an address, once no command writes them; until then BUSY reads 1, and a write is ignored. -/
def execFspill (ctx : Nat) (v : BitVec 64) (s : State) : Res :=
  let r := ctxReg ctx 0x288
  let old := s.regN r
  let a := bits v.toNat 51 12 * 4096
  if bit old 0 && v.toNat != old then .next s
  else
    match s.spillFrame ctx a with
    | some s1 => .next (s1.setReg r 0)
    | none => .next (s.setReg r (BitVec.ofNat 64 (a + 1)))
/-- A spill that waits can go on. -/
def State.fspillNow (s : State) (ctx : Nat) : Bool :=
  let r := s.regN (ctxReg ctx 0x288)
  bit r 0 && (s.spillFrame ctx (bits r 51 12 * 4096)).isSome

end Sys2Proof.Machine
end

