-- ==== Sys2Proof/Machine/Debug.lean ====
section
/-! DEFINITION. The debugger: slice watchpoints, the roadblock wave, the frozen cut, resume, requests for single steps, samples and dumps
(R406-R429). -/
namespace Sys2Proof.Machine

/-- The state of an outcome, or the state before it. -/
def resOr (r : Res) (s : State) : State := match r with | .next s1 => s1 | _ => s

/-! ### Slice watchpoints (R414, R415) -/

/-- ENGID of a writer (R414). -/
def Writer.engid (w : Writer) : Nat := (w.kind - 2) <<< 12 + w.num % 4096
/-- A request as a writer names it. -/
def XReq.isBy (r : XReq) (w : Writer) : Bool := r.ctx == w.ctx && r.idx + 2 ^ 32 * r.ring == w.id
/-- A writer that a hit stopped goes on; a remote operation's reply then leaves, with what it carries (R414, R415). -/
def State.unwatch (s : State) (w : Writer) (cause : Nat) : State :=
  match w.kind with
  | 3 => { s with cores := s.cores.map fun (c : Nat × CoreSt) => (c.1, { c.2 with cq := c.2.cq.map fun (m : Cmd) => if m.id == w.id then { m with watched := false } else m }) }
  | 4 => { s with xreqs := s.xreqs.map fun (r : XReq) => if r.isBy w then { r with watched := false } else r }
  | _ => match s.remIn.find? fun r => r.n == w.id with | some r => s.answer r cause r.data | none => s
/-- A pending fault stands behind the operation that it follows. -/
def insertAfter (ops : List Op) (id : Nat) (o : Op) : List Op :=
  match ops with
  | [] => [o]
  | x :: xs => if x.id == id then x :: o :: xs else x :: insertAfter xs id o
/-- The report of a hit that does not halt goes where its issuer's imprecise causes go (R414). -/
def State.swReport (s : State) (h : SwHit) : State :=
  let w := h.w
  match w.kind with
  | 3 =>
    let f := s.fresh
    let c := { engFault cWatchpoint h.va.toNat h.va .copy w.engid w.pc with gatef := true }
    match s.home? w.grid w.lin with
    | some _ => f.2.modHome w.grid w.lin fun b => { b with tile := { b.tile with
        ops := if b.tile.ops.any fun o => o.id == w.id then insertAfter b.tile.ops w.id ⟨f.1, .copy, true, true, some c⟩ else ⟨f.1, .copy, true, true, some c⟩ :: b.tile.ops } }
    | none => s.abortGrid w.grid w.lin c none
  | 4 => s.impreciseAny w.grid w.lin w.t { causeVa cWatchpoint h.va.toNat w.pc with rpc := w.pc + 8, ecls := (Eng.code .xform).toNat, eng := w.engid }
  | _ => s
/-- SLICE_WATCH_LATCH (R412, R414, R415): the first hit that waits is latched. A halting one starts a roadblock, and its writer stays held until
resume; another is reported. -/
def execSliceWatchLatch (s : State) : Res :=
  match s.swHits with
  | [] => notNow "SLICE_WATCH_LATCH"
  | h :: hs =>
    let s1 := { s with swHits := hs }
    if h.halt && s1.halts h.w.ctx cWatchpoint true then .next (s1.roadblock h.w.ctx cWatchpoint 0xFF 0xFF h.w.engid h.va)
    else
      let off := match s1.remIn.find? fun r => r.n == h.w.id with | some r => h.va.toNat - r.va.toNat | none => 0
      .next ((s1.swReport h).unwatch h.w (cWatchpoint + 256 * off))

/-! ### The wave (R417, R418, R420) -/

/-- A context's frames of a freeze: each frozen block takes the lowest free slot of the save pool, or none (R403, R406, R420). -/
def State.freezeFrames (s : State) (ctx reason wave : Nat) : State :=
  (s.blocks.filter fun b => b.ctx == ctx && b.state == .frozen && b.frame.isNone).foldl (fun s b =>
    match s.gridOf b with
    | none => s
    | some g =>
      match s.saveSlot ctx (b.fsize g) with
      | none => s
      | some (_, va) => (s.writeFrame b g va reason (b.fflags false false) wave b.allRefs []).modBlock b.core b.slot fun x => { x with
          frame := some ⟨BitVec.ofNat 64 va, b.rings, b.allRefs⟩ }) s
/-- What a freeze still waits for: a result of a context's own thread units that is still to land (R420: the rest of an access of two halves, or a
special function's fault), or a started pass of a block that is being pre-empted (R404, R410). -/
def State.landing (s : State) (ctx : Nat) : Bool :=
  s.blocks.any fun b => b.ctx == ctx && ((b.preReq && s.passRuns b.grid b.lin) ||
    b.warps.any fun w => w.threads.any fun th => th.held.any fun o => o.kind == .half || o.kind == .trap)
/-- A block that a freeze met on its way out, as it is saved: its frame's REASON is PREEMPT, and nothing of the freeze goes with it (R410). -/
def Block.unfrozen (b : Block) : Block :=
  let why := b.why.filter fun w => w != .roadblock
  { b with why := why, state := if why.isEmpty then .running else b.state }
/-- A block on its way out can leave in the freeze: it is quiet, its tile side stands (R404), and no fault of it started a wave or waits (R387, R413). -/
def State.leaves (s : State) (b : Block) : Bool :=
  b.preReq && b.frame.isNone && s.saveReady b && b.trapLine.isEmpty &&
    b.warps.all fun w => w.threads.all fun th => th.cause.isNone || th.hmode
/-- The saves that a freeze met complete (R410); a block that cannot be saved now stays frozen, and its request stands until resume. -/
def State.finishSaves (s : State) (ctx : Nat) : State :=
  (s.blocks.filter fun b => b.ctx == ctx && s.leaves b).foldl (fun s b =>
    match s.gridOf b with
    | none => s
    | some g => match s.saveSlot ctx (b.fsize g) with
      | none => s
      | some (k, va) => s.saveBlock b.unfrozen g va (some k) false 0) s
/-- A freeze is complete once the results still to land have landed, the saves that it met are done and its frames are written (R410, R419, R420). -/
def State.finishFreeze (s : State) (ctx : Nat) : State :=
  if s.rbState ctx != 1 || s.landing ctx then s
  else
    let s1 := (s.finishSaves ctx).freezeFrames ctx 0x1A (bits (s.regN (ctxReg ctx 0x910)) 63 32)
    s1.setReg (ctxReg ctx 0x928) (setField (s1.reg (ctxReg ctx 0x928)) 2 0 2)
/-- Contexts with a register of their debug window written. -/
def State.freezing (s : State) : List Nat := s.regs.filterMap fun r => if r.1 % 0x100000 == 0x928 && r.1 < 0x4000000 && r.2.toNat % 8 == 1 then some (r.1 / 0x100000) else none
/-- What follows any step: freezes that began are completed. -/
def State.afterStep (s : State) : State := s.freezing.foldl (fun s c => s.finishFreeze c) s

/-- The contexts of a job on this device (R454). -/
def State.jobCtxs (s : State) (job : Nat) : List Nat := if job == 0 then [] else (List.range 64).filter fun c => s.jobOf c == job
/-- One more trigger joined (R418). -/
def State.merged (s : State) (ctx : Nat) : State :=
  let r := ctxReg ctx 0x928
  s.setReg r (setField (s.reg r) 63 48 (min (bits (s.regN r) 63 48 + 1) 0xFFFF))
/-- Forward a flit on a context's links but one. -/
def State.forward (s : State) (ctx link : Nat) (f : Flit) : State :=
  { s with outs := s.outs ++ ((s.jobLinks ctx).filter fun l => l != link).map fun l => .flit ctx l f }
/-- The RB registers of a wave. -/
def State.rbRegs (s : State) (ctx : Nat) (cause aux addr : Dword) : State :=
  ((s.setReg (ctxReg ctx 0x910) cause).setReg (ctxReg ctx 0x918) aux).setReg (ctxReg ctx 0x920) addr
/-- A context meets a roadblock flit (R417, R418). -/
def State.meetWave (s : State) (ctx link wave job origin : Nat) (cause aux addr : Dword) : State :=
  let f := Flit.roadblock wave job origin cause aux addr
  let st := s.reg (ctxReg ctx 0x928)
  let held := s.regN (ctxReg ctx 0x910)
  if st.toNat % 8 == 0 then
    if wave ≤ SMap.get s.lastWave ctx 0 then s
    else ((((s.rbRegs ctx cause aux addr).setReg (ctxReg ctx 0x928) (setField st 2 0 1)).freezeCtx ctx).forward ctx link f)
  else if bits held 63 32 == wave && decide (origin < held % 1024) then
    let s1 := s.rbRegs ctx cause aux addr
    (if held % 1024 == s.devIdx ctx then s1.merged ctx else s1).forward ctx link f
  else s
/-- ROADBLOCK_FLIT (R417, R418). -/
def execRoadblockFlit (link wave job origin : Nat) (cause aux addr : BitVec 64) (s : State) : Res :=
  .next ((s.jobCtxs job).foldl (fun s c => s.meetWave c link wave job origin cause aux addr) s)
/-- TRIGGER: a write of RB_CTL with CMD TRIGGER (R424). -/
def execTrigger (ctx : Nat) (s : State) : Res :=
  .next (if s.rbState ctx == 0 then s.roadblock ctx cBreakpoint 0xFF 0xFF 0 0 else s)

/-! ### Flits of a frozen job (R421) -/

/-- The context of this device that a flit of data traffic belongs to. -/
def State.flitCtx (s : State) (f : Flit) : Option Nat :=
  match f with
  | .request _ _ job _ _ _ _ _ _ _ => (s.jobCtxs job).head?
  | .dbar job _ _ _ => (s.jobCtxs job).head?
  | .reply tag _ _ => ((s.remOut.find? fun o => o.tag == tag).bind fun o => s.grid? o.grid).map Grid.ctx
  | _ => none
/-- The device's own part of delivering a flit of data traffic. -/
def State.takeFlit (s : State) (f : Flit) : State :=
  match f with
  | .request src tag job cls kind va data sz am sx =>
    let n := s.fresh
    { n.2 with remIn := n.2.remIn ++ [⟨n.1, src, tag, job, cls, kind, va, data, sz, am, sx, false, false, false, none⟩] }
  | .reply tag cause data => resOr (execRemoteReply tag cause data s) s
  | .dbar job jtag id dev => resOr (execDbarFabricArrival job jtag id dev s) s
  | _ => s
/-- The held queue has room for one more flit (R421). -/
def State.heldRoom (s : State) : Bool := decide (s.heldQ.length < 16384)
/-- HELD_FLIT (R421): a flit of a frozen job waits, undelivered. -/
def execHeldFlit (link : Nat) (f : Flit) (s : State) : Res :=
  match s.flitCtx f with
  | none => notNow "HELD_FLIT"
  | some c =>
    let r := ctxReg c 0x928
    if s.rbState c == 0 || !s.heldRoom then notNow "HELD_FLIT"
    else .next ({ s with heldQ := s.heldQ ++ [(link, f)] }.setReg r (setField (s.reg r) 47 32 (min (bits (s.regN r) 47 32 + 1) 0xFFFF)))

/-! ### Resume (R406, R407, R424) -/

/-- Perform the remote operations that can be performed, at most n. -/
def State.remAll (s : State) : Nat → State
  | 0 => s
  | n + 1 => match s.remIn.find? fun r => s.remNow r with | some r => State.remAll (resOr (execRemotePerform r.n s) s) n | none => s

/-- The tile side stopped at a fault that started a roadblock: its bundle issues anew. -/
def Block.haltedTile (b : Block) : Bool :=
  b.why.contains .tileFault && match b.gateThread.bind fun t => b.thread? t.warp t.lane with | some th => th.cause.isSome && !th.hmode && th.trapq.isNone | none => false
/-- A block after a freeze (R406, R407, R365): causes that met its threads while it was frozen are taken now. -/
def State.thaw (s : State) (b : Block) (w : FreezeWhy) : State :=
  match s.gridOf b with
  | none => s
  | some g =>
    if (match b.frame with | some f => s.frameBad b g f.va.toNat | none => false) then s.abortGrid b.grid b.lin (causeOf cIllegalEncoding 0 0) (some b)
    else
      let halted := b.haltedTile
      let why := b.why.filter fun x => x != w && x != .fetch && !(halted && x == .tileFault)
      let b1 := match b.frame with
        | some f => s.readFrame ⟨b.grid, b.lin, b.ctx, f.va, none, false, b, f.refs, 0, [], [], f.rings0, [], [], []⟩
            (match g.img.vars[b.variant]? with | some v => bit v.vflags 0 | none => false)
        | none => b
      let b2 := { b1 with
        why := why, state := if why.isEmpty then .running else b.state, frozenTile := b.frozenTile && why.contains .tileFault, tcause := if halted then none else b.tcause
        frame := none, fetchVa := none
        warps := b1.warps.map fun (x : Warp) => { x with threads := x.threads.map fun (th : Thread) => { th.resume with cause := if th.hmode then th.cause else none } } }
      let s1 := s.modBlock b.core b.slot fun _ => b2
      let s2 := if b2.gated then s1.traceTile b2 5 else match b2.live.head? with | some t => s1.traceThread t 5 | none => s1
      b2.trapLine.foldl (fun s t =>
        match s.thread? t with
        | none => s
        | some th => match th.trapq with
          | some c => (s.modThread t fun th => { th with st := .running, trapq := none }).deliver t c false
          | none => s) s2
/-- Engines and remote streams that a halting watchpoint held go on (R415). -/
def State.unwatchCtx (s : State) (ctx : Nat) : State :=
  let waits := fun (kind id : Nat) => s.swHits.any fun h => h.w.kind == kind && h.w.id == id
  let s1 := { s with
    cores := s.cores.map fun (c : Nat × CoreSt) => (c.1, { c.2 with cq := c.2.cq.map fun (m : Cmd) => if m.ctx == ctx && !waits 3 m.id then { m with watched := false } else m })
    xreqs := s.xreqs.map fun (r : XReq) => if r.ctx == ctx && !waits 4 (r.idx + 2 ^ 32 * r.ring) then { r with watched := false } else r }
  (s1.remIn.filter fun r => r.watch && s1.remCtx r == some ctx && !waits 5 r.n).foldl (fun s r => s.answer r 0 r.data) s1
/-- A context resumes from a wave, in the order of R424. -/
def State.resumeCtx (s : State) (ctx wave : Nat) : State :=
  let job := s.jobOf ctx
  let mine := fun (x : Nat × Flit) => s.flitCtx x.2 == some ctx
  let s1 : State := { s with
    lastWave := SMap.put s.lastWave ctx wave
    outs := s.outs ++ (s.jobLinks ctx).map fun l => Out.flit ctx l (Flit.resume wave job) }.setReg (ctxReg ctx 0x928) 0
  let s2 := (s.heldQ.filter mine).foldl (fun s x => s.takeFlit x.2) { s1 with heldQ := s.heldQ.filter fun (x : Nat × Flit) => !mine x }
  let s3 := s2.remAll s2.remIn.length
  let s4 : State := { s3 with
    outs := s3.outs ++ (s3.outbound.filter fun (x : Nat × Nat × Flit) => x.1 == ctx).map fun (x : Nat × Nat × Flit) => Out.flit x.1 x.2.1 x.2.2
    outbound := s3.outbound.filter fun (x : Nat × Nat × Flit) => x.1 != ctx }
  let s5 := (s4.unwatchCtx ctx).setReg (ctxReg ctx 0xC10) 0
  (s5.blocks.filter fun b => b.ctx == ctx && b.why.contains .roadblock).foldl (fun s b => s.thaw b .roadblock) s5
/-- A resume of a wave is for this context now (R424). -/
def State.resumes (s : State) (ctx wave : Nat) : Bool := s.rbState ctx == 2 && bits (s.regN (ctxReg ctx 0x910)) 63 32 == wave
/-- RESUME: a write of RB_CTL with CMD RESUME (R424). -/
def execResume (ctx wave : Nat) (s : State) : Res := .next (if s.resumes ctx wave then s.resumeCtx ctx wave else s)
/-- RESUME_FLIT (R424). -/
def execResumeFlit (_link wave job : Nat) (s : State) : Res :=
  .next ((s.jobCtxs job).foldl (fun s c => if s.resumes c wave then s.resumeCtx c wave else s) s)

/-! ### Single step (R423) -/

/-- STEP: a write of RB_CTL with CMD STEP (R423), in a frozen context or one whose blocks a dump has frozen. The unit then steps (Machine/Fetch), and STEPST reads 2 or 3. -/
def execStep (ctx : Nat) (s : State) : Res :=
  let r := ctxReg ctx 0xC10
  let v := s.reg r
  if v.toNat % 4 == 1 then .next s
  else
    let unit := bits (s.regN (ctxReg ctx 0xC08)) 31 30
    .next (s.setReg r (setField v 1 0 (if unit == 3 || !(s.rbState ctx == 2 || s.dumps.contains ctx) then 3 else 1)))

/-! ### Samples (R425, R426) -/

/-- The task slot that a core samples next: its occupied slots in turn. -/
def State.sampleSlot (s : State) (core : Nat) : Option Block :=
  let k0 := (s.core core).sampleSlot
  (List.range 8).findSome? fun k => s.block? core ((k0 + k) % 8)
/-- The thread that has waited longest among some. -/
def Block.oldest (b : Block) (ts : List TRef) : Option TRef :=
  let w := fun (t : TRef) => ((b.thread? t.warp t.lane).map Thread.waited).getD 0
  ts.foldl (fun m t => match m with | none => some t | some u => if w u < w t then some t else some u) none
/-- TRACE_SAMPLE (R426): the tile side of a gated block, else its oldest waiting thread. -/
def execTraceSample (core : Nat) (s : State) : Res :=
  match s.sampleSlot core with
  | none => notNow "TRACE_SAMPLE"
  | some b =>
    let s1 := s.modCore core fun c => { c with sampleSlot := (b.slot + 1) % 8 }
    if b.gated then .next (s1.traceRec core b.slot b.ctx 0 b.tile.stall (scycTile b.tile))
    else
      let ready := b.live.filter fun t => s.ready t .short
      match b.oldest (if ready.isEmpty then b.live else ready) with
      | none => .next s1
      | some t => .next (s1.traceRec core b.slot b.ctx 0 (if ready.isEmpty then 8 else 0)
          (scycThread (((b.warps[t.warp]?).map Warp.wslot).getD 0) t.lane (((b.thread? t.warp t.lane).map Thread.pc).getD 0)))

/-! ### Dumps (R429) -/

/-- A dump record: header, payload, and the CRC-32C of both. The order of the header's parts is the spec's, their places are log 31's. -/
def dumpRecord (kind ctx : Nat) (pay : List Byte) : List Byte :=
  let body := leBytes 0x504D5544 4 ++ leBytes kind 4 ++ leBytes pay.length 8 ++ leBytes ctx 8 ++ leBytes 0 8 ++ pay
  body ++ leBytes (crcBytes 0xFFFFFFFF body ^^^ 0xFFFFFFFF) 4
/-- The records of a context's trace ring. -/
def State.traceRing (s : State) (ctx : Nat) : List Byte :=
  let c := s.regN (ctxReg ctx 0xC28)
  (List.range (min (bits c 63 32) (2 ^ (c % 16 + 6)))).flatMap fun k => leBytes (s.ctxR ctx (s.regN (ctxReg ctx 0xC20) + 64 * k) 64) 64
/-- The blocks of a context that a dump has frozen. -/
def State.dumpBlocks (s : State) (ctx : Nat) : List Block := s.blocks.filter fun b => b.ctx == ctx && b.why.contains .dump
/-- The results of those blocks' threads can be written (R87, R406): none is outstanding but what a frame records of a wait. -/
def State.dumpReady (s : State) (ctx : Nat) : Bool :=
  (s.dumpBlocks ctx).all fun b => b.refs.all fun t => match b.thread? t.warp t.lane with
    | some th => th.pend.all fun p => p.value.isSome || th.held.any fun o => o.tag == p.tag && (o.kind == .pop || o.kind == .commit || o.hs != .free)
    | none => true
/-- Resume a block after a dump (R407), unless something else holds it. -/
def State.dumpOver (s : State) (x : Block) : State :=
  match s.block? x.core x.slot with
  | none => s
  | some b =>
    let b1 := { b with why := b.why.filter fun w => w != .dump }
    if b1.why.isEmpty || b1.stillOr then s.thaw b .dump else s.modBlock x.core x.slot fun _ => b1
/-- The frames, the RB registers and the trace ring of a context leave, and the blocks that nothing else holds resume (R407, R429). -/
def State.dumpOut (s : State) (ctx : Nat) : State :=
  let s1 : State := { s with
    dumps := s.dumps.filter fun c => c != ctx
    blocks := s.blocks.map fun (b : Block) => if b.ctx == ctx && b.why.contains .dump then b.settle else b }
  let frames := (s1.dumpBlocks ctx).filterMap fun b => (s1.gridOf b).map fun g => dumpRecord 1 ctx (s1.frameBytes b g cBreakpoint (b.fflags false false) 0)
  let rb := dumpRecord 3 ctx ((List.range 4).flatMap fun k => leBytes (s1.regN (ctxReg ctx (0x910 + 8 * k))) 8)
  let s2 : State := { s1 with outs := s1.outs ++ ((frames ++ [rb, dumpRecord 4 ctx (s1.traceRing ctx), dumpRecord 5 ctx []]).map fun (r : List Byte) => Out.sideband r) }
  (s1.dumpBlocks ctx).foldl (fun s x => s.dumpOver x) s2
/-- DUMP_REQUEST (R87, R280, R406, R407, R429): the context's blocks freeze; what leaves leaves once the results of their threads have been written. -/
def execDumpRequest (ctx : Nat) (s : State) : Res :=
  let s1 : State := { s with blocks := s.blocks.map fun (b : Block) => if b.ctx == ctx && b.state != SlotState.saving then b.freeze .dump else b }
  .next (if s1.dumpReady ctx then s1.dumpOut ctx else { s1 with dumps := if s1.dumps.contains ctx then s1.dumps else ctx :: s1.dumps })

end Sys2Proof.Machine
end

