-- ==== Sys2Proof/Machine/Host.lean ====
section
/-! DEFINITION. The host and device boundary without the checkpoint: BAR2, partitions, ATS, links and flits, clocks and power, soft errors,
the firmware's log and ring heads (R444-R459, R465). -/
namespace Sys2Proof.Machine

/-! ### Ring heads (R445, R447) -/

/-- AUDHEAD_WRITE (R445). -/
def execAudheadWrite (v : BitVec 64) (s : State) : Res :=
  let x := v.toNat % 2 ^ 32
  .next (if headMoves (s.regN 0x2A8) (bits (s.regN 0x2B8) 63 32) x then s.setReg 0x2A8 (BitVec.ofNat 64 x) else s)
/-- PROFHEAD_WRITE (R447). -/
def execProfheadWrite (ctx : Nat) (v : BitVec 64) (s : State) : Res :=
  let x := v.toNat % 2 ^ 32
  .next (if headMoves (s.regN (ctxReg ctx 0x2A0)) (bits (s.regN (ctxReg ctx 0x298)) 63 32) x then s.setReg (ctxReg ctx 0x2A0) (BitVec.ofNat 64 x) else s)

/-! ### BAR2 (R329, R448) -/

/-- The physical address that a function's BAR2 offset names (R448): none where the access completes with Unsupported Request. -/
def State.bar2 (s : State) (fn addr n : Nat) : Option Nat :=
  let r := s.vfMem fn
  let a := if fn == 0 then addr else r.1 + addr
  if n == 0 || (if fn == 0 then decide (2 ^ 41 < addr + n) else decide (r.2 < a + n)) || (List.range 2).any (fun k => let x := if k == 0 then a else a + n - 1; paReserved x || paSafe x || paHost x) then none
  else some a
/-- The host writes a byte of its own memory (R329): where the L2 holds it for a page with SC = 0, the device keeps what the L2 has. -/
def State.hostByte (s : State) (x : Nat) (b : Byte) : State :=
  if (SMap.get? s.l2 (x / 512)).any fun l => l.valid.getLsbD (x % 512) then { s with hostMem := SMap.put s.hostMem x b }
  else { s with mem := Mem.set s.mem x b, hostMem := SMap.del s.hostMem x }
/-- The host's own access to its memory: a write, or a read of what the host has (R329). -/
def State.hostAccess (s : State) (write : Bool) (addr : Nat) (data : List Byte) : State × List Byte :=
  let pa := 0x800000000000 + addr % 2 ^ 47
  if write then (((List.range data.length).zip data).foldl (fun s x => s.hostByte (pa + x.1) x.2) s, [])
  else (s, (List.range data.length).map fun k => (SMap.get? s.hostMem (pa + k)).getD (Mem.get s.mem (pa + k)))
/-- HOST_BAR_ACCESS (R329, R448): a read asks for as many bytes as data holds; above the last function, fn names the host itself, whose access is to its
own memory (log 123). -/
def execHostBarAccess (fn : Nat) (write : Bool) (addr : Nat) (data : List Byte) (s : State) : Res :=
  let fin := fun (s : State) (st : Nat) (d : List Byte) => ({ s with outs := s.outs ++ [.bar fn st d] } : State)
  if 17 ≤ fn then let r := s.hostAccess write addr data; .next (fin r.1 0 r.2)
  else
  match s.bar2 fn addr data.length with
  | none => .next (fin s 1 [])
  | some a =>
    let n := data.length
    if write then .next (fin (s.pwrite 64 a (leNat data) n 0) 0 [])
    else if s.poisoned a n then .next (fin (s.ueRead a n) 2 (s.pbytes a n))
    else .next (fin (s.touchL2 64 a n false 0) 0 (s.pbytes a n))

/-! ### Partitions (R450) -/

/-- Where the written mask of a VFPART whose move is pending is held: it has no place in a window. -/
def vfNextKey (f : Nat) : Nat := devReg (0x7000 + 8 * f)
/-- Quads in force, and quads asked for. -/
def State.vfHas (s : State) (f : Nat) : Nat := s.regN (devReg (8 * f)) % 2 ^ 32
@[inherit_doc State.vfHas] def State.vfWants (s : State) (f : Nat) : Nat := if bit (s.regN (devReg (8 * f))) 32 then s.regN (vfNextKey f) else s.vfHas f
/-- VFPART_WRITE (R450): a mask that names a quad of another VF is ignored. -/
def execVfpartWrite (f : Nat) (v : BitVec 64) (s : State) : Res :=
  let m := v.toNat % 2 ^ 32
  if f == 0 || 16 < f || (List.range 17).any fun k => k != 0 && k != f && (m &&& (s.vfHas k ||| s.vfWants k)) != 0 then .next s
  else if m == s.vfHas f then .next ((s.setReg (devReg (8 * f)) (BitVec.ofNat 64 m)).setReg (vfNextKey f) 0)
  else .next ((s.setReg (devReg (8 * f)) (BitVec.ofNat 64 (s.vfHas f + 2 ^ 32))).setReg (vfNextKey f) (BitVec.ofNat 64 m))
/-- A quad holds a block or a saved row of a function (R57, R450). -/
def State.quadHolds (s : State) (q fn : Nat) : Bool :=
  (s.blocks.any fun b => quadOf b.core == q && s.owner b.ctx == fn) || s.saved.any fun v => s.owner v.ctx == fn && v.refs.any fun r => quadOf r.2.1 == q
/-- The pending move of a function can take effect. -/
def State.moveNow (s : State) (f : Nat) : Bool :=
  decide (1 ≤ f) && decide (f ≤ 16) && bit (s.regN (devReg (8 * f))) 32 && (List.range 32).all fun q =>
    bit (s.vfHas f) q == bit (s.vfWants f) q || !s.quadHolds q (if bit (s.vfHas f) q then f else 0)
/-- VFPART_MOVE_DONE (R450). -/
def execVfpartMoveDone (f : Nat) (s : State) : Res :=
  if !s.moveNow f then notNow "VFPART_MOVE_DONE"
  else .next ((s.setReg (devReg (8 * f)) (BitVec.ofNat 64 (s.vfWants f))).setReg (vfNextKey f) 0)

/-! ### ATS (R453) -/

/-- ATS_INVALIDATE (R453): the translations that reach len bytes of host memory from pa leave every buffer. -/
def execAtsInvalidate (pa len : Nat) (s : State) : Res :=
  let lo := 0x800000000000 + pa
  .next { s.tlbFilter (fun e => !(decide (e.pbase < lo + len) && decide (lo < e.pbase + 2 ^ e.lg))) with atsPend := true }
/-- ATS_INVALIDATE_COMPLETE (R453): accesses are performed in the step that translates them, so no user is left. -/
def execAtsInvalidateComplete (s : State) : Res :=
  if !s.atsPend then notNow "ATS_INVALIDATE_COMPLETE" else .next { s with atsPend := false, outs := s.outs ++ [.atsDone] }

/-! ### Links (R421, R455, R456) -/

/-- LINKST of a link. -/
def lkReg (l : Nat) : Nat := devReg (0x300 + 8 * l)
/-- LINK_TRAINED (R456). -/
def execLinkTrained (l lat : Nat) (degraded : Bool) (s : State) : Res :=
  if 16 ≤ l then notNow "LINK_TRAINED" else .next (s.setReg (lkReg l) (BitVec.ofNat 64 ((lat % 65536) <<< 32 + 2 * b2n degraded + 1)))
/-- LINK_DOWN (R279, R456): operations on the link end with FABRIC, those that still wait at its port among them. -/
def execLinkDown (l : Nat) (s : State) : Res :=
  if !bit (s.regN (lkReg l)) 0 then notNow "LINK_DOWN"
  else
    let s1 := { s with outbound := s.outbound.filter fun o => o.2.1 != l }.setReg (lkReg l) (setField (s.reg (lkReg l)) 0 0 0) |>.heldOutSync ((s.outbound.filter fun (o : Nat × Nat × Flit) => o.2.1 == l).map fun (o : Nat × Nat × Flit) => o.1).eraseDups
    .next ((s.remOut.filter fun o => o.link == l).foldl (fun s o => resOr (execRemoteReply o.tag cFabric 0 s) s) s1)
/-- FLIT_RECEIVE (R421, R456): a flit with a bad CRC is asked for again; a good one is taken, or held while its job is frozen. -/
def execFlitReceive (l : Nat) (f : Flit) (crcOk : Bool) (s : State) : Res :=
  if !bit (s.regN (lkReg l)) 0 then notNow "FLIT_RECEIVE"
  else if !crcOk then .next (s.setReg (lkReg l) (setField (s.reg (lkReg l)) 31 16 (min (bits (s.regN (lkReg l)) 31 16 + 1) 0xFFFF)))
  else
    match f with
    | .roadblock w j o c a d => execRoadblockFlit l w j o c a d s
    | .resume w j => execResumeFlit l w j s
    | _ =>
      match s.flitCtx f with
      | some c => if s.rbState c == 0 then .next (s.takeFlit f) else execHeldFlit l f s
      | none => .next (s.takeFlit f)

/-! ### Clocks and power (R457-R459) -/

/-- Locked-clock mode is in force. -/
def State.locked (s : State) : Bool := bit (s.regN (devReg 0x408)) 0
/-- One more clk stretched or lowered, counted since LOCK was set (R459). -/
def State.stretched (s : State) : State :=
  let v := s.regN (devReg 0x408)
  if !bit (s.regN (devReg 0x400)) 2 then s else s.setReg (devReg 0x408) (setField (BitVec.ofNat 64 v) 63 32 (min (bits v 63 32 + 1) 0xFFFFFFFF))
/-- SUPPLY_DROOP (R457, R458): the domain stretches its clock; in locked mode none does. -/
def execSupplyDroop (domain : Nat) (s : State) : Res :=
  if 40 ≤ domain then notNow "SUPPLY_DROOP"
  else .next (if s.locked || s.fw.droop.contains domain then s else { s with fw := { s.fw with droop := domain :: s.fw.droop } }.stretched)
/-- DROOP_PASSED (R457). -/
def execDroopPassed (domain : Nat) (s : State) : Res :=
  if !s.fw.droop.contains domain then notNow "DROOP_PASSED" else .next { s with fw := { s.fw with droop := s.fw.droop.filter fun d => d != domain } }
/-- POWER_LIMIT (R457-R459): domain clocks are lowered; in locked mode none is. -/
def execPowerLimit (s : State) : Res := .next (if s.locked then s else s.stretched)
/-- CLKCTL_WRITE (R458). -/
def execClkctlWrite (v : BitVec 64) (s : State) : Res := .next (s.setReg (devReg 0x400) (BitVec.ofNat 64 (v.toNat % 8 + 8)))
/-- CLOCK_CHANGE can happen: a value waits and no grid runs. -/
def State.clockNow (s : State) : Bool := bit (s.regN (devReg 0x400)) 3 && s.grids.isEmpty
/-- CLOCK_CHANGE (R458, R459). -/
def execClockChange (s : State) : Res :=
  if !s.clockNow then notNow "CLOCK_CHANGE"
  else
    let v := s.regN (devReg 0x400) % 8
    let st := s.regN (devReg 0x408)
    .next ((s.setReg (devReg 0x400) (BitVec.ofNat 64 v)).setReg (devReg 0x408)
      (if bit v 2 then (if bit st 0 then BitVec.ofNat 64 st else BitVec.ofNat 64 (bits st 1 1 * 2 + 1)) else BitVec.ofNat 64 (bits st 63 32 <<< 32 + bits st 1 1 * 2)))
/-- LOCK_LOST (R459). -/
def execLockLost (s : State) : Res :=
  if !s.locked then notNow "LOCK_LOST"
  else
    let st := s.reg (devReg 0x408)
    .next { s.setReg (devReg 0x408) (setField st 1 0 2) with outs := s.outs ++ [.msix 0 0] }

/-! ### Soft errors (R240, R465) -/

/-- SERRCNT. -/
def seReg (i : Nat) : Nat := devReg (0x600 + 8 * i)
/-- SERRCNT_CLEAR (R465). -/
def execSerrcntClear (i : Nat) (s : State) : Res := .next (if i < 8 then s.setReg (seReg i) 0 else s)
/-- Drop the 32-byte sector of an address from an L1 line, and what it had not written back. -/
def L1Line.dropSector (l : L1Line) (pa : Nat) : L1Line :=
  let m := maskN (pa / 32 * 32 % 128) 32
  if l.line == pa / 128 then { l with valid := l.valid &&& ~~~m, dirty := l.dirty &&& ~~~m } else l
/-- An uncorrected error in a level of R465: a word of a pool row or of an accumulator row (numbered as log 16 says), or the sector of a
physical address. -/
def State.uncorrected (s : State) (level pa : Nat) : State :=
  let sector := fun (s : State) => { s with poison := if s.poison.contains (pa / 64) then s.poison else s.poison ++ [pa / 64] }
  match level with
  | 0 => { s with poolBad := if s.poolBad.contains pa then s.poolBad else s.poolBad ++ [pa] }
  | 1 => { s with accBad := if s.accBad.contains pa then s.accBad else s.accBad ++ [pa] }
  | 2 =>
    let dirty := s.cores.any fun c => c.2.l1.any fun l => l.line == pa / 128 && l.dirty &&& maskN (pa / 32 * 32 % 128) 32 != 0
    let s1 := { s with cores := s.cores.map fun (c : Nat × CoreSt) => (c.1, { c.2 with l1 := c.2.l1.map fun (l : L1Line) => l.dropSector pa }) }
    if dirty then sector s1 else s1
  | 6 => s
  | _ => sector s
/-- SOFT_ERROR (R240, R465). -/
def execSoftError (level : Nat) (corrected : Bool) (pa : Nat) (s : State) : Res :=
  if 8 ≤ level then notNow "SOFT_ERROR"
  else
    let v := s.regN (seReg level)
    let c := min (bits v 31 0 + b2n corrected) 0xFFFFFFFF
    let u := min (bits v 63 32 + b2n (!corrected)) 0xFFFFFFFF
    let s1 := s.setReg (seReg level) (BitVec.ofNat 64 (u <<< 32 + c))
    .next (if corrected then s1 else { s1.uncorrected level pa with outs := s1.outs ++ [.msix 0 1] })

end Sys2Proof.Machine
end

