-- ==== Sys2Proof/Machine/Boot.lean ====
section
/-! DEFINITION. Checkpoint to the safe tier, loss of power, host reset, boot, recovery and attestation (R460-R466). -/
namespace Sys2Proof.Machine

/-- CKPTST. -/
def ckptSt : Nat := devReg 0x508
/-- CKPTST.STATE. -/
def State.ckptState (s : State) : Nat := s.regN ckptSt % 8
/-- Bytes of bonded DRAM, and where its image and the image header lie (R239, R460). -/
def dramTop : Nat := 0x003000000000
@[inherit_doc dramTop] def imgBase : Nat := 0x01C000000000
@[inherit_doc dramTop] def imgHead : Nat := 0x01F000000000

/-! ### Checkpoint (R460-R462) -/

/-- A checkpoint starts: issue stops device-wide (R461). -/
def State.ckptStart (s : State) (halt : Bool) (cause : Nat) : State :=
  { s with
    fw := { s.fw with ckptHalted := halt, ckptCut := false, ckptCause := cause }
    blocks := s.blocks.map fun (b : Block) => b.freeze .checkpoint }.setReg ckptSt (setField (s.reg ckptSt) 2 0 1)
/-- CKPT_HALT (R462). -/
def execCkptHalt (s : State) : Res := .next (if s.ckptState == 0 then s.ckptStart true 0 else s)
/-- CKPT_CONTINUE (R462). -/
def execCkptContinue (s : State) : Res := .next (if s.ckptState == 0 then s.ckptStart false 0 else s)
/-- CKPT_RESTORE (R462): only while the image is valid and no queue is enabled. -/
def execCkptRestore (s : State) : Res :=
  let enabled := (List.range 64).any fun c => (List.range 64).any fun q => bit (s.lqCtl c q) 0
  .next (if s.ckptState == 0 && bit (s.regN ckptSt) 3 && !enabled then s.setReg ckptSt (setField (s.reg ckptSt) 2 0 2) else s)
/-- CKPT_DISCARD (R462). -/
def execCkptDiscard (s : State) : Res :=
  .next (if s.ckptState == 0 then { s with mem := Mem.writeN s.mem (imgHead + 40) 0 8 }.setReg ckptSt (setField (s.reg ckptSt) 3 3 0) else s)
/-- Started work that a checkpoint waits for (R461). -/
def State.ckptBusy (s : State) : Bool :=
  (s.cores.any fun c => c.2.cq.any fun m => m.st != .queued) || (s.xreqs.any fun r => r.started) || !s.remOut.isEmpty
/-- CHECKPOINT_CUT (R461): started commands, requests and remote operations end where they stand. -/
def execCheckpointCut (s : State) : Res :=
  if s.ckptState != 1 || s.fw.ckptCut then notNow "CHECKPOINT_CUT"
  else
    let cmds := s.cores.flatMap fun c => c.2.cq.filter fun m => m.st != .queued
    let s1 := { s with
      fw := { s.fw with ckptCut := true }
      cores := s.cores.map fun (c : Nat × CoreSt) => (c.1, { c.2 with cq := c.2.cq.filter fun (m : Cmd) => m.st == CmdSt.queued })
      xreqs := s.xreqs.filter fun (r : XReq) => !r.started
      remOut := [] }
    let s2 := cmds.foldl (fun s m => s.opDone m.id m.cls none) s1
    let s3 := (s.xreqs.filter fun r => r.started).foldl (fun s r => if s.opBusy r.op then s else s.opDone r.op .xform none) s2
    .next (s.remOut.foldl (fun s o =>
      let s1 := if s.opBusy o.op then s else s.opDone o.op .remote none
      s1.modThread o.t fun th => { th with pend := th.pend.filter fun p => p.tag != o.tag }) s3)

/-- Memory whose image replaces the old one: bonded DRAM copied into the safe tier (R460). -/
def ckptCopy (m : Mem) : Mem :=
  (m.filter fun c => decide (c.1 < imgBase)) ++ ((m.filter fun c => decide (c.1 < dramTop)).map fun c => (imgBase + c.1, c.2)) ++
    m.filter fun c => decide (imgHead ≤ c.1)
/-- Memory whose bonded DRAM is the image's (R462). -/
def ckptBack (m : Mem) : Mem :=
  ((m.filter fun c => decide (imgBase ≤ c.1) && decide (c.1 < imgHead)).map fun c => (c.1 - imgBase, c.2)) ++ m.filter fun c => decide (dramTop ≤ c.1)

/-- What is left when every volatile part is reset: the capacity tier, host memory as the host has it, the firmware's flash and fuses, the device time, and
the model's own counters (R168, R329, R460). -/
def State.cold (s : State) : State :=
  { State.reset with
    mem := s.hostMem.foldl (fun m x => Mem.set m x.1 x.2) (s.mem.filter fun (c : Host.Cell) => decide (dramTop ≤ c.1))
    poison := s.poison.filter fun (k : Nat) => decide (dramTop / 64 ≤ k)
    fw := { s.fw with resetPend := false, ckptHalted := false, ckptCut := false, ckptCause := 0, droop := [], digest := [], key := [] }
    outs := s.outs, time := s.time, inputs := s.inputs, nextId := s.nextId, free := s.free }

/-- The image and its header are written (R460): magic, sequence, cause, DEVTIME, bytes, and VALID last; the magic is a free value. -/
def State.writeImage (s : State) (us : Nat) : State :=
  let seq := (bits (s.regN ckptSt) 31 8 + 1) % 2 ^ 24
  let f := s.freeN
  let put := fun (m : Mem) (k v : Nat) => Mem.writeN m (imgHead + 8 * k) v 8
  let m := put (put (put (put (put (put (ckptCopy s.mem) 0 (Config.freeDword f.1).toNat) 1 seq) 2 s.fw.ckptCause) 3 s.time) 4 dramTop) 5 1
  let bad := s.poison.filter fun k => decide (k < dramTop / 64)
  { f.2 with
    mem := m
    poison := (s.poison.filter fun k => decide (k < imgBase / 64) || decide (imgHead / 64 ≤ k)) ++ bad.map fun k => imgBase / 64 + k
    l2 := s.l2.map fun (l : Nat × L2Line) => (l.1, if paHost (512 * l.1) then l.2 else { l.2 with dirty := 0 }) }.setReg ckptSt (BitVec.ofNat 64 ((us % 2 ^ 32) <<< 32 + seq <<< 8 + 8))
/-- CHECKPOINT_COMPLETE can happen: nothing that started is left, or it has been cut. -/
def State.ckptDone (s : State) : Bool := s.ckptState == 1 && (s.fw.ckptCut || !s.ckptBusy)
/-- CHECKPOINT_COMPLETE (R460-R462): then the grids end, or their blocks resume; without power, or after a host reset, the device stops. -/
def execCheckpointComplete (us : Nat) (s : State) : Res :=
  if !s.ckptDone then notNow "CHECKPOINT_COMPLETE"
  else
    let s1 := s.writeImage us
    if !s.fw.power || s.fw.resetPend then .next s1.cold
    else if s.fw.ckptHalted then .next (s1.grids.foldl (fun s g =>
      s.modGrid g.id fun x => { x with status := if x.status == 0 then 1 else x.status, phase := if x.phase == .retiring then x.phase else .aborting }) s1)
    else .next (s1.blocks.foldl (fun s b =>
      if !b.why.contains .checkpoint then s
      else if b.why.any fun w => w == .roadblock || w == .debug || w == .dump then s.modBlock b.core b.slot fun b => { b with why := b.why.filter fun w => w != .checkpoint }
      else s.thaw b .checkpoint) s1)
/-- RESTORE_COMPLETE (R462). -/
def execRestoreComplete (s : State) : Res :=
  if s.ckptState != 2 then notNow "RESTORE_COMPLETE"
  else
    .next ({ s with
      mem := ckptBack s.mem
      poison := ((s.poison.filter fun k => decide (imgBase / 64 ≤ k) && decide (k < imgHead / 64)).map fun k => k - imgBase / 64) ++ s.poison.filter fun k => decide (dramTop / 64 ≤ k)
      l2 := s.l2.filter fun (l : Nat × L2Line) => decide (dramTop ≤ 512 * l.1) }.setReg ckptSt (setField (s.reg ckptSt) 2 0 0))

/-! ### Loss of power and host reset (R460, R462) -/

/-- MAIN_POWER_LOSS (R460, R462): a checkpoint that runs goes on as CMD 1; an armed device takes one; else the device stops. -/
def execMainPowerLoss (s : State) : Res :=
  let s1 := { s with fw := { s.fw with power := false } }
  if s.ckptState == 1 then .next { s1 with fw := { s1.fw with ckptHalted := true } }
  else if s.ckptState == 0 && bit (s.regN (devReg 0x500)) 8 then .next (s1.ckptStart true 1)
  else .next s1.cold
/-- HOST_RESET (R460, R462): a checkpoint is not stopped, and the device resets after it; else it resets now. -/
def execHostReset (s : State) : Res :=
  if s.ckptState == 1 then .next { s with fw := { s.fw with resetPend := true } } else .next s.cold

/-! ### Boot, recovery, attestation (R463, R464, R466) -/

/-- BOOTST. -/
def bootSt : Nat := devReg 0x700
/-- BOOTST.STAGE. -/
def State.stage (s : State) : Nat := s.regN bootSt % 16
/-- The boot ROM's checks (R463). -/
def State.imageOk (s : State) : Bool :=
  let d := sha3_512 s.fw.flash
  let k := Config.imageKey s.fw.flash
  Config.mldsaVerify k d (Config.imageSig s.fw.flash) && sha3_512 k == s.fw.keyDigest && decide (s.fw.minVersion ≤ Config.imageVersion s.fw.flash)
/-- BOOT (R463, R464, R466): one stage of the bring-up; the first, of a device that has main power again, verifies the firmware and derives the key;
the second reads the safe tier's header. The error code of a failure is a free value. -/
def execBoot (s : State) : Res :=
  match s.stage with
  | 0 =>
    if s.imageOk then
      let d := sha3_512 s.fw.flash
      .next ({ s with fw := { s.fw with power := true, digest := d, key := Config.deriveKey s.fw.secret d } }.setReg bootSt 1)
    else
      let f := s.freeN
      .next ({ f.2 with fw := { s.fw with power := true } }.setReg bootSt (BitVec.ofNat 64 (15 + (Config.freeByte f.1).toNat <<< 8)))
  | 1 =>
    let ok := Mem.readN s.mem (imgHead + 40) 8 != 0
    .next ((s.setReg bootSt 2).setReg ckptSt (if ok then BitVec.ofNat 64 (Mem.readN s.mem (imgHead + 8) 3 <<< 8 + 8) else 0))
  | 2 => .next (s.setReg bootSt 3)
  | _ => notNow "BOOT"
/-- RECOVERY_IMAGE_WRITE (R463, R466): in recovery, a new image, and the boot ROM starts again. -/
def execRecoveryImageWrite (img : List Byte) (s : State) : Res :=
  if s.stage != 15 then notNow "RECOVERY_IMAGE_WRITE" else .next ({ s with fw := { s.fw with flash := img } }.setReg bootSt 0)
/-- The measurement of an index (R464). -/
def State.measure (s : State) (index : Nat) : Option (List Byte) :=
  let regs := fun (o n : Nat) => (List.range n).flatMap fun k => leBytes (s.regN (devReg (o + 8 * k))) 8
  match index with
  | 1 => some (leBytes s.fw.romVersion 8)
  | 2 => some s.fw.digest
  | 3 => some (leBytes s.fw.minVersion 8)
  | 4 => some (regs 0x100 64 ++ regs 8 16 ++ regs 0x380 16 ++ regs 0x400 1)
  | _ => none
/-- SPDM_MEASUREMENT (R464): a report signed with the device identity key, once the firmware runs. -/
def execSpdmMeasurement (index : Nat) (s : State) : Res :=
  match s.measure index with
  | none => notNow "SPDM_MEASUREMENT"
  | some d =>
    if s.stage == 0 || s.stage == 15 then notNow "SPDM_MEASUREMENT"
    else .next { s with outs := s.outs ++ [.spdm index d (Config.mldsaSign s.fw.key (leBytes index 8 ++ d))] }

end Sys2Proof.Machine
end

