-- ==== Sys2Proof/Machine/DevRegs.lean ====
section
/-! DEFINITION. The registers of BAR0: what a write of each does, and what a read gives (R5, R6, R32-R36, R254-R258, R306, R311, R383, R396, R403,
R411-R416, R423-R427, R445-R466). -/
namespace Sys2Proof.Machine

/-- Registers of a window that lie in an array: base, stride, count, and the register within an entry. -/
def inArray (off base stride n : Nat) : Option (Nat × Nat) :=
  if base ≤ off && off < base + stride * n && off % 8 == 0 then some ((off - base) / stride, (off - base) % stride / 8) else none

/-- LOG2 fields that are writable while EN = 0, EN, and a W1C flag in bit 5: the control registers of R445 and R447. A set EN zeroes
NEXT and the head. -/
def State.logCtl (s : State) (r head lo hi keep : Nat) (v : Dword) : State :=
  let old := s.reg r
  let en := bit old.toNat 4
  let x := v.toNat
  let w1 := if bit x 5 then setField old 5 5 0 else old
  let w2 := if !en && decide (lo ≤ x % 16) && decide (x % 16 ≤ hi) then setField w1 3 0 (x % 16) else w1
  let w3 := setField (if keep == 0 then w2 else setField w2 31 16 (bits x 31 16)) 4 4 (bits x 4 4)
  if bit x 4 && !en then (s.setReg r (setField w3 63 32 0)).setReg head 0 else s.setReg r w3

/-- A debug register of number n, reached through a context's window (R411): per-core and per-slot ones by DBGSEL. A task slot of another
context ignores it. -/
def State.dbgWrite (s : State) (c n : Nat) (v : Dword) : State :=
  let sel := s.regN (ctxReg c 0xC18)
  let core := sel % 128
  if 0x200 ≤ n && n ≤ 0x217 then s.modCore core fun x => { x with dbg := SMap.putD x.dbg n (dbgReset n) (keepBits v (dbgMask n)) }
  else if n == 0x220 then s.setReg (ctxReg c 0x900) (keepBits v 3)
  else if n == 0x221 then s.setReg (ctxReg c 0x908) (keepBits v (causeMask - 2 ^ 0x11))
  else if n == 0x240 || n == 0x241 || (0x250 ≤ n && n ≤ 0x262) then
    match s.block? core (bits sel 10 8) with
    | some b => if b.ctx == c then s.sysWrite b n v v else s
    | none => s
  else s

/-- RB_CTL (R424). -/
def State.rbCtl (s : State) (c : Nat) (v : Dword) : State :=
  match v.toNat % 4 with
  | 1 => resOr (execResume c (bits v.toNat 63 32) s) s
  | 2 => resOr (execStep c s) s
  | 3 => resOr (execTrigger c s) s
  | _ => s

/-- A register that takes the bits of a mask, while a condition holds. -/
def State.regMask (s : State) (r m : Nat) (v : Dword) (ok : Bool) : State := if ok then s.setReg r (keepBits v m) else s

/-- A write of a launch queue's register (R32-R36). -/
def State.lqWrite (s : State) (c q k : Nat) (v : Dword) : State :=
  match k with
  | 0 => s.regMask (lqReg c q 0) 0xFFFFFFFFFFFFF000 v (!bit (s.lqCtl c q) 0)
  | 1 => let s1 := s.lqCtlWrite c q v.toNat; if bit v.toNat 2 then resOr (execLqReset c q s1) s1 else s1
  | 3 => resOr (execLqDoorbell c q v s) s
  | _ => s
/-- Registers that take effect only through the physical function's view, whichever context's window is written (R306, R414, R445, R449). -/
def State.pfWrite (s : State) (off : Nat) (v : Dword) : State :=
  if off == 0x2A8 then resOr (execAudheadWrite v s) s
  else if off == 0x2B0 then s.regMask 0x2B0 0x0000FFFFFFFFF000 v (!bit (s.regN 0x2B8) 4)
  else if off == 0x2B8 then s.logCtl 0x2B8 0x2A8 4 12 1 v
  else
    match inArray off 0x2000 32 16, inArray off 0x40000 16 8192 with
    | some (w, k), _ =>
      let en := bit (s.regN (cwReg w 0)) 0
      (match k with
        | 0 => if en then s.setReg (cwReg w 0) (setField (s.reg (cwReg w 0)) 0 0 (v.toNat % 2)) else s.setReg (cwReg w 0) (keepBits v 0x0000FFFFFFE00001)
        | 1 => s.regMask (cwReg w 1) 0xFFFFFFFF v (!en)
        | 2 => s.regMask (cwReg w 2) 0x0000FFFFFFFFFFC0 v (!en)
        | _ => s)
    | none, some (j, k) => if k == 0 then s.setReg (swReg (j / 32) (j % 32) 0) (keepBits v 0x0000FFFFFFFFFFF0) else s.setReg (swReg (j / 32) (j % 32) 1) (keepBits v 0xFFFF0000FFFF003D)
    | none, none => s

/-- A write of offset off of a context's window, by the physical function or the context's own (R449). -/
def State.ctxWrite (s : State) (pf : Bool) (c off : Nat) (v : Dword) : State :=
  let r := ctxReg c off
  let x := v.toNat
  let fbEn := bit (s.regN (ctxReg c 0x218)) 0
  match off with
  | 0x200 => s.setReg r (keepBits v 0x0000FFFFFFFFF001)
  | 0x208 => s.regMask r 0x0000FFFFFFFFF000 v (!fbEn)
  | 0x210 => s.regMask r 0xF v (!fbEn && decide (3 ≤ x % 16) && decide (x % 16 ≤ 10))
  | 0x218 => resOr (execFbEnable c v s) s
  | 0x220 => resOr (execFbheadWrite c v s) s
  | 0x230 => resOr (execReplayAll c v s) s
  | 0x238 => resOr (execFbcancel c v s) s
  | 0x240 => s.setReg r (keepBits v 0x000FFFFFFFFFFFFF)
  | 0x248 => if x % 4 == 0 then resOr (execTlbInvalidateRange c s) s else if x % 4 == 1 then resOr (execTlbInvalidateContext c s) s else s
  | 0x260 => s.setReg r (if pf then keepBits v 0x000FFFFFFFFFFFFB else setField (keepBits v 0x000FFFFFFFFFFFF9) 1 1 (bits (s.regN r) 1 1))
  | 0x268 => s.setReg r (keepBits v causeMask)
  | 0x270 => s.regMask r 0x000FFFFFFFFFF000 v (s.regN (ctxReg c 0x278) % 65536 == 0)
  | 0x278 => s.setReg r (BitVec.ofNat 64 (bits x 31 16 <<< 16 + if (s.slotsUsed c).isEmpty then x % 65536 else s.regN r % 65536))
  | 0x280 => s.setReg r (s.reg r &&& ~~~(keepBits v 3))
  | 0x288 => resOr (execFspill c v s) s
  | 0x290 => s.regMask r 0x000FFFFFFFFFF000 v (!bit (s.regN (ctxReg c 0x298)) 4)
  | 0x298 => s.logCtl r (ctxReg c 0x2A0) 0 12 0 v
  | 0x2A0 => resOr (execProfheadWrite c v s) s
  | 0x2C0 => s.regMask r 0x03FF03FF00FFFFFF v (decide (bits x 41 32 ≤ bits x 57 48) && !s.grids.any fun g => g.ctx == c && g.jobid != 0)
  | 0xC00 => s.rbCtl c v
  | 0xC08 => s.setReg r (keepBits v 0xFFFFFE00)
  | 0xC18 => s.setReg r (keepBits v 0x77F)
  | 0xC20 => s.setReg r (keepBits v 0xFFFFFFFFFFFFF000)
  | 0xC28 =>
    let old := s.reg r
    let w := setField (if bit x 31 then setField old 31 31 0 else old) 23 8 (bits x 23 8)
    s.setReg r (if x % 16 == 15 then w else setField w 3 0 (x % 16))
  | _ =>
    match inArray off 0x300 32 8, inArray off 0x1000 32 64, inArray off 0x800 8 0x63, inArray off 0x3000 8 1024 with
    | some (k, j), _, _, _ =>
      if j == 0 then s.regMask r 0xFFFFFFFFFFFFF000 v (!bit (s.regN (xrReg c k 1)) 0) else if j == 1 then resOr (execXrEnable c k v s) s else s
    | none, some (q, j), _, _ => s.lqWrite c q j v
    | none, none, some (n, _), _ => s.dbgWrite c (0x200 + n) v
    | none, none, none, some _ => s.setReg r (keepBits v 0x8F)
    | none, none, none, none => s

/-- A write of CKPTCTL (R462): ARM is kept, the command is taken. -/
def State.ckptCtl (s : State) (v : Dword) : State :=
  let s1 := s.setReg (devReg 0x500) (keepBits v 0x100)
  match v.toNat % 8 with
  | 1 => resOr (execCkptHalt s1) s1
  | 2 => resOr (execCkptContinue s1) s1
  | 3 => resOr (execCkptRestore s1) s1
  | 4 => resOr (execCkptDiscard s1) s1
  | _ => s1
/-- A write of the device-wide area (R448-R465). -/
def State.devWrite (s : State) (off : Nat) (v : Dword) : State :=
  let r := devReg off
  match off with
  | 0x400 => resOr (execClkctlWrite v s) s
  | 0x408 => s.setReg r (s.reg r &&& ~~~(keepBits v 2))
  | 0x410 => s.setReg r (BitVec.ofNat 64 (min (v.toNat % 4096) 2400))
  | 0x500 => s.ckptCtl v
  | _ =>
    match inArray off 8 8 16, inArray off 0x100 8 64, inArray off 0x380 8 16, inArray off 0x600 8 8 with
    | some (f, _), _, _, _ => resOr (execVfpartWrite (f + 1) v s) s
    | none, some (c, _), _, _ =>
      if v.toNat % 32 ≤ 16 && !(List.range 64).any (fun q => bit (s.lqCtl c q) 0) && !s.grids.any fun g => g.ctx == c then s.setReg r (keepBits v 0x1F) else s
    | none, none, some _, _ => s.setReg r (keepBits v 0x00000FFF00000FFF)
    | none, none, none, some (i, _) => resOr (execSerrcntClear i s) s
    | none, none, none, none => s

/-- REGISTER_WRITE (R6, R448, R449): a 64-bit write of BAR0 by a function; 0 is the physical one. BAR0 answers once the bring-up is complete
(R463, R466). A write of a register that has a step of its own takes that step. -/
def execRegisterWrite (fn off : Nat) (v : BitVec 64) (s : State) : Res :=
  let c := off / 0x100000
  let o := off % 0x100000
  if s.stage != 3 || 16 < fn || off % 8 != 0 then .next s
  else if devReg 0 ≤ off then .next (if fn == 0 then s.devWrite (off - devReg 0) v else s)
  else if fn == 0 && (o == 0x2A8 || o == 0x2B0 || o == 0x2B8 || (inArray o 0x2000 32 16).isSome || (inArray o 0x40000 16 8192).isSome) then .next (s.pfWrite o v)
  else if s.owner c == fn then .next (s.ctxWrite (fn == 0) c o v)
  else if fn == 0 && o == 0x260 then .next (s.setReg (ctxReg c 0x260) (setField (s.reg (ctxReg c 0x260)) 1 1 (bits v.toNat 1 1)))
  else .next s

/-! ### Reads -/

/-- Eight entries of the slice latency table at offset 256 × core + slice (R238). -/
def latencyEntry (o : Nat) : Dword :=
  let c := quarterOf (o / 256)
  let n := o % 256 / 64
  BitVec.ofNat 64 (0x0101010101010101 * (if c == n then 48 else if c + n == 3 then 120 else 84))
/-- What a read of offset off of a context's window gives its owner (R6, R34, R403, R411). -/
def State.ctxRead (s : State) (c off : Nat) : Dword :=
  let sel := s.regN (ctxReg c 0xC18)
  match off with
  | 0x230 => 0
  | 0x238 => 0
  | 0x278 =>
    let v := s.regN (ctxReg c 0x278)
    BitVec.ofNat 64 ((v % 65536 - (s.slotsUsed c).length) <<< 32 + v)
  | 0x288 => s.reg (ctxReg c 0x288) &&& 1
  | 0xC00 => 0
  | _ =>
    if 0x10000 ≤ off && off < 0x18000 then latencyEntry (off - 0x10000) else
    match inArray off 0x1000 32 64, inArray off 0x800 8 0x63 with
    | some (q, k), _ => if k == 2 then (s.lq c q).head.setWidth 64 else if k == 3 then 0 else s.reg (lqReg c q k)
    | none, some (n, _) =>
      if n ≤ 0x17 then SMap.get (s.core (sel % 128)).dbg (0x200 + n) (dbgReset (0x200 + n))
      else if 0x40 ≤ n then (match s.block? (sel % 128) (bits sel 10 8) with | some b => if b.ctx == c then s.sysRead b (0x200 + n) else 0 | none => 0)
      else s.reg (ctxReg c off)
    | none, none => s.reg (ctxReg c off)
/-- What a 64-bit read of BAR0 gives a function (R448-R466): before the bring-up is complete only BOOTST answers. -/
def State.barRead (s : State) (fn off : Nat) : Dword :=
  let c := off / 0x100000
  let o := off % 0x100000
  if off == bootSt && fn == 0 then s.reg bootSt
  else if s.stage != 3 || 16 < fn || off % 8 != 0 then 0
  else if devReg 0 ≤ off then
    if fn != 0 then 0
    else
      match off - devReg 0 with
      | 0x418 => BitVec.ofNat 64 s.time
      | 0x500 => 0
      | d =>
        match inArray d 8 8 16 with
        | some (f, _) => BitVec.ofNat 64 (s.vfWants (f + 1) + (s.regN off / 2 ^ 32) <<< 32)
        | none => if d < 0x1000 then s.reg off else 0
  else if fn == 0 && (o == 0x2A8 || o == 0x2B0 || o == 0x2B8 || (inArray o 0x2000 32 16).isSome || (inArray o 0x40000 16 8192).isSome) then s.reg o
  else if s.owner c == fn && off < 0x4000000 then s.ctxRead c o
  else 0

end Sys2Proof.Machine
end

