-- ==== Sys2Proof/Machine/Dispatch.lean ====
section
/-! DEFINITION. One arm per instruction: a direct call of its meaning. -/
namespace Sys2Proof.Machine

/-- What an instruction or event does to the machine. -/
def exec (i : Instr) (s : State) : Host.Outcome State Fault Refusal :=
  match i with
  | .iadd h d a b sat => Sys2Proof.Machine.execIadd h d a b sat s
  | .iaddi h d a imm => Sys2Proof.Machine.execIaddi h d a imm s
  | .isub h d a b sat => Sys2Proof.Machine.execIsub h d a b sat s
  | .imul h d a b => Sys2Proof.Machine.execImul h d a b s
  | .imuli h d a imm => Sys2Proof.Machine.execImuli h d a imm s
  | .imulh h d a b u => Sys2Proof.Machine.execImulh h d a b u s
  | .imad h d a b c => Sys2Proof.Machine.execImad h d a b c s
  | .imadw h d a b c u => Sys2Proof.Machine.execImadw h d a b c u s
  | .imin h d a b u => Sys2Proof.Machine.execImin h d a b u s
  | .imax h d a b u => Sys2Proof.Machine.execImax h d a b u s
  | .iabs h d a sat => Sys2Proof.Machine.execIabs h d a sat s
  | .ineg h d a sat => Sys2Proof.Machine.execIneg h d a sat s
  | .tlog h d a b c tt => Sys2Proof.Machine.execTlog h d a b c tt s
  | .tlogi h d a imm tt => Sys2Proof.Machine.execTlogi h d a imm tt s
  | .shl h d a b => Sys2Proof.Machine.execShl h d a b s
  | .shli h d a amt => Sys2Proof.Machine.execShli h d a amt s
  | .shr h d a b => Sys2Proof.Machine.execShr h d a b s
  | .shri h d a amt => Sys2Proof.Machine.execShri h d a amt s
  | .sar h d a b => Sys2Proof.Machine.execSar h d a b s
  | .sari h d a amt => Sys2Proof.Machine.execSari h d a amt s
  | .fshf h d a b c r => Sys2Proof.Machine.execFshf h d a b c r s
  | .popc h d a => Sys2Proof.Machine.execPopc h d a s
  | .clz h d a => Sys2Proof.Machine.execClz h d a s
  | .brev h d a => Sys2Proof.Machine.execBrev h d a s
  | .bfx h d a b sx => Sys2Proof.Machine.execBfx h d a b sx s
  | .bfi h d a b c => Sys2Proof.Machine.execBfi h d a b c s
  | .isetp h p a b pc cond u bop => Sys2Proof.Machine.execIsetp h p a b pc cond u bop s
  | .isetpi h p a imm cond u => Sys2Proof.Machine.execIsetpi h p a imm cond u s
  | .iadd64 h d a b => Sys2Proof.Machine.execIadd64 h d a b s
  | .lea64 h d a b sx sh => Sys2Proof.Machine.execLea64 h d a b sx sh s
  | .iclamp h d a b c u => Sys2Proof.Machine.execIclamp h d a b c u s
  | .idot4 h d a b c ua ub sat => Sys2Proof.Machine.execIdot4 h d a b c ua ub sat s
  | .fadd h d a b rm nb => Sys2Proof.Machine.execFadd h d a b rm nb s
  | .faddi h d a imm => Sys2Proof.Machine.execFaddi h d a imm s
  | .fmul h d a b rm => Sys2Proof.Machine.execFmul h d a b rm s
  | .fmuli h d a imm => Sys2Proof.Machine.execFmuli h d a imm s
  | .ffma h d a b c rm np nc => Sys2Proof.Machine.execFfma h d a b c rm np nc s
  | .fmin h d a b => Sys2Proof.Machine.execFmin h d a b s
  | .fmax h d a b => Sys2Proof.Machine.execFmax h d a b s
  | .fsetp h p a b pc cond u bop => Sys2Proof.Machine.execFsetp h p a b pc cond u bop s
  | .frcp h d a => Sys2Proof.Machine.execFrcp h d a s
  | .frsq h d a => Sys2Proof.Machine.execFrsq h d a s
  | .fex2 h d a => Sys2Proof.Machine.execFex2 h d a s
  | .flg2 h d a => Sys2Proof.Machine.execFlg2 h d a s
  | .fsin h d a => Sys2Proof.Machine.execFsin h d a s
  | .fcos h d a => Sys2Proof.Machine.execFcos h d a s
  | .frnd h d a rm => Sys2Proof.Machine.execFrnd h d a rm s
  | .fclass h d a => Sys2Proof.Machine.execFclass h d a s
  | .hadd2 h d a b rm bf => Sys2Proof.Machine.execHadd2 h d a b rm bf s
  | .hmul2 h d a b rm bf => Sys2Proof.Machine.execHmul2 h d a b rm bf s
  | .hfma2 h d a b c rm bf => Sys2Proof.Machine.execHfma2 h d a b c rm bf s
  | .hsetp2 h p a b pc cond u bop bf any => Sys2Proof.Machine.execHsetp2 h p a b pc cond u bop bf any s
  | .cvtif h d a rm src dst => Sys2Proof.Machine.execCvtif h d a rm src dst s
  | .cvtfi h d a rm src dst => Sys2Proof.Machine.execCvtfi h d a rm src dst s
  | .cvtff h d a rm src dst => Sys2Proof.Machine.execCvtff h d a rm src dst s
  | .cvtt h d a k tf6 dec => Sys2Proof.Machine.execCvtt h d a k tf6 dec s
  | .fscale h d a b rm => Sys2Proof.Machine.execFscale h d a b rm s
  | .mov h d a => Sys2Proof.Machine.execMov h d a s
  | .movi h d imm => Sys2Proof.Machine.execMovi h d imm s
  | .sel h d a b pc => Sys2Proof.Machine.execSel h d a b pc s
  | .s2v h d sel => Sys2Proof.Machine.execS2v h d sel s
  | .lxch h d a b c mode wl => Sys2Proof.Machine.execLxch h d a b c mode wl s
  | .pjoin h p pa b mode => Sys2Proof.Machine.execPjoin h p pa b mode s
  | .pmask h d pa b => Sys2Proof.Machine.execPmask h d pa b s
  | .leqm h d a b => Sys2Proof.Machine.execLeqm h d a b s
  | .wscan h d a b op excl ty => Sys2Proof.Machine.execWscan h d a b op excl ty s
  | .wred h d a b op ty => Sys2Proof.Machine.execWred h d a b op ty s
  | .plop h p pa pb pc tt => Sys2Proof.Machine.execPlop h p pa pb pc tt s
  | .p2v h d => Sys2Proof.Machine.execP2v h d s
  | .v2p h a m => Sys2Proof.Machine.execV2p h a m s
  | .wsync h a => Sys2Proof.Machine.execWsync h a s
  | .ld h d a f m => Sys2Proof.Machine.execLd h d a f m s
  | .st h a b f m => Sys2Proof.Machine.execSt h a b f m s
  | .lds h d a f m => Sys2Proof.Machine.execLds h d a f m s
  | .sts h a b f m => Sys2Proof.Machine.execSts h a b f m s
  | .atom h d a b m => Sys2Proof.Machine.execAtom h d a b m s
  | .atoms h d a b m => Sys2Proof.Machine.execAtoms h d a b m s
  | .red h a b m => Sys2Proof.Machine.execRed h a b m s
  | .acas h d a b m => Sys2Proof.Machine.execAcas h d a b m s
  | .rld h d a f m => Sys2Proof.Machine.execRld h d a f m s
  | .rst h a b f m => Sys2Proof.Machine.execRst h a b f m s
  | .ratom h d a b m => Sys2Proof.Machine.execRatom h d a b m s
  | .spop h d sx sz ring => Sys2Proof.Machine.execSpop h d sx sz ring s
  | .pref h a l1 off => Sys2Proof.Machine.execPref h a l1 off s
  | .cctl h a op cls off => Sys2Proof.Machine.execCctl h a op cls off s
  | .xkick h d a cls rel ring => Sys2Proof.Machine.execXkick h d a cls rel ring s
  | .binit h a b scope => Sys2Proof.Machine.execBinit h a b scope s
  | .barv h d a w => Sys2Proof.Machine.execBarv h d a w s
  | .btx h a b => Sys2Proof.Machine.execBtx h a b s
  | .bwait h a b => Sys2Proof.Machine.execBwait h a b s
  | .btest h d a b => Sys2Proof.Machine.execBtest h d a b s
  | .dbar h level id => Sys2Proof.Machine.execDbar h level id s
  | .fence h scope mask => Sys2Proof.Machine.execFence h scope mask s
  | .waitc h eng n => Sys2Proof.Machine.execWaitc h eng n s
  | .poll h d a b m => Sys2Proof.Machine.execPoll h d a b m s
  | .gate h a mask => Sys2Proof.Machine.execGate h a mask s
  | .qmap h d a prod b => Sys2Proof.Machine.execQmap h d a prod b s
  | .qpush h d a cls rel b => Sys2Proof.Machine.execQpush h d a cls rel b s
  | .qclose h d b => Sys2Proof.Machine.execQclose h d b s
  | .role h r => Sys2Proof.Machine.execRole h r s
  | .trnew h d a b decl => Sys2Proof.Machine.execTrnew h d a b decl s
  | .trres h d a b => Sys2Proof.Machine.execTrres h d a b s
  | .trst h a b c off sz => Sys2Proof.Machine.execTrst h a b c off sz s
  | .trcommit h d a b c => Sys2Proof.Machine.execTrcommit h d a b c s
  | .trlen h d a => Sys2Proof.Machine.execTrlen h d a s
  | .trwait h d a b => Sys2Proof.Machine.execTrwait h d a b s
  | .trfork h d a b decl => Sys2Proof.Machine.execTrfork h d a b decl s
  | .trrel h d a => Sys2Proof.Machine.execTrrel h d a s
  | .launch h d a q => Sys2Proof.Machine.execLaunch h d a q s
  | .mile h a sz id => Sys2Proof.Machine.execMile h a sz id s
  | .bra h off => Sys2Proof.Machine.execBra h off s
  | .brx h a => Sys2Proof.Machine.execBrx h a s
  | .call h off => Sys2Proof.Machine.execCall h off s
  | .callx h a => Sys2Proof.Machine.execCallx h a s
  | .ret h a => Sys2Proof.Machine.execRet h a s
  | .exit h => Sys2Proof.Machine.execExit h s
  | .snooze h n => Sys2Proof.Machine.execSnooze h n s
  | .nop h => Sys2Proof.Machine.execNop h s
  | .trap h code => Sys2Proof.Machine.execTrap h code s
  | .bkpt h code => Sys2Proof.Machine.execBkpt h code s
  | .sysr h d hi num => Sys2Proof.Machine.execSysr h d hi num s
  | .sysw h a hi num => Sys2Proof.Machine.execSysw h a hi num s
  | .eret h => Sys2Proof.Machine.execEret h s
  | .crcw h d a b sz => Sys2Proof.Machine.execCrcw h d a b sz s
  | .reservedOpcode w => Sys2Proof.Machine.execReservedOpcode w s
  | .extEmulate w => Sys2Proof.Machine.execExtEmulate w s
  | .snoozeExpire t => Sys2Proof.Machine.execSnoozeExpire t s
  | .queueTake t => Sys2Proof.Machine.execQueueTake t s
  | .pollRetry t => Sys2Proof.Machine.execPollRetry t s
  | .spopPerform core slot ring => Sys2Proof.Machine.execSpopPerform core slot ring s
  | .longResultWrite t => Sys2Proof.Machine.execLongResultWrite t s
  | .snop => Sys2Proof.Machine.execSnop s
  | .sadd g d a b => Sys2Proof.Machine.execSadd g d a b s
  | .saddi g d a imm => Sys2Proof.Machine.execSaddi g d a imm s
  | .ssub g d a b => Sys2Proof.Machine.execSsub g d a b s
  | .smul g d a b => Sys2Proof.Machine.execSmul g d a b s
  | .sand g d a b => Sys2Proof.Machine.execSand g d a b s
  | .sor g d a b => Sys2Proof.Machine.execSor g d a b s
  | .sxor g d a b => Sys2Proof.Machine.execSxor g d a b s
  | .sshl g d a b => Sys2Proof.Machine.execSshl g d a b s
  | .sshr g d a b => Sys2Proof.Machine.execSshr g d a b s
  | .ssar g d a b => Sys2Proof.Machine.execSsar g d a b s
  | .smov g d a => Sys2Proof.Machine.execSmov g d a s
  | .smovi g d imm => Sys2Proof.Machine.execSmovi g d imm s
  | .smoviLong g d imm => Sys2Proof.Machine.execSmoviLong g d imm s
  | .scmp g d a b cond => Sys2Proof.Machine.execScmp g d a b cond s
  | .ssel g d a b c => Sys2Proof.Machine.execSsel g d a b c s
  | .sld g d a off => Sys2Proof.Machine.execSld g d a off s
  | .sst g d a off => Sys2Proof.Machine.execSst g d a off s
  | .sbr g a off => Sys2Proof.Machine.execSbr g a off s
  | .sjmp g off => Sys2Proof.Machine.execSjmp g off s
  | .scall g d off => Sys2Proof.Machine.execScall g d off s
  | .sret g a => Sys2Proof.Machine.execSret g a s
  | .loop g lc a stages => Sys2Proof.Machine.execLoop g lc a stages s
  | .lbr g lc off => Sys2Proof.Machine.execLbr g lc off s
  | .pcfg g pt a off => Sys2Proof.Machine.execPcfg g pt a off s
  | .fmtw g e a => Sys2Proof.Machine.execFmtw g e a s
  | .fmtwSel g lc => Sys2Proof.Machine.execFmtwSel g lc s
  | .waite g eng n => Sys2Proof.Machine.execWaite g eng n s
  | .sfence g scope mask => Sys2Proof.Machine.execSfence g scope mask s
  | .sysrd g d num => Sys2Proof.Machine.execSysrd g d num s
  | .trapt g code => Sys2Proof.Machine.execTrapt g code s
  | .rgate g mask => Sys2Proof.Machine.execRgate g mask s
  | .mnop => Sys2Proof.Machine.execMnop s
  | .mnest g lvl e a b c => Sys2Proof.Machine.execMnest g lvl e a b c s
  | .msrc g a b fa fb md => Sys2Proof.Machine.execMsrc g a b fa fb md s
  | .macc g row z => Sys2Proof.Machine.execMacc g row z s
  | .mgo g rel => Sys2Proof.Machine.execMgo g rel s
  | .mret g loc fmt rel => Sys2Proof.Machine.execMret g loc fmt rel s
  | .vnop => Sys2Proof.Machine.execVnop s
  | .vmov g d a => Sys2Proof.Machine.execVmov g d a s
  | .vadd g d a b f => Sys2Proof.Machine.execVadd g d a b f s
  | .vsub g d a b f => Sys2Proof.Machine.execVsub g d a b f s
  | .vmul g d a b f => Sys2Proof.Machine.execVmul g d a b f s
  | .vfma g d a b c f => Sys2Proof.Machine.execVfma g d a b c f s
  | .vmax g d a b f => Sys2Proof.Machine.execVmax g d a b f s
  | .vmin g d a b f => Sys2Proof.Machine.execVmin g d a b f s
  | .vexpd g d a b f => Sys2Proof.Machine.execVexpd g d a b f s
  | .vrcp g d a f => Sys2Proof.Machine.execVrcp g d a f s
  | .vcvt g d a fd fs rm => Sys2Proof.Machine.execVcvt g d a fd fs rm s
  | .vred g d a op f => Sys2Proof.Machine.execVred g d a op f s
  | .vscan g d a op excl f => Sys2Proof.Machine.execVscan g d a op excl f s
  | .vcmp g d a b cond f => Sys2Proof.Machine.execVcmp g d a b cond f s
  | .vmsk g d a k f => Sys2Proof.Machine.execVmsk g d a k f s
  | .vsel g d a b c f => Sys2Proof.Machine.execVsel g d a b c f s
  | .vtopk g d a k nv f => Sys2Proof.Machine.execVtopk g d a k nv f s
  | .vldix g ix a f => Sys2Proof.Machine.execVldix g ix a f s
  | .vsacc g d a b f => Sys2Proof.Machine.execVsacc g d a b f s
  | .tnop => Sys2Proof.Machine.execTnop s
  | .trn g d k => Sys2Proof.Machine.execTrn g d k s
  | .trnc g d k f => Sys2Proof.Machine.execTrnc g d k f s
  | .cnop => Sys2Proof.Machine.execCnop s
  | .cld g c m => Sys2Proof.Machine.execCld g c m s
  | .cst g c m => Sys2Proof.Machine.execCst g c m s
  | .cgat g c ix first nm1 bar => Sys2Proof.Machine.execCgat g c ix first nm1 bar s
  | .cpre g c m => Sys2Proof.Machine.execCpre g c m s
  | .cmc g c m => Sys2Proof.Machine.execCmc g c m s
  | .csum g c m => Sys2Proof.Machine.execCsum g c m s
  | .cring g ring sc => Sys2Proof.Machine.execCring g ring sc s
  | .xnop => Sys2Proof.Machine.execXnop s
  | .xs2t g w k => Sys2Proof.Machine.execXs2t g w k s
  | .xt2s g k w => Sys2Proof.Machine.execXt2s g k w s
  | .bundleDecodeTrap b => Sys2Proof.Machine.execBundleDecodeTrap b s
  | .tileResultLand core slot => Sys2Proof.Machine.execTileResultLand core slot s
  | .portVectorArrive core slot port => Sys2Proof.Machine.execPortVectorArrive core slot port s
  | .tileStallFreeze core slot => Sys2Proof.Machine.execTileStallFreeze core slot s
  | .passStart quad => Sys2Proof.Machine.execPassStart quad s
  | .passRetire quad => Sys2Proof.Machine.execPassRetire quad s
  | .mretPerform core slot => Sys2Proof.Machine.execMretPerform core slot s
  | .copyCmdStart core => Sys2Proof.Machine.execCopyCmdStart core s
  | .ringReserve core slot ring => Sys2Proof.Machine.execRingReserve core slot ring s
  | .ringArrive core slot ring => Sys2Proof.Machine.execRingArrive core slot ring s
  | .chunkCounted core id => Sys2Proof.Machine.execChunkCounted core id s
  | .copyCmdComplete core id => Sys2Proof.Machine.execCopyCmdComplete core id s
  | .xformRequestStart ctx ring => Sys2Proof.Machine.execXformRequestStart ctx ring s
  | .xformComplete ctx ring => Sys2Proof.Machine.execXformComplete ctx ring s
  | .remotePerform n => Sys2Proof.Machine.execRemotePerform n s
  | .remoteReply tag cause data => Sys2Proof.Machine.execRemoteReply tag cause data s
  | .pageWalk quarter ctx va => Sys2Proof.Machine.execPageWalk quarter ctx va s
  | .faultReport ctx => Sys2Proof.Machine.execFaultReport ctx s
  | .l2Evict line => Sys2Proof.Machine.execL2Evict line s
  | .impreciseDelivery t => Sys2Proof.Machine.execImpreciseDelivery t s
  | .convergenceStall core slot => Sys2Proof.Machine.execConvergenceStall core slot s
  | .lqDoorbell ctx q v => Sys2Proof.Machine.execLqDoorbell ctx q v s
  | .lqEnable ctx q v => Sys2Proof.Machine.execLqEnable ctx q v s
  | .lqReset ctx q => Sys2Proof.Machine.execLqReset ctx q s
  | .lqResetComplete ctx q => Sys2Proof.Machine.execLqResetComplete ctx q s
  | .launchRecordRead ctx q => Sys2Proof.Machine.execLaunchRecordRead ctx q s
  | .opLaunch ctx q => Sys2Proof.Machine.execOpLaunch ctx q s
  | .opRegister ctx q => Sys2Proof.Machine.execOpRegister ctx q s
  | .opUnregister ctx q => Sys2Proof.Machine.execOpUnregister ctx q s
  | .opMarker ctx q => Sys2Proof.Machine.execOpMarker ctx q s
  | .admissionRetry ctx q => Sys2Proof.Machine.execAdmissionRetry ctx q s
  | .stagingClaimReady grid => Sys2Proof.Machine.execStagingClaimReady grid s
  | .placeBlock grid => Sys2Proof.Machine.execPlaceBlock grid s
  | .rowSpill core => Sys2Proof.Machine.execRowSpill core s
  | .milestoneCommit core slot => Sys2Proof.Machine.execMilestoneCommit core slot s
  | .parkBlock core slot => Sys2Proof.Machine.execParkBlock core slot s
  | .sliceEnd core slot => Sys2Proof.Machine.execSliceEnd core slot s
  | .preempt core slot => Sys2Proof.Machine.execPreempt core slot s
  | .restoreBlock grid blk => Sys2Proof.Machine.execRestoreBlock grid blk s
  | .blockEnd core slot => Sys2Proof.Machine.execBlockEnd core slot s
  | .gridRetire grid => Sys2Proof.Machine.execGridRetire grid s
  | .gridAbort grid => Sys2Proof.Machine.execGridAbort grid s
  | .dbarFabricArrival job jtag id dev => Sys2Proof.Machine.execDbarFabricArrival job jtag id dev s
  | .fbheadWrite ctx v => Sys2Proof.Machine.execFbheadWrite ctx v s
  | .fbEnable ctx v => Sys2Proof.Machine.execFbEnable ctx v s
  | .replayAll ctx v => Sys2Proof.Machine.execReplayAll ctx v s
  | .fbcancel ctx v => Sys2Proof.Machine.execFbcancel ctx v s
  | .tlbInvalidateRange ctx => Sys2Proof.Machine.execTlbInvalidateRange ctx s
  | .tlbInvalidateContext ctx => Sys2Proof.Machine.execTlbInvalidateContext ctx s
  | .tlbInvalidateDone ctx => Sys2Proof.Machine.execTlbInvalidateDone ctx s
  | .xrEnable ctx ring v => Sys2Proof.Machine.execXrEnable ctx ring v s
  | .fspill ctx v => Sys2Proof.Machine.execFspill ctx v s
  | .sliceWatchLatch => Sys2Proof.Machine.execSliceWatchLatch s
  | .roadblockFlit link wave job origin cause aux addr => Sys2Proof.Machine.execRoadblockFlit link wave job origin cause aux addr s
  | .heldFlit link f => Sys2Proof.Machine.execHeldFlit link f s
  | .resume ctx wave => Sys2Proof.Machine.execResume ctx wave s
  | .resumeFlit link wave job => Sys2Proof.Machine.execResumeFlit link wave job s
  | .step ctx => Sys2Proof.Machine.execStep ctx s
  | .trigger ctx => Sys2Proof.Machine.execTrigger ctx s
  | .traceSample core => Sys2Proof.Machine.execTraceSample core s
  | .dumpRequest ctx => Sys2Proof.Machine.execDumpRequest ctx s
  | .audheadWrite v => Sys2Proof.Machine.execAudheadWrite v s
  | .profheadWrite ctx v => Sys2Proof.Machine.execProfheadWrite ctx v s
  | .hostBarAccess fn write addr data => Sys2Proof.Machine.execHostBarAccess fn write addr data s
  | .vfpartWrite f v => Sys2Proof.Machine.execVfpartWrite f v s
  | .vfpartMoveDone f => Sys2Proof.Machine.execVfpartMoveDone f s
  | .atsInvalidate pa len => Sys2Proof.Machine.execAtsInvalidate pa len s
  | .atsInvalidateComplete => Sys2Proof.Machine.execAtsInvalidateComplete s
  | .linkDown l => Sys2Proof.Machine.execLinkDown l s
  | .linkTrained l lat degraded => Sys2Proof.Machine.execLinkTrained l lat degraded s
  | .flitReceive l f crcOk => Sys2Proof.Machine.execFlitReceive l f crcOk s
  | .supplyDroop domain => Sys2Proof.Machine.execSupplyDroop domain s
  | .clkctlWrite v => Sys2Proof.Machine.execClkctlWrite v s
  | .clockChange => Sys2Proof.Machine.execClockChange s
  | .lockLost => Sys2Proof.Machine.execLockLost s
  | .ckptHalt => Sys2Proof.Machine.execCkptHalt s
  | .ckptContinue => Sys2Proof.Machine.execCkptContinue s
  | .ckptRestore => Sys2Proof.Machine.execCkptRestore s
  | .ckptDiscard => Sys2Proof.Machine.execCkptDiscard s
  | .checkpointCut => Sys2Proof.Machine.execCheckpointCut s
  | .checkpointComplete us => Sys2Proof.Machine.execCheckpointComplete us s
  | .mainPowerLoss => Sys2Proof.Machine.execMainPowerLoss s
  | .hostReset => Sys2Proof.Machine.execHostReset s
  | .boot => Sys2Proof.Machine.execBoot s
  | .recoveryImageWrite img => Sys2Proof.Machine.execRecoveryImageWrite img s
  | .spdmMeasurement index => Sys2Proof.Machine.execSpdmMeasurement index s
  | .softError level corrected pa => Sys2Proof.Machine.execSoftError level corrected pa s
  | .serrcntClear k => Sys2Proof.Machine.execSerrcntClear k s
  | .registerWrite fn off v => Sys2Proof.Machine.execRegisterWrite fn off v s
  | .droopPassed domain => Sys2Proof.Machine.execDroopPassed domain s
  | .powerLimit => Sys2Proof.Machine.execPowerLimit s
  | .restoreComplete => Sys2Proof.Machine.execRestoreComplete s

end Sys2Proof.Machine
end

