-- ==== Sys2Proof/Machine/Fetch.lean ====
section
/-! DEFINITION. Fetch and issue: the picker's convoys (R116-R119), the tile sequencer and its bundles (R95, R96, R111, R112, R122-R129, R183, R188,
R416, R427), what each clk counts (R71, R118, R179, R191, R395, R426), single steps (R423), and what the machine can do next on its own. -/
namespace Sys2Proof.Machine

/-! ### Fetch (R76, R247, R251) -/

/-- The outcome of a fetch. -/
inductive Fet
  | word (w : Nat)
  | pf (reason level : Nat)
  | bad (code : Nat)

/-- Fetch n bytes of code at a PC for a core (R76, R247): a PC that is not aligned, which only an edited frame can give, faults (R408). -/
def State.fetch (s : State) (core ctx : Nat) (pc : Dword) (n : Nat) (k : Acc) : State × Fet :=
  if pc.toNat % n != 0 then (s, .bad cMisaligned)
  else
  match s.translate (.core core) ctx pc.toNat k with
  | (s1, .pf r l) => (s1, .pf r l)
  | (s1, .prot) => (s1, .bad cProtection)
  | (s1, .ok pa _) => if s1.poisoned pa n then (s1.ueRead pa n, .bad cUncorrectable) else (s1, .word (s1.pread pa n))

/-! ### Convoys (R116-R118) -/

/-- The word at a thread's PC, as far as it can be read now. -/
def State.nextWord (s : State) (t : TRef) (ctx : Nat) (pc : Dword) : Option Nat :=
  match (s.fetch t.core ctx pc 8 .xt).2 with | .word w => some w | _ => none
/-- A thread may issue its next instruction (R73, R85): what it has issued lets that instruction go before it. -/
def State.canIssue (s : State) (t : TRef) : Bool :=
  s.ready t .short && match s.thread? t with
    | some th =>
      (th.pend.isEmpty && th.held.isEmpty && s.remOut.isEmpty) ||
      (match (s.nextWord t (s.ctxOf t) th.pc).map fun w => decodeThread (BitVec.ofNat 64 w) with
        | some (.ok i) => s.ready t i.laClass && s.clear t i
        | _ => true)
    | none => false

/-- The functional units of a core: those that each port has, and the three that the ports share (R116). -/
inductive TUnit | port | sfu | cross | mem
  deriving DecidableEq, Repr
/-- The unit that an opcode names (R116). -/
def unitOf (op : Nat) : TUnit :=
  if 0x28 ≤ op && op ≤ 0x2D then .sfu
  else if (0x44 ≤ op && op ≤ 0x49) || op == 0x4D then .cross
  else if (0x60 ≤ op && op ≤ 0x6E) || (0x80 ≤ op && op ≤ 0x97) then .mem
  else .port

/-- What the picker compares of a thread: waited, urgent, warp slot, context, handler mode, PC, and the unit of its next instruction. -/
structure Pick where
  t : TRef
  waited : Nat
  urgent : Bool
  ws : Nat
  ctx : Nat
  hm : Bool
  pc : Dword
  unit : TUnit

/-- The threads of a core that may issue. -/
def State.picks (s : State) (core : Nat) : List Pick :=
  (s.blocks.filter fun b => b.core == core).flatMap fun b => b.refs.filterMap fun t =>
    match b.warps[t.warp]?, b.thread? t.warp t.lane with
    | some w, some th => if s.canIssue t then
        some ⟨t, th.waited, b.urgent == t.warp, w.wslot, b.ctx, th.hmode, th.pc, unitOf ((s.nextWord t b.ctx th.pc).getD 0 / 2 ^ 56 % 256)⟩ else none
    | _, _ => none
/-- Resident warp slots of a core. -/
def State.warpCount (s : State) (core : Nat) : Nat := ((s.blocks.filter fun b => b.core == core).map fun b => b.warps.length).sum
/-- The order of First (R118), with n the bound of an overdue thread. -/
def Pick.before (n : Nat) (a b : Pick) : Bool :=
  let oa := decide (n ≤ a.waited)
  let ob := decide (n ≤ b.waited)
  if oa != ob then oa
  else if oa && a.waited != b.waited then decide (b.waited < a.waited)
  else if a.urgent != b.urgent then a.urgent
  else if a.waited != b.waited then decide (b.waited < a.waited)
  else if a.ws != b.ws then decide (a.ws < b.ws)
  else decide (a.t.lane < b.t.lane)
/-- First of R118. -/
def firstPick (n : Nat) (ps : List Pick) : Option Pick := leastBy (Pick.before n) ps
/-- The convoy of a lead (R117, R118): one thread for each other home lane; same: the instruction keeps to one warp slot. -/
def convoyOf (n : Nat) (ps : List Pick) (lead : Pick) (same : Bool) : List TRef :=
  (List.range 32).filterMap fun l =>
    if l == lead.t.lane then some lead.t
    else (firstPick n (ps.filter fun p => p.t.lane == l && p.pc == lead.pc && p.ctx == lead.ctx && p.hm == lead.hm && (!same || p.ws == lead.ws))).map Pick.t

/-- A convoy issues the word at its PC (R84, R116): a replayable page fault of the fetch parks its threads, and another fault is delivered to each. -/
def State.issueConvoy (s : State) (ps : List Pick) (n : Nat) (lead : Pick) : State :=
  let all := fun (s : State) (same : Bool) => ({ s with cur := ⟨convoyOf n ps lead same, lead.t.core, lead.t.slot, 0, none⟩ } : State)
  match s.fetch lead.t.core lead.ctx lead.pc 8 .xt with
  | (s1, .pf r l) => let s2 := all s1 false; s2.cur.threads.foldl (fun s t => s.park t lead.pc.toNat 3 r l) s2
  | (s1, .bad c) => let s2 := all s1 false; s2.cur.threads.foldl (fun s t => s.deliver t (causeVa c lead.pc.toNat lead.pc) false) s2
  | (s1, .word w) =>
    match decodeThread (BitVec.ofNat 64 w) with
    | .ok i =>
      let op := w / 2 ^ 56 % 256
      let s2 := all s1 (i.laClass == .closing || (0x44 ≤ op && op ≤ 0x4D))
      resOr (exec i s2) s2
    | .error _ => let s2 := all s1 false; s2.cur.threads.foldl (fun s t => s.deliver t (causeOf cIllegalEncoding w lead.pc) false) s2

/-- The bound of an overdue thread of a core (R118). -/
def State.overdue (s : State) (core : Nat) : Nat := (s.warpCount core + 3) / 4
/-- The candidates of a port (R118): threads that no earlier port has taken, that may still issue, and whose unit accepts a convoy on it: a shared unit one
in a clk, the special-function unit one in two. -/
def State.portPicks (s : State) (core : Nat) (ps : List Pick) (used : List TUnit) (taken : List TRef) : List Pick :=
  ps.filter fun p => !taken.contains p.t && (p.unit == .port || !used.contains p.unit) && (p.unit != .sfu || decide ((s.core core).sfuAt ≤ s.clk)) &&
    s.canIssue p.t && s.pcOf p.t == p.pc
/-- PickClk of R118 from a port on, with n ports left. -/
def State.runPorts (s : State) (core : Nat) (ps : List Pick) : Nat → List TUnit → List TRef → State
  | 0, _, taken => { s with cur := { s.cur with threads := taken } }
  | n + 1, used, taken =>
    let cs := s.portPicks core ps used taken
    match firstPick (s.overdue core) cs with
    | none => { s with cur := { s.cur with threads := taken } }
    | some lead =>
      let s1 := s.issueConvoy cs (s.overdue core) lead
      let s2 := if lead.unit == .sfu then s1.modCore core fun c => { c with sfuAt := s.clk + 2 } else s1
      State.runPorts s2 core ps n (lead.unit :: used) (taken ++ s1.cur.threads)
/-- The picker of a core works for a clk: convoys on its four ports. -/
def State.runConvoy (s : State) (core : Nat) : State := s.runPorts core (s.picks core) 4 [] []

/-! ### Bundles -/

/-- The instructions of a bundle's slots by position, S first; none where a long immediate takes the slot. -/
def bundlePos (b : Bundle) : List (Option Instr) := [some b.s, b.m, some b.v, b.t, some b.c, b.x]
/-- A slot's NOP (R98). -/
def isNop : Instr → Bool
  | .snop => true | .mnop => true | .vnop => true | .tnop => true | .cnop => true | .xnop => true
  | _ => false

/-- The loop bank that counts now (R126, R427). -/
def TileCtx.bank (t : TileCtx) : Nat := t.loopOrd.headD 6
/-- A counter goes up by one (R427). -/
def pcntUp (v : Dword) : Dword :=
  if v.toNat % 2 ^ 48 == 2 ^ 48 - 1 then BitVec.ofNat 64 (2 ^ 63) else v + 1
/-- Count in a block's loop bank, while counting is enabled (R427). -/
def Block.count (b : Block) (bank : Nat) (ks : List Nat) : Block :=
  if !b.pcctl.getLsbD 0 then b
  else { b with prof := ks.foldl (fun m k => SMap.putD m (bank * 19 + k) 0 (pcntUp (SMap.get m (bank * 19 + k) 0))) b.prof }
/-- The counters of an issued bundle: filled and no-op slots (R98, R427). -/
def bundleCounts (b : Bundle) : List Nat :=
  (List.range 6).map fun k => match (bundlePos b).getD k none with | some i => if isNop i then 6 + k else k | none => k

/-- A tile breakpoint matches (R416): its number and HALT. -/
def State.tileBrk (s : State) (b : Block) : Option (Nat × Bool) :=
  if b.tile.brkDone then none
  else
    let dbg := (s.core b.core).dbg
    if dbg.isEmpty then none
    else
      (List.range 4).findSome? fun k =>
        let a := (SMap.get dbg (0x210 + 2 * k) 0).toNat
        let c := (SMap.get dbg (0x211 + 2 * k) (dbgReset 0x211)).toNat
        let sel := bits c 10 8
        if bit c 0 && bits c 31 16 == b.ctx && bits a 51 5 == bits b.tile.pc.toNat 51 5 &&
            (sel == 7 || (decide (sel ≤ 5) && (SMap.get b.tile.lc sel 0).toNat == bits c 63 32)) then some (k, bit c 1) else none

/-- The sequencer of a core is free to take another slot (R129). -/
def State.freeSeq (s : State) (core : Nat) : State := s.modCore core fun c => { c with seqFree := true }

/-- An engine operation of a slot is ordered after the landing of a result (R194, R202, R203, R288). -/
def State.orders (s : State) (b : Block) (f : InFlight) : Bool :=
  let mine := fun (g l : Nat) => g == b.grid && l == b.lin
  ((s.core b.core).cq.any fun m => mine m.grid m.lin && f.first m.after) || ((s.quad (quadOf b.core)).tab.any fun p => mine p.grid p.lin && f.first p.after) ||
  (s.core b.core).mrets.any fun m => m.slot == b.slot && f.first m.after
/-- A stall clk of a slot, with the held commands that it stalls on (R126, R252). Every countdown pauses, but for the results whose landing the stall waits
for: all at a waymark (R95), port writes at a full port, and under WAITE, CMDQ and MTABLE those that an engine operation is ordered after (log 34). -/
def State.stalled (s : State) (b : Block) (k : Nat) (on : List Nat) : State :=
  s.modBlock b.core b.slot fun x =>
    let runs := fun (f : InFlight) => k == 2 || (k == 4 && f.isPort) || (decide (5 ≤ k) && s.orders b f)
    { x.count b.tile.bank [11 + k] with tile := { x.tile with
        stall := k, stallOn := on, stallRun := if on.isEmpty then 0 else x.tile.stallRun + 1
        infl := x.tile.infl.map fun f => if runs f then { f with rem := f.rem - 1 } else f } }
/-- The results of a slot whose latency has run out land (R122). -/
def State.landDue (s : State) (core slot : Nat) : State :=
  if s.landNow core slot then resOr (execTileResultLand core slot s) s else s

/-- The tile state, and the registers of bound tiles, that the other slots of a bundle read while its S slot has taken effect (R112). -/
def State.tileAs (s : State) (b : Block) (t : TileCtx) : State := s.onTile b fun x => { x with pc := t.pc, sg := t.sg, handles := t.handles }
/-- The registers of a block's threads, as they stood in another. -/
def Block.regsOf (b old : Block) : Block :=
  { b with warps := (List.range b.warps.length).filterMap fun k => (b.warps[k]?).map fun w => { w with
      threads := (List.range w.threads.length).filterMap fun l => (w.threads[l]?).map fun th => { th with regs := ((old.thread? k l).map Thread.regs).getD th.regs } } }
/-- The slots of a bundle take effect together (R112): s1 is the state after the S slot, whose SST the port pops of the bundle see (R186); the others read
the tile state and the tile registers that stood before; what RGATE clears of those is cleared after them. -/
def State.slotsRun (_s s1 : State) (b : Block) (bd : Bundle) : State :=
  match s1.block? b.core b.slot with
  | none => s1
  | some b1 =>
    let others := fun (s : State) => (bd.slots.drop 1).foldl (fun s i => resOr (exec i s) s) s
    match bd.s with
    | .rgate g mask =>
      if !SGuard.holds g b.tile then (others (s1.tileAs b b.tile)).tileAs b b1.tile
      else ((others ((s1.modBlock b.core b.slot fun x => x.regsOf b).tileAs b b.tile)).tileAs b b1.tile).modBlock b.core b.slot fun x => x.clearTiles b.tile.handles mask
    | _ => (others (s1.tileAs b b.tile)).tileAs b b1.tile

/-- What a bundle's slots would do, each alone (R126, R183): the first cause of a stall with its state, or the first synchronous fault. -/
inductive Trial
  | stall (k : Nat) (s : State)
  | fault (s : State)
  | go (sS : State)

/-- Try the slots of a bundle. -/
def State.trySlots (s : State) (b : Block) (bd : Bundle) : Trial :=
  let rs := bd.slots.map fun i => resOr (exec i s) s
  match leastBy (fun (x y : State) => decide (x.tileStall < y.tileStall)) (rs.filter fun r => r.tileStall != 0) with
  | some r => .stall r.tileStall (if r.tileStall == 1 then r else s)
  | none =>
    match rs.find? fun r => !r.tileTrap && (match r.block? b.core b.slot with | some x => x.frozenTile | none => true) with
    | some r => .fault r
    | none => .go (rs.headD s)

/-- The state after a bundle that issues: the schedule clk, landings, counters, and the sequencer after YLD; pick finds the next slot. -/
def State.issued (s : State) (b : Block) (bd : Bundle) (pick : State → Option Nat) : State :=
  let s1 : State := s.modBlock b.core b.slot fun x => { x.count b.tile.bank (bundleCounts bd) with tile := { x.tile with
    sclk := x.tile.sclk + 1, stall := 0, stallRun := 0, stallOn := [], brkDone := false, infl := x.tile.infl.map fun f => { f with rem := f.rem - 1 } } }
  let s2 := s1.landDue b.core b.slot
  if bd.yld then (match pick s2 with | some k => s2.modCore b.core fun c => { c with seq := k, seqFree := false } | none => s2)
  else s2

/-- A decoded bundle of a slot: waymarks (R95, R393, R404), stalls, faults, issue; TRAPT's trap comes after its bundle (R196). -/
def State.runDecoded (s : State) (b : Block) (bd : Bundle) (pick : State → Option Nat) : State :=
  if bd.wm && !b.tile.infl.isEmpty then (s.stalled b 2 []).landDue b.core b.slot
  else
    let own := match bd.s with | .waite _ _ _ => true | .rgate _ _ => true | _ => false
    match if bd.wm && !own then b.pendingErr else none with
    | some (id, c) => ((s.modBlock b.core b.slot fun x => x.clearErr id).tileFault b.core b.slot c false).freeSeq b.core
    | none =>
      if bd.wm && b.preReq then (s.modBlock b.core b.slot fun x => { x with drain := true }).freeSeq b.core
      else
        match s.trySlots b bd with
        | .stall k s1 =>
          let s2 := ({ s1 with tileStall := 0 }.stalled b k (s1.stallsOn b bd k)).landDue b.core b.slot
          if k == 1 then s2.freeSeq b.core else s2
        | .fault s1 => s1.freeSeq b.core
        | .go sS =>
          match sS.tileTrap, bd.s with
          | true, .trapt _ code =>
            let s1 := ((bd.slots.drop 1).foldl (fun s i => resOr (exec i s) s) s).issued b bd pick
            { resOr (exec (.trapt .always code) s1) s1 with tileTrap := false }.freeSeq b.core
          | _, _ => (s.slotsRun sS b bd).issued b bd pick

/-- The scan of a loop without passes goes one bundle on (R188). -/
def State.scanOn (s : State) (b : Block) (l : Nat) (w : BitVec 256) : State :=
  let hit := match decodeS (w.extractLsb' 184 40) none with | some (.lbr _ lc _) => lc.toNat == l | _ => false
  s.modBlock b.core b.slot fun x => { x.count b.tile.bank [12] with tile := { x.tile with
    pc := x.tile.pc + 32, stall := 1, stallRun := 0, stallOn := [], scan := if hit then none else some l } }

/-- The tile sequencer issues the next bundle of a slot, or a stall clk passes. -/
def State.runBundle (s0 : State) (core slot : Nat) (pick : State → Option Nat) : State :=
  match s0.block? core slot with
  | none => s0
  | some b =>
    let s : State := { s0 with cur := ⟨[], core, slot, 0, none⟩, tileStall := 0, tileTrap := false }
    match s.fetch core b.ctx b.tile.pc 32 .xl with
    | (s1, .pf r l) => (s1.holdFetch b b.tile.pc.toNat r l).freeSeq core
    | (s1, .bad c) => (s1.tileFault core slot (b.tcauseVa c b.tile.pc.toNat) false).freeSeq core
    | (s1, .word w) =>
      let bw := BitVec.ofNat 256 w
      let s2 : State := { s1 with cur := ⟨[], core, slot, bw.extractLsb' 192 64, none⟩ }
      match b.tile.scan with
      | some l => s2.scanOn b l bw
      | none =>
        match s2.tileBrk b with
        | some (k, halt) => ((s2.tileFault core slot (b.tcauseOf cBreakpoint k) halt).modBlock core slot fun x => { x with tile := { x.tile with brkDone := true } }).freeSeq core
        | none =>
          match decodeBundle bw with
          | .error _ => (resOr (exec (.bundleDecodeTrap bw) s2) s2).freeSeq core
          | .ok bd => s2.runDecoded b bd pick

/-- A slot takes part in the tile sequencer (R129, R252). -/
def State.tileRuns (s : State) (b : Block) : Bool :=
  b.gated && b.state == .running && !b.frozenTile && !b.drain && !b.spillWait && !s.stallFrozen b &&
  match s.gridOf b with | some g => g.phase == .running | none => false
/-- The next bundle of a slot can issue now, or ends in a fault: it does not stall. -/
def State.bundleGoes (s : State) (core slot : Nat) : Bool :=
  match s.block? core slot with
  | none => false
  | some b => s.tileRuns b && match (s.runBundle core slot fun _ => none).block? core slot with
    | some b1 => b1.tile.stall == 0 || b1.tile.scan.isSome || b1.frozenTile
    | none => true
/-- The next slot in increasing order after one, wrapping, whose bundle can issue (R129). -/
def State.nextTile (s : State) (core slot : Nat) : Option Nat := ((List.range 8).map fun k => (slot + 1 + k) % 8).find? fun k => s.bundleGoes core k
/-- The slot that the sequencer of a core serves now. -/
def State.tileSlot (s : State) (core : Nat) : Option Nat :=
  let c := s.core core
  if !c.seqFree && (match s.block? core c.seq with | some b => s.tileRuns b | none => false) then some c.seq
  else if s.blocks.any fun b => b.core == core && s.tileRuns b then s.nextTile core c.seq
  else none
/-- The tile sequencer of a core works for a clk. -/
def State.runTile (s : State) (core : Nat) : State :=
  match s.tileSlot core with
  | none => s
  | some k => (s.modCore core fun c => { c with seq := k, seqFree := false }).runBundle core k fun s => s.nextTile core k

/-! ### Single steps (R423) -/

/-- The outcome of a step of a unit: STEPST. -/
def State.stepDone (s : State) (ctx st n : Nat) : State :=
  let r := ctxReg ctx 0xC10
  let v := s.reg r
  s.setReg r (setField (setField v 1 0 st) 23 8 (min (bits v.toNat 23 8 + n) 0xFFFF))

/-- The engine work that a step issued, and that of others set aside. -/
def State.onlyNew (s : State) (n : Nat) : State :=
  { s with
    cores := s.cores.map fun (c : Nat × CoreSt) => (c.1, { c.2 with cq := c.2.cq.filter fun m => decide (n ≤ m.id), mrets := c.2.mrets.filter fun m => decide (n ≤ m.id) })
    quads := s.quads.map fun (q : Nat × QuadSt) => (q.1, { q.2 with tab := q.2.tab.filter fun p => decide (n ≤ p.id) }) }
/-- Put back what was set aside, before what is left of the step's own. -/
def State.putBack (s old : State) (n : Nat) : State :=
  { s with
    cores := s.cores.map fun (c : Nat × CoreSt) => let o := old.core c.1
      (c.1, { c.2 with cq := (o.cq.filter fun m => decide (m.id < n)) ++ c.2.cq, mrets := (o.mrets.filter fun m => decide (m.id < n)) ++ c.2.mrets })
    quads := s.quads.map fun (q : Nat × QuadSt) => (q.1, { q.2 with tab := ((old.quad q.1).tab.filter fun p => decide (p.id < n)) ++ q.2.tab }) }

/-- The next engine event of a slot's own work. -/
def State.engineEvent (s : State) (core slot : Nat) : Option Instr :=
  let q := quadOf core
  if (s.nextCmd core).isSome then some (.copyCmdStart core)
  else if s.passNow q then some (.passStart q)
  else if s.retirePassNow q then some (.passRetire q)
  else if s.mretNow core slot then some (.mretPerform core slot)
  else
    match (List.range 16).find? fun r => s.arriveRing core slot r with
    | some r => some (.ringArrive core slot r)
    | none => (s.core core).cq.findSome? fun m =>
        if s.chunkNow core m.id then some (.chunkCounted core m.id) else if s.completeNow core m.id then some (.copyCmdComplete core m.id) else none
/-- Engine events until none is left, at most n. -/
def State.engineRun (s : State) (core slot : Nat) : Nat → State
  | 0 => s
  | n + 1 => match s.engineEvent core slot with | some i => State.engineRun (resOr (exec i s) s) core slot n | none => s

/-- A thread after a step has to wait for something. -/
def Thread.mustWait (th : Thread) : Bool :=
  th.st == .waiting || th.st == .arrived || th.st == .parked || th.held.any fun o => o.kind != .trap && o.kind != .half
/-- The threads that issue, and the state after the unit's instruction: none where the unit cannot issue. -/
def State.stepIssue (s : State) (b : Block) (unit ws lane : Nat) : Option (State × List TRef) :=
  if unit == 2 then
    if !s.tileRuns b || !s.bundleGoes b.core b.slot then none else some (s.runBundle b.core b.slot fun _ => none, [])
  else
    let ps := (s.picks b.core).filter fun p => p.t.slot == b.slot && p.ws == ws
    match ps.find? fun p => p.t.lane == lane with
    | none => none
    | some lead =>
      let s1 := s.issueConvoy (if unit == 0 then [lead] else ps) (s.overdue b.core) lead
      if s1.cur.threads.any fun t => match s1.thread? t with | some th => th.mustWait | none => true then none else some (s1, s1.cur.threads)
/-- The single step that a context waits for (R423): the unit issues with everything else frozen, what it issued completes, and the frame is
written anew; a unit that would have to wait is refused without effect. -/
def State.stepUnit (s : State) (ctx : Nat) : State :=
  let sel := s.regN (ctxReg ctx 0xC08)
  let core := bits sel 29 23
  let slot := bits sel 22 20
  let no := s.stepDone ctx 3 0
  match (s.block? core slot).filter fun b => b.ctx == ctx && b.state == .frozen with
  | none => no
  | some b =>
    let keep := b.why.filter fun w => w == .tileFault || w == .fetch
    let s1 := s.modBlock core slot fun x => { x with why := keep, state := if keep.isEmpty then .running else .frozen }
    match s1.stepIssue b (bits sel 31 30) (bits sel 19 14) (bits sel 13 9) with
    | none => no
    | some (s2, _) =>
      let n := s.nextId
      let rb := s2.reg (ctxReg ctx 0x928)
      let s3 := ((s2.onlyNew n).setReg (ctxReg ctx 0x928) (setField rb 2 0 0)).engineRun core slot (2 ^ 24)
      if ((s3.core core).cq.any fun m => m.st == .queued) || ((s3.core core).mrets.any fun m => decide (n ≤ m.id)) then no
      else
        let s4 := (s3.putBack s2 n).setReg (ctxReg ctx 0x928) rb
        let s5 := s4.modBlock core slot fun x => { x.settle with why := x.why.filter (fun w => !b.why.contains w) ++ b.why, state := .frozen, frame := b.frame }
        let s6 := match s5.block? core slot, b.frame, s5.gridOf b with
          | some x, some f, some g => (s5.writeFrame x g f.va.toNat 0x1C (x.fflags false false) (bits (s.regN (ctxReg ctx 0x910)) 63 32) x.allRefs []).modBlock core slot
              fun x => { x with frame := some ⟨f.va, x.rings, x.allRefs⟩ }
          | _, _, _ => s5
        s6.stepDone ctx 2 (s6.remOut.length - s.remOut.length)

/-! ### Each clk -/

/-- What a clk counts for a thread: the picker's waiting time, in the clk in which its core's picker works, and a snooze (R118, R179; log 106). -/
def Thread.tick (th : Thread) (ready issued picked : Bool) : Thread :=
  { th with waited := if issued || !ready then 0 else if picked then th.waited + 1 else th.waited, snooze := th.snooze.map fun n => n - 1 }
/-- An access of a block is parked or held (R395). -/
def State.holds (s : State) (b : Block) : Bool :=
  b.fetchVa.isSome || (b.warps.any fun w => w.threads.any fun th => th.st == .parked || th.held.any fun o => o.hs != .free) || s.cmdHeld b
/-- What a clk counts for a block: forward progress, its slice, arrivals at its ports (R71, R191, R395). -/
def State.tickBlock (s : State) (b : Block) (tile picked : Bool) : Block :=
  let mine := s.cur.threads.any fun t => t.core == b.core && t.slot == b.slot
  let waits := b.warps.any fun w => w.threads.any Thread.stalls
  { b with
    fptimer := if waits && !mine && !tile && !s.holds b then b.fptimer + 1 else 0
    slice := if b.state == .running && b.deciding.isNone then b.slice + 1 else b.slice
    tile := { b.tile with ports := b.tile.ports.map fun (p : Nat × Port) => if 1 < p.2.arrive then (p.1, { p.2 with arrive := p.2.arrive - 1 }) else p }
    warps := (List.range b.warps.length).filterMap fun k => (b.warps[k]?).map fun w => { w with
      threads := (List.range w.threads.length).filterMap fun l => (w.threads[l]?).map fun th =>
        let t : TRef := ⟨b.core, b.slot, k, l⟩
        th.tick (s.canIssue t) (s.cur.threads.contains t) picked } }
/-- Cores that sample their traces in this clk (R426). -/
def State.sampleCores (s : State) : List Nat :=
  ((s.blocks.filter fun b => bit (s.regN (ctxReg b.ctx 0x900)) 1 &&
      (let n := bits (s.regN (ctxReg b.ctx 0xC28)) 23 8; n != 0 && s.clk % (256 * n) == 0)).map Block.core).eraseDups
/-- A ring's first reservation had landed before this clk. -/
def State.landedIn (old : State) (b : Block) (q : Nat) (x : Resv) : Bool :=
  match old.block? b.core b.slot with | some y => (y.ring q).resvs.any fun z => z.id == x.id && z.landed | none => false
/-- Reservations of rings whose bytes had landed by this clk, and first vectors of ports, arrive on its edge (R191, R224, R226): after the pops of the clk and
before its reservations, old being the state before it. -/
def State.arrivals (s old : State) : State :=
  s.blocks.foldl (fun s b =>
    let s1 := b.rings.foldl (fun s r => r.2.resvs.foldl (fun s x => if old.landedIn b r.1 x then resOr (execRingArrive b.core b.slot r.1 s) s else s) s) s
    b.tile.ports.foldl (fun s p => resOr (execPortVectorArrive b.core b.slot p.1 s) s) s1) s
/-- A clk passes (log 4) after an event in a state: tile names the slot that issued a bundle in it, picker the core whose picker worked. -/
def State.tick (s0 old : State) (tile : Option (Nat × Nat)) (picker : Option Nat) : State :=
  let s := s0.arrivals old
  let s1 : State := { s with
    blocks := s.blocks.map fun b => s.tickBlock b (tile == some (b.core, b.slot)) (picker == some b.core)
    clk := s.clk + 1, time := s.time + 1, cur := ⟨[], 0, 0, 0, none⟩ }
  let s2 := if s1.fw.droop.isEmpty then s1 else s1.stretched
  s2.sampleCores.foldl (fun s c => resOr (execTraceSample c s) s) s2

/-! ### What can happen next -/

/-- What the machine does on its own: a step of the opcode table, a convoy of a core, a bundle of a core, a single step of a context, a spill
that waited (R403), an access that met a page fault (R87, R434), the move of a function's partition (R450), the end of a checkpoint, and of an invalidation (R259), a dump whose threads have stopped (R406, R429), and a translation ahead of a command (R250). -/
inductive Act
  | ev (i : Instr)
  | convoy (core : Nat)
  | bundle (core : Nat)
  | unit (ctx : Nat)
  | access (t : TRef) (tag : Nat)
  | spill (ctx : Nat)
  | move (f : Nat)
  | ckpt
  | inval (ctx : Nat)
  | dump (ctx : Nat)
  | ahead (quad ctx : Nat) (va : Dword)
  deriving DecidableEq, Repr

/-- The first access of a thread in order of issue that met a page fault and is not parked (R434): its fault is detected now, or it is performed. -/
def State.accessNow (s : State) (t : TRef) : Option HeldOp :=
  match s.block? t.core t.slot with
  | none => none
  | some b => if b.stopped || b.state == .frozen then none else (b.thread? t.warp t.lane).bind fun th => th.held.find? fun o => o.kind == .access && o.hs != .parked
/-- The lanes of a convoy perform such an access together (R253, R434). -/
def State.retryAccess (s : State) (t : TRef) (tag : Nat) : State :=
  match (s.thread? t).bind fun th => th.held.find? fun o => o.tag == tag with
  | none => s
  | some o =>
    let mine := fun (u : TRef) => match s.accessNow u with | some x => x.i == o.i && x.pc == o.pc && x.a == o.a | none => false
    let grp := (s.blocks.filter fun b => b.core == t.core).flatMap fun b => b.refs.filter mine
    resOr (exec o.i { s with cur := ⟨grp, t.core, t.slot, 0, some o.a⟩ }) s

/-- Events of a thread. -/
def State.threadActs (s : State) (t : TRef) : List Act :=
  (if s.snoozeOver t then [.ev (.snoozeExpire t)] else []) ++
  (if s.takeNow t then [.ev (.queueTake t)] else []) ++
  (if (s.waitOf t .poll).isSome && s.movable t then [.ev (.pollRetry t)] else []) ++
  (if s.resultNow t then [.ev (.longResultWrite t)] else []) ++
  (match s.accessNow t with | some o => [.access t o.tag] | none => []) ++
  (if s.impNow t then [.ev (.impreciseDelivery t)] else [])
/-- Events of a block. -/
def State.blockActs (s : State) (b : Block) : List Act :=
  let c := b.core
  let k := b.slot
  b.refs.flatMap s.threadActs ++
  (if s.fptOver b && b.warps.any (fun w => w.threads.any Thread.stalls) then [.ev (.convergenceStall c k)] else []) ++
  (b.rings.flatMap fun r => (if s.spopNow c k r.1 then [.ev (.spopPerform c k r.1)] else []) ++
    if (s.reserveNow c k r.1).isSome then [.ev (.ringReserve c k r.1)] else []) ++
  (if s.landNow c k then [.ev (.tileResultLand c k)] else []) ++
  (if s.stallNow c k then [.ev (.tileStallFreeze c k)] else []) ++
  (if s.mretNow c k then [.ev (.mretPerform c k)] else []) ++
  (if (s.mileNow c k).isSome then [.ev (.milestoneCommit c k)] else []) ++
  (if (s.parkNow c k).isSome then [.ev (.parkBlock c k)] else []) ++
  (if s.sliceNow c k then [.ev (.sliceEnd c k)] else []) ++
  (if s.preemptNow c k then [.ev (.preempt c k)] else []) ++
  if s.blockOver b then [.ev (.blockEnd c k)] else []
/-- Log2 of the page that a record's buffer names (R12, R245); 64 KiB without one. -/
def State.pgsz (s : State) (m : Cmd) (r : Nat) : Nat :=
  match ((s.grid? m.grid).bind fun g => g.img.bufs[recBuf r]?).map BufE.attr with
  | some a => [16, 21, 25, 34].getD (bits a 3 2) 16
  | none => 16
/-- The pages that the next 128 KiB of a command's transfer touch, at the size that their buffers name (R245, R250). -/
def State.aheadPages (s : State) (m : Cmd) : List Nat :=
  let ps := m.pieces.drop m.pos
  let o := ((ps.head?).map Piece.off).getD 0
  let lgS := s.pgsz m m.rec1.toNat
  let lgD := s.pgsz m (if cmdKind m.i == .mc then m.rec2.toNat else m.rec1.toNat)
  ((ps.takeWhile fun p => decide (p.off < o + 131072)).flatMap fun p =>
    (match p.src with | .mem va => [va >>> lgS <<< lgS, (va + m.fetched p - 1) >>> lgS <<< lgS] | _ => []) ++
    (match p.dst with | .mem va => [va >>> lgD <<< lgD, (va + p.n - 1) >>> lgD <<< lgD] | _ => [])).eraseDups
/-- What the walk-ahead TLB does for a command (R249, R250): it takes a translation that the L2 TLB holds, or has the page table walked. -/
def State.aheadOf (s : State) (m : Cmd) : List Act :=
  (s.aheadPages m).filterMap fun va =>
    let q := quadOf m.core
    let v := BitVec.ofNat 64 va
    if (s.tlb (.quad q)).any fun e => e.hits m.ctx (va % 2 ^ 52) then none
    else if s.walkNow (quarterOf m.core) m.ctx v then some (.ev (.pageWalk (quarterOf m.core) m.ctx v))
    else if canonical va then some (.ahead q m.ctx v) else none
/-- Events of a core's engines, and its ports. -/
def State.coreActs (s : State) (c : Nat) : List Act :=
  (if (s.picks c).isEmpty then [] else [.convoy c]) ++ (if (s.tileSlot c).isSome then [.bundle c] else []) ++
  (if (s.nextCmd c).isSome then [.ev (.copyCmdStart c)] else []) ++
  ((s.core c).cq.flatMap fun m => (if s.chunkNow c m.id then [.ev (.chunkCounted c m.id)] else []) ++
    (if s.completeNow c m.id then [.ev (.copyCmdComplete c m.id)] else []) ++ if m.st == .queued || m.st == .reserved then s.aheadOf m else []) ++
  if s.spillNow c then [.ev (.rowSpill c)] else []
/-- Events of a quad. -/
def State.quadActs (s : State) (q : Nat) : List Act :=
  (if s.passNow q then [.ev (.passStart q)] else []) ++ if s.retirePassNow q then [.ev (.passRetire q)] else []
/-- Events of a launch queue. -/
def State.queueActs (s : State) (x : LQueue) : List Act :=
  (if s.recReadNow x.ctx x.q then [.ev (.launchRecordRead x.ctx x.q)] else []) ++
  (if s.opNow x.ctx x.q 0 then [.ev (.opLaunch x.ctx x.q)] else []) ++ (if s.opNow x.ctx x.q 1 then [.ev (.opRegister x.ctx x.q)] else []) ++
  (if s.opNow x.ctx x.q 2 then [.ev (.opUnregister x.ctx x.q)] else []) ++ (if s.opNow x.ctx x.q 3 then [.ev (.opMarker x.ctx x.q)] else []) ++
  (if s.retryNow x.ctx x.q then [.ev (.admissionRetry x.ctx x.q)] else []) ++ if s.resetOver x.ctx x.q then [.ev (.lqResetComplete x.ctx x.q)] else []
/-- Events of a grid. -/
def State.gridActs (s : State) (g : Grid) : List Act :=
  (if g.phase == .staging then [.ev (.stagingClaimReady g.id)] else []) ++
  (if s.placeNow g.id then [.ev (.placeBlock g.id)] else []) ++
  (match (s.readySaved g.id).head? with | some v => if s.restoreNow g.id v.lin then [.ev (.restoreBlock g.id v.lin)] else [] | none => []) ++
  (if s.retireNow g then [.ev (.gridRetire g.id)] else []) ++ if g.stopping then [.ev (.gridAbort g.id)] else []
/-- Contexts of which a register with this offset is listed. -/
def State.ctxsWith (s : State) (off : Nat) : List Nat := s.regs.filterMap fun r => if r.1 % 0x100000 == off && decide (r.1 < 0x4000000) then some (r.1 / 0x100000) else none
/-- Events of contexts: invalidations, spills that wait, single steps. -/
def State.ctxActs (s : State) : List Act :=
  ((s.ctxsWith 0x248).flatMap fun c => if s.invBusy c && !s.invUsers c then [.inval c] else []) ++
  ((s.ctxsWith 0x288).flatMap fun c => if s.fspillNow c then [.spill c] else []) ++
  ((s.ctxsWith 0xC10).flatMap fun c => if s.regN (ctxReg c 0xC10) % 4 == 1 then [.unit c] else []) ++
  s.dumps.flatMap fun c => if s.dumpReady c then [.dump c] else []
/-- Events of the whole device. -/
def State.devActs (s : State) : List Act :=
  (if s.swHits.isEmpty then [] else [.ev .sliceWatchLatch]) ++ (if s.atsPend then [.ev .atsInvalidateComplete] else []) ++
  (if s.clockNow then [.ev .clockChange] else []) ++
  ((List.range 16).flatMap fun f => if s.moveNow (f + 1) then [.move (f + 1)] else []) ++
  (if s.ckptState == 1 && !s.fw.ckptCut then [.ev .checkpointCut] else []) ++
  (if s.ckptDone then [.ckpt] else []) ++
  (if s.ckptState == 2 then [.ev .restoreComplete] else []) ++
  if decide (s.stage < 3) && s.fw.power then [.ev .boot] else []
/-- Everything that the machine can do next on its own. -/
def State.acts (s : State) : List Act :=
  s.blocks.flatMap s.blockActs ++ ((s.blocks.map Block.core ++ s.cores.map Prod.fst).eraseDups).flatMap s.coreActs ++ (s.quads.map Prod.fst).flatMap s.quadActs ++
  s.queues.flatMap s.queueActs ++ s.grids.flatMap s.gridActs ++
  ((s.xreqs.map fun r => (r.ctx, r.ring)).eraseDups.flatMap fun r =>
    (if (s.nextReq r.1 r.2).isSome then [.ev (.xformRequestStart r.1 r.2)] else []) ++ if (s.doneReq r.1 r.2).isSome then [.ev (.xformComplete r.1 r.2)] else []) ++
  (s.remIn.flatMap fun r => if s.remNow r then [.ev (.remotePerform r.n)] else []) ++
  (s.freps.map fun f => f.ctx).eraseDups.map (fun c => .ev (.faultReport c)) ++ s.l2out.map (fun l => .ev (.l2Evict l.1)) ++ s.ctxActs ++ s.devActs

/-- The slot that issued a bundle when a core's sequencer worked. -/
def State.tileIssued (s : State) (core : Nat) : Option (Nat × Nat) :=
  match s.block? core (s.core core).seq with | some b => if b.tile.stall == 0 then some (core, b.slot) else none | none => none
/-- Do something. -/
def State.perform (s : State) : Act → State
  | .ev i => resOr (exec i s) s
  | .convoy c => s.runConvoy c
  | .bundle c => s.runTile c
  | .unit c => s.stepUnit c
  | .access t tag => s.retryAccess t tag
  | .spill c => resOr (execFspill c (s.reg (ctxReg c 0x288)) s) s
  | .move f => resOr (execVfpartMoveDone f s) s
  | .ckpt => let f := s.freeN; resOr (execCheckpointComplete (Config.freeDword f.1).toNat f.2) f.2
  | .inval c => resOr (execTlbInvalidateDone c s) s
  | .dump c => s.dumpOut c
  | .ahead q c va => (s.translate (.quad q) c va.toNat .read).1
/-- Do something, and let a clk pass. -/
def State.act (s : State) (a : Act) : State :=
  let s1 := s.perform a
  s1.tick s (match a with | .bundle c => (match s.tileSlot c with | some k => (s1.tileIssued c).filter fun x => x.2 == k | none => none) | _ => none)
    (match a with | .convoy c => some c | _ => none)
/-- The next act, if there is one: a free choice among several (log 2), which the state after it has counted. -/
def State.choose (s : State) : Option Act × State :=
  match s.acts with
  | [] => (none, s)
  | [a] => (some a, s)
  | a :: as => let f := s.freeN; ((a :: as)[Config.pick f.1 % (as.length + 1)]?, f.2)
/-- A step without an input. -/
def State.alone (s : State) : State :=
  match s.choose with
  | (some a, s1) => (s1.act a).afterStep
  | (none, s1) => (s1.tick s none none).afterStep

/-! ### A program's first instruction (log 5) -/

/-- A grid of one block without a job, that runs. -/
def oneGrid : Grid :=
  { id := 0, ctx := 0, q := 0, ring := 0, token := 1, raw := 0
    img := { ctx := 0, handle := 1, base := 0, flags := 0, threadOff := 0, threadSize := 65536, tileOff := 0, tileSize := 65536, tensOff := 0, tensCount := 0,
             nsc := 1, scb := [0], bufs := [], roles := [], vars := [], mss := [], lmaps := [], trails := [] }
    phase := .running, coop := false, l1wb := false, nbv := false, prio := 0, next := 1, qnext := 0, ended := 0, nblk := 1, nswitch := 0, npark := 0, nfaults := 0
    first := none, fva := 0, fblock := 0, status := 0, tstart := 0, cores := [0], resv := [], claims := [], snap := none, closed := false, hold := none
    jobArr := [], jobSent := [], arrivals := 0, closes := [], pre := none }
/-- A block of one warp of one thread at PC 0, on core 0; for tile code it is gated with its tile PC at 0. -/
def oneBlock (tile : Bool) : Block :=
  let th := Thread.entry 0 []
  { core := 0, slot := 0, ctx := 0, grid := 0, lin := 0, variant := 0, milestone := 0, sclass := 0, sizep := 0, sprows := 1, dom := [0, 0, 0, 0, 0]
    warps := [{ role := 0, rwarp := 0, rows := 8, alloc := 8, wslot := 0, ops := [], hsel := none, progress := 0, inGate := tile
                threads := [if tile then { th with st := .gated, wait := some ⟨.gate, 0, 0, 0x89, 0⟩ } else th] }]
    urgent := 0, bwaits := [], spad := [], acc := [], traps := [], rings := [], tstat := 0, fpte := 0
    gate := if tile then some ⟨0, 0, 0, true⟩ else none, ef := [], nlost := 0, tile := { TileCtx.empty with joined := tile }
    prof := [], pcctl := 0, pcsel := 0, fptimer := 0, slice := 0, sliceLen := 0, nswitch := 0, npark := 0, npre := 0, tplace := 0, state := .running, why := []
    frozenTile := false, tcause := none, rows := List.range 11, accu := [], acckb := 0, deciding := none, preReq := false, drain := false, spillWait := false
    frame := none, fetchVa := none }
/-- The bundle that holds a slot's word and NOPs, by the bits of the word (R94): S or M, V, T, C, X. -/
def oneBundle (nbits w : Nat) : Nat :=
  match nbits with
  | 40 => if (decodeS (BitVec.ofNat 40 w) none).isSome then w <<< 184 else w <<< 144
  | 56 => w <<< 88
  | 24 => w <<< 64
  | 48 => w <<< 16
  | _ => w
/-- The state in which the next step fetches and runs a word: a context whose first 64 KiB are mapped one to one in core 0's TLB, with the word as its
first, and one block that runs it; what could run instead is absent. -/
def State.place (s : State) (nbits w : Nat) : State :=
  let tile := nbits != 64
  { s with
    mem := Mem.writeN s.mem 0 (if tile then oneBundle nbits w else w) (if tile then 32 else 8)
    poison := [], regs := [(bootSt, 3)], blocks := [oneBlock tile], saved := []
    cores := [(0, { CoreSt.empty with tlb := [⟨0, 0, 16, 0, 0x73⟩] })], quads := [], l2 := [], l2out := [], dumps := [], grids := [oneGrid], queues := [], xreqs := [], freps := [], remOut := [], remIn := []
    swHits := [], atsPend := false, inputs := [], nextId := s.nextId + 1 }

end Sys2Proof.Machine
end

