-- ==== Sys2Proof/Machine/Step.lean ====
section
/-! DEFINITION. One step of the machine: an input that has arrived, else what the machine does on its own; and the state in which a given word runs
next. -/
namespace Sys2Proof.Machine

/-- One step (log 2, log 4): the first input that has arrived takes effect; else a core issues, or an engine moves; a clk passes. -/
def step (s : State) : Host.Outcome State Fault Refusal :=
  match s.inputs with
  | i :: is =>
    match exec i { s with inputs := is } with
    | .next s1 => .next (s1.tick s none none).afterStep
    | .fault r => .fault r
    | .refused r => .refused r
  | [] => .next s.alone

/-- The state with an instruction where the next step fetches it. -/
def State.withFetchWord (s : State) (nbits w : Nat) : State := s.place nbits w

end Sys2Proof.Machine
end

