-- ==== Sys2Proof/Safety.lean ====
section
/-! DEFINITION. What counts as a safe state and a safe step, and the terms that statements about one thread or one task slot use: where a thread
stands, that it alone issues, and what its instruction leaves unchanged. -/
namespace Sys2Proof.Machine

/-- Memory, staging ways and scratchpads, those of saved blocks among them, keep their canonical form. -/
def State.memOk (s : State) : Prop := Mem.wf s.mem ∧ Mem.wf s.staging ∧ (∀ b ∈ s.blocks, Mem.wf b.spad) ∧ ∀ v ∈ s.saved, Mem.wf v.snap.spad
/-- A task slot holds at most one block (R54). -/
def State.slotsOk (s : State) : Prop := s.blocks.Pairwise fun x y => x.core ≠ y.core ∨ x.slot ≠ y.slot

/-- A thread reference names a block, a warp and a thread of a state. -/
structure At (s : State) (t : TRef) (b : Block) (w : Warp) (th : Thread) : Prop where
  block : s.block? t.core t.slot = some b
  warp : b.warps[t.warp]? = some w
  thread : w.threads[t.lane]? = some th

/-- An instruction issues for one thread that is the whole convoy, and meets none of the checks 5 to 8 of R84: the thread is ready and running, may
name what it names, has nothing issued that must be performed first, has no queue bound as a consumer, and no named register is pending, unallocated or
uncorrectable. -/
structure Alone (i : Instr) (s : State) (t : TRef) (b : Block) (w : Warp) (th : Thread) : Prop where
  at_ : At s t b w th
  convoy : s.cur.threads = [t]
  first : s.cur.again = none
  ready : s.ready t i.laClass = true
  clear : s.clear t i = true
  running : th.st = .running
  priv : s.privBad b.ctx th i = false
  alloc : firstUnalloc w.alloc th.hmode i.fields = none
  window : lookBad i th = false
  words : s.regUe b t i = false
  unbound : th.binds = []

/-- What an instruction of one thread leaves unchanged: everything outside its block but uncorrectable words that it writes whole (R240); in the block
everything but the thread itself, its warp's progress count, the urgent warp (R119) and its own lane of its trap row (R384). -/
structure Local (s s' : State) (t : TRef) (b : Block) (w : Warp) (b' : Block) (w' : Warp) (th' : Thread) : Prop where
  rest : { s' with blocks := s.blocks, poolBad := s.poolBad } = s
  healed : ∀ x ∈ s'.poolBad, x ∈ s.poolBad
  others : ∀ c k, ¬ (t.core = c ∧ t.slot = k) → s'.block? c k = s.block? c k
  at_ : At s' t b' w' th'
  block : { b' with warps := b.warps, urgent := b.urgent, traps := b.traps } = b
  traps : ∀ k, (∀ r, r < 32 → k ≠ w.hsel.getD 0 * 1024 + r * 32 + t.lane) → SMap.get b'.traps k 0 = SMap.get b.traps k 0
  warps : ∀ k, k ≠ t.warp → b'.warps[k]? = b.warps[k]?
  warp : { w' with threads := w.threads, progress := w.progress } = w
  lanes : ∀ l, l ≠ t.lane → w'.threads[l]? = w.threads[l]?

/-- The thread once its instruction has issued and gone on to a PC (R85, R118): open windows have counted it; its registers and predicates are th's own. -/
def Thread.went (th th' : Thread) (pc : Dword) : Thread :=
  { th with pc := pc, st := .running, wait := none, taken := [], waited := 0, pend := th.pend.map (fun p => { p with la := p.la - 1 }), regs := th'.regs, pred := th'.pred }

/-- What an instruction of one thread that goes on to a PC leaves: the frame, and the thread but for its registers and predicates. -/
structure Went (s s' : State) (t : TRef) (b : Block) (w : Warp) (th : Thread) (pc : Dword) (b' : Block) (w' : Warp) (th' : Thread) : Prop where
  loc : Local s s' t b w b' w' th'
  thread : th' = th.went th' pc
  traps : th.hmode = false → b'.traps = b.traps

/-- The thread alone issues the instruction (Alone), and its guard holds (R78). -/
structure Issues (i : Instr) (h : Hdr) (s : State) (t : TRef) (b : Block) (w : Warp) (th : Thread) : Prop extends Alone i s t b w th where
  guard : s.guard t h = true

/-- The instruction answers a next state in which its thread has gone on to a PC, with nothing changed beyond Went but what post says of the
registers of the state and of the thread. -/
def GoesOn (i : Instr) (s : State) (t : TRef) (b : Block) (w : Warp) (th : Thread) (pc : Dword) (post : State → Thread → Prop) : Prop :=
  ∃ s' b' w' th', exec i s = .next s' ∧ Went s s' t b w th pc b' w' th' ∧ post s' th'

/-- Nothing changed but memory, its poison, and the caches and translation buffers with what they hold of it. -/
structure MemOnly (s s' : State) : Prop where
  rest : { s' with mem := s.mem, poison := s.poison, l2 := s.l2, l2out := s.l2out, metaC := s.metaC, hostMem := s.hostMem, cores := s.cores, quads := s.quads, l2tlb := s.l2tlb, pteCache := s.pteCache } = s
  core : ∀ c, { s'.core c with l1 := (s.core c).l1, tlb := (s.core c).tlb, rcache := (s.core c).rcache } = s.core c

/-- The byte at a physical address that the device holds for a core: the core's own dirty byte (R232), else memory. -/
def State.backed (s : State) (c a : Nat) : Byte :=
  match s.l1? c a with
  | some l => if l.dirty.getLsbD (a % 128) then l.byte (a % 128) else Mem.get s.mem a
  | none => Mem.get s.mem a

/-- A core holds each line at most once (R230). -/
def L1Once (ls : List L1Line) : Prop := (ls.map L1Line.line).Nodup

/-- A virtual address of a thread is aligned, and its page permits the access at a physical address (R246, R247, R266). -/
structure Maps (s : State) (t : TRef) (va align : Nat) (k : Acc) (pa : Nat) (attr : BitVec 10) : Prop where
  canonical : canonical va = true
  aligned : va % align = 0
  page : (s.translate (.core t.core) (s.ctxOf t) va k).2 = .ok pa attr

/-- As GoesOn, for an instruction that also accesses memory: what it changes there is MemOnly, and post says what. -/
def GoesOnMem (i : Instr) (s : State) (t : TRef) (b : Block) (w : Warp) (th : Thread) (pc : Dword) (post : State → Thread → Prop) : Prop :=
  ∃ s1 s' b' w' th', exec i s = .next s' ∧ Went s s1 t b w th pc b' w' th' ∧ MemOnly s1 s' ∧ post s' th'

/-- As GoesOnMem, for a long-latency instruction (R85): no register changes yet, and its destinations become pending. -/
def GoesOnLong (i : Instr) (s : State) (t : TRef) (b : Block) (w : Warp) (th : Thread) (new : List Pend) (post : State → Prop) : Prop :=
  ∃ s1 s' b' w', exec i s = .next s' ∧
    Local s s1 t b w b' w' { th.went th (th.pc + 8) with pend := th.pend.map (fun p => { p with la := p.la - 1 }) ++ new } ∧
    b'.traps = b.traps ∧ MemOnly s1 s' ∧ post s'

/-- What becomes pending for a destination of n registers with a known value: nothing for v255 (R85). -/
def newPend (d : VReg) (n v : Nat) (h : Hdr) (pc : Dword) (tag : Nat) : List Pend := if d = 255#8 then [] else [⟨d, n, some v, h.la.toNat, pc, tag⟩]

/-- n bytes at a physical address as the device holds them for a core, as a number (R4). -/
def State.backedN (s : State) (c a n : Nat) : Nat := leNat ((List.range n).map fun i => s.backed c (a + i))

/-- Memory without compressible windows or poison, for a core whose L1 holds each line once. -/
structure PlainMem (s : State) (c : Nat) : Prop where
  noCw : s.hasCw = false
  clean : s.poison = []
  once : L1Once (s.core c).l1

/-- The pair of a register (R4). -/
def State.pair (s : State) (t : TRef) (r : VReg) : Dword := s.rv t (r + 1) ++ s.rv t r
/-- One, two or four registers as a number, the first lowest (R4). -/
def State.group (s : State) (t : TRef) (r : VReg) (n : Nat) : Nat :=
  match n with | 1 => (s.rv t r).toNat | 2 => (s.pair t r).toNat | _ => (s.pair t (r + 2) ++ s.pair t r).toNat

/-- Results in flight beside those of the slot of a block, and the tile PC. -/
def State.flies (s : State) (b : Block) (fs : List InFlight) (pc : Dword) : State :=
  s.modBlock b.core b.slot fun b => { b with tile := { b.tile with infl := b.tile.infl ++ fs, pc := pc } }

end Sys2Proof.Machine
end

