-- ==== Sys2Proof/Certificates/Slice0/Obligations.lean ====
section
/-! DEFINITION. The statements for the provers, and the tables of results that they are stated with, written from the rules' own words. -/
namespace Sys2Proof.Rules
open Sys2Proof.Machine

/-! ### Integer, logic and movement instructions (R158-R160, R167, R181) -/

/-- Reduce an integer modulo 2^32 (R157). -/
def w32 (i : Int) : Word := BitVec.ofInt 32 i
/-- The nearest value to x within lo to hi. -/
def clamp (x lo hi : Int) : Int := max lo (min x hi)
/-- A word read as U says (R158). -/
def su (u : Bool) (x : Word) : Int := if u then (x.toNat : Int) else x.toInt
/-- The sum or difference of IADD and ISUB, reduced by SAT (R158). -/
def satRule (sat : Sat) (unsigned signed : Int) : Word :=
  match sat with
  | .wrap => w32 signed
  | .signed => w32 (clamp signed (-2 ^ 31) (2 ^ 31 - 1))
  | .unsigned => w32 (clamp unsigned 0 (2 ^ 32 - 1))
/-- Byte i of a word, signed or unsigned (R158). -/
def byteOf (u : Bool) (x : Word) (i : Nat) : Int :=
  if u then (x.extractLsb' (8 * i) 8).toNat else (x.extractLsb' (8 * i) 8).toInt
/-- The length of a bit field (R160). -/
def fieldLen (f : Word) : Nat := min (f.extractLsb' 8 8).toNat 32
/-- The position of a bit field (R160). -/
def fieldPos (f : Word) : Nat := (f.extractLsb' 0 8).toNat
/-- One bit of CRC-32C, reflected (R181). -/
def crcBit (c : Word) : Word := if c.getLsbD 0 then (c >>> 1) ^^^ 0x82F63B78#32 else c >>> 1

/-- What a short instruction with one destination register writes, from the values x of its registers and p of its predicates: its header,
its destination, and the condition that the written value meets (R158, R160, R167, R181). -/
def intRule (i : Instr) (x : VReg → Word) (p : PReg → Bool) (pred : BitVec 7) : Option (Hdr × VReg × (Word → Prop)) :=
  match i with
  | .iadd h d a b sat => some (h, d, fun v => v = satRule sat ((x a).toNat + (x b).toNat) ((x a).toInt + (x b).toInt))
  | .isub h d a b sat => some (h, d, fun v => v = satRule sat ((x a).toNat - (x b).toNat) ((x a).toInt - (x b).toInt))
  | .iaddi h d a imm => some (h, d, fun v => v.toNat = ((x a).toNat + imm.toNat) % 2 ^ 32)
  | .imul h d a b => some (h, d, fun v => v.toNat = (x a).toNat * (x b).toNat % 2 ^ 32)
  | .imuli h d a imm => some (h, d, fun v => v.toNat = (x a).toNat * imm.toNat % 2 ^ 32)
  | .imulh h d a b u => some (h, d, fun v => v = w32 (su u (x a) * su u (x b) / 2 ^ 32))
  | .imad h d a b c => some (h, d, fun v => v.toNat = ((x a).toNat * (x b).toNat + (x c).toNat) % 2 ^ 32)
  | .imin h d a b u => some (h, d, fun v => su u v = min (su u (x a)) (su u (x b)))
  | .imax h d a b u => some (h, d, fun v => su u v = max (su u (x a)) (su u (x b)))
  | .iabs h d a sat => some (h, d, fun v => v = if sat && (x a).toInt == -2 ^ 31 then w32 (2 ^ 31 - 1) else w32 (x a).toInt.natAbs)
  | .ineg h d a sat => some (h, d, fun v => v = if sat && (x a).toInt == -2 ^ 31 then w32 (2 ^ 31 - 1) else w32 (-(x a).toInt))
  | .tlog h d a b c tt => some (h, d, fun v => ∀ k < 32,
      v.getLsbD k = tt.getLsbD (((x a).getLsbD k).toNat + 2 * ((x b).getLsbD k).toNat + 4 * ((x c).getLsbD k).toNat))
  | .tlogi h d a imm tt => some (h, d, fun v => ∀ k < 32,
      v.getLsbD k = tt.getLsbD (((x a).getLsbD k).toNat + 2 * ((imm.signExtend 32).getLsbD k).toNat))
  | .shl h d a b => some (h, d, fun v => v = if 32 ≤ (x b).toNat then 0 else w32 ((x a).toNat * 2 ^ (x b).toNat))
  | .shli h d a amt => some (h, d, fun v => v = w32 ((x a).toNat * 2 ^ amt.toNat))
  | .shr h d a b => some (h, d, fun v => v.toNat = (x a).toNat / 2 ^ (x b).toNat)
  | .shri h d a amt => some (h, d, fun v => v.toNat = (x a).toNat / 2 ^ amt.toNat)
  | .sar h d a b => some (h, d, fun v => ∀ k < 32, v.getLsbD k = if k + (x b).toNat < 32 then (x a).getLsbD (k + (x b).toNat) else (x a).getLsbD 31)
  | .sari h d a amt => some (h, d, fun v => ∀ k < 32, v.getLsbD k = if k + amt.toNat < 32 then (x a).getLsbD (k + amt.toNat) else (x a).getLsbD 31)
  | .fshf h d a b c r => some (h, d, fun v =>
      let n := ((x c).extractLsb' 0 5).toNat
      v = if r then ((x b ++ x a) >>> n).extractLsb' 0 32 else ((x b ++ x a) <<< n).extractLsb' 32 32)
  | .popc h d a => some (h, d, fun v => v.toNat = ((List.range 32).filter fun k => (x a).getLsbD k).length)
  | .clz h d a => some (h, d, fun v => v.toNat ≤ 32 ∧ (∀ k < v.toNat, (x a).getLsbD (31 - k) = false) ∧ (v.toNat < 32 → (x a).getLsbD (31 - v.toNat) = true))
  | .brev h d a => some (h, d, fun v => ∀ k < 32, v.getLsbD k = (x a).getLsbD (31 - k))
  | .bfx h d a b sx => some (h, d, fun v => ∀ k < 32,
      let src := fun j => if j < 32 then (x a).getLsbD j else sx && (x a).getLsbD 31
      let len := fieldLen (x b)
      v.getLsbD k = if len = 0 then false else if k < len then src (fieldPos (x b) + k) else sx && src (fieldPos (x b) + len - 1))
  | .bfi h d a b c => some (h, d, fun v => ∀ k < 32,
      v.getLsbD k = if fieldPos (x c) ≤ k ∧ k < fieldPos (x c) + fieldLen (x c) then (x a).getLsbD (k - fieldPos (x c)) else (x b).getLsbD k)
  | .iclamp h d a b c u => some (h, d, fun v => su u v = min (max (su u (x a)) (su u (x b))) (su u (x c)))
  | .idot4 h d a b c ua ub sat => some (h, d, fun v =>
      let sum := (x c).toInt + byteOf ua (x a) 0 * byteOf ub (x b) 0 + byteOf ua (x a) 1 * byteOf ub (x b) 1 +
        byteOf ua (x a) 2 * byteOf ub (x b) 2 + byteOf ua (x a) 3 * byteOf ub (x b) 3
      v = w32 (if sat then clamp sum (-2 ^ 31) (2 ^ 31 - 1) else sum))
  | .crcw h d a b sz => some (h, d, fun v => v = match sz with
      | .w => Nat.repeat crcBit 32 (x a ^^^ x b)
      | .b => Nat.repeat crcBit 8 (x a ^^^ ((x b).extractLsb' 0 8).setWidth 32)
      | .h => Nat.repeat crcBit 16 (x a ^^^ ((x b).extractLsb' 0 16).setWidth 32))
  | .mov h d a => some (h, d, fun v => v = x a)
  | .movi h d imm => some (h, d, fun v => v = imm)
  | .sel h d a b c => some (h, d, fun v => v = if p c then x a else x b)
  | .p2v h d => some (h, d, fun v => v = pred.setWidth 32)
  | _ => none

/-- What a short instruction that writes a pair writes, modulo 2^64 (R158). -/
def pairRule (i : Instr) (x : VReg → Word) : Option (Hdr × VReg × Int) :=
  let pair := fun r : VReg => (x (r + 1) ++ x r)
  match i with
  | .imadw h d a b c u => some (h, d, su u (x a) * su u (x b) + (pair c).toNat)
  | .iadd64 h d a b => some (h, d, (pair a).toNat + (pair b).toNat)
  | .lea64 h d a b sx sh => some (h, d, (pair a).toNat + (if sx then (x b).toInt else (x b).toNat) * 2 ^ sh.toNat)
  | _ => none

/-- COND of R159 and R163 over an order; none: some operand is a NaN, and nan is the outcome. -/
def condRule (c : Cond) (nan : Bool) (o : Option Ordering) : Bool :=
  match o with
  | none => nan
  | some o => match c with
    | .eq => o == .eq | .ne => o != .eq | .lt => o == .lt | .le => o != .gt | .gt => o == .gt | .ge => o != .lt
/-- BOP of R159. -/
def bopRule (o : Bop) (a b : Bool) : Bool := match o with | .and => a && b | .or => a || b | .xor => Bool.xor a b
/-- Lane k of a word in a 16-bit format (R162). -/
def lane (bf : Bool) (w : Word) (k : Nat) : Fl := (if bf then ffb16 else ff16).dec (w.extractLsb' (16 * k) 16).toNat

/-- What a short instruction that writes a predicate writes (R159, R162, R163, R167). -/
def predRule (i : Instr) (x : VReg → Word) (p : PReg → Bool) : Option (Hdr × PReg × Bool) :=
  match i with
  | .isetp h d a b c cond u bop => some (h, d, bopRule bop (condRule cond false (some (compare (su u (x a)) (su u (x b))))) (p c))
  | .isetpi h d a imm cond u => some (h, d, condRule cond false (some (compare (su u (x a)) (su u (imm.signExtend 32)))))
  | .fsetp h d a b c cond u bop => some (h, d, bopRule bop (condRule cond u ((f32 (x a)).cmp (f32 (x b)))) (p c))
  | .hsetp2 h d a b c cond u bop bf any =>
    let t := fun k => condRule cond u ((lane bf (x a) k).cmp (lane bf (x b) k))
    some (h, d, bopRule bop (if any then t 0 || t 1 else t 0 && t 1) (p c))
  | .plop h d pa pb pc tt => some (h, d, tt.getLsbD ((p pa).toNat + 2 * (p pb).toNat + 4 * (p pc).toNat))
  | _ => none

/-! ### Floating point (R143-R145, R161-R166) -/

/-- A lane of a floating-point instruction: the operands, and the exact result before rounding. -/
abbrev FpLane := List Fl × Fl

/-- The floating-point instructions that R145 governs: header, destination, layout and direction of the rounding, lanes from bit 0 on (R161, R162,
R165). -/
def fpRule (i : Instr) (x : VReg → Word) : Option (Hdr × VReg × FF × Rm × List FpLane) :=
  let two := fun (bf : Bool) (f : Nat → FpLane) => ((if bf then ffb16 else ff16), [f 0, f 1])
  match i with
  | .fadd h d a b rm nb => let y := if nb then (f32 (x b)).neg else f32 (x b); some (h, d, ff32, rm, [([f32 (x a), f32 (x b)], (f32 (x a)).add rm y)])
  | .faddi h d a imm => some (h, d, ff32, .rn, [([f32 (x a), f32 imm], (f32 (x a)).add .rn (f32 imm))])
  | .fmul h d a b rm => some (h, d, ff32, rm, [([f32 (x a), f32 (x b)], (f32 (x a)).mul (f32 (x b)))])
  | .fmuli h d a imm => some (h, d, ff32, .rn, [([f32 (x a), f32 imm], (f32 (x a)).mul (f32 imm))])
  | .ffma h d a b c rm np nc =>
    let m := (f32 (x a)).mul (f32 (x b))
    some (h, d, ff32, rm, [([f32 (x a), f32 (x b), f32 (x c)], (if np then m.neg else m).add rm (if nc then (f32 (x c)).neg else f32 (x c)))])
  | .hadd2 h d a b rm bf =>
    let r := two bf fun k => ([lane bf (x a) k, lane bf (x b) k], (lane bf (x a) k).add rm (lane bf (x b) k)); some (h, d, r.1, rm, r.2)
  | .hmul2 h d a b rm bf =>
    let r := two bf fun k => ([lane bf (x a) k, lane bf (x b) k], (lane bf (x a) k).mul (lane bf (x b) k)); some (h, d, r.1, rm, r.2)
  | .hfma2 h d a b c rm bf =>
    let r := two bf fun k => ([lane bf (x a) k, lane bf (x b) k, lane bf (x c) k], ((lane bf (x a) k).mul (lane bf (x b) k)).add rm (lane bf (x c) k))
    some (h, d, r.1, rm, r.2)
  | .cvtif h d a rm src dst =>
    let n : Int := match src with
      | .i32 => (x a).toInt | .u32 => (x a).toNat | .i8 => ((x a).extractLsb' 0 8).toInt | .u8 => ((x a).extractLsb' 0 8).toNat
    some (h, d, FFmtFF dst, rm, [([.ofInt n], .ofInt n)])
  | .cvtff h d a rm src dst =>
    let y := (FFmtFF src).dec ((x a).toNat % 2 ^ FFmtBits src)
    some (h, d, FFmtFF dst, rm, [([y], y)])
  | _ => none

/-- The FPTE bit that a lane's condition names, if one is met (R145): OVF, or INV. -/
def condMet (F : FF) (rm : Rm) (l : FpLane) : Option Nat :=
  let out := F.dec (roundF F rm l.2)
  if out.isNan && !l.1.any Fl.isNan then some 0
  else if out.isInf && l.1.all Fl.isFin then some 2
  else none
/-- The first enabled condition of an instruction's lanes (R145, R162). -/
def trapMet (fpte : Dword) (F : FF) (rm : Rm) (ls : List FpLane) : Option Nat :=
  ls.findSome? fun l => (condMet F rm l).filter fun k => fpte.getLsbD k
/-- The word of the rounded lanes (R162, R165). -/
def fpWord (F : FF) (rm : Rm) (ls : List FpLane) : Word :=
  match ls with
  | [l] => BitVec.ofNat 32 (roundF F rm l.2)
  | [l, m] => BitVec.ofNat 32 (roundF F rm l.2 + 2 ^ 16 * roundF F rm m.2)
  | _ => 0

/-- The floating-point instructions that meet no condition (R143, R161, R164-R166). -/
def fpPlain (i : Instr) (x : VReg → Word) : Option (Hdr × VReg × (Word → Prop)) :=
  let pick := fun (a b v : Word) (bad : Fl → Fl → Bool) =>
    if (f32 a).isNan then v = (if (f32 b).isNan then 0x7FC00000#32 else b)
    else if (f32 b).isNan then v = a
    else (v = a ∨ v = b) ∧ bad (f32 a) (f32 v) = false ∧ bad (f32 b) (f32 v) = false
  match i with
  | .fmin h d a b => some (h, d, fun v => pick (x a) (x b) v fun y z => y.below z)
  | .fmax h d a b => some (h, d, fun v => pick (x a) (x b) v fun y z => z.below y)
  | .frnd h d a rm => some (h, d, fun v => match f32 (x a) with
      | .nan => v = 0x7FC00000#32
      | .inf _ => v = x a
      | .fin s m e => if m = 0 then v = x a else
          let q := ratio m e
          (f32 v).sign = s ∧ (f32 v).cmp (.ofInt (roundInt rm s q.1 q.2)) = some .eq)
  | .fclass h d a => some (h, d, fun v => ∃ k, v = BitVec.ofNat 32 (2 ^ k) ∧ match f32 (x a) with
      | .nan => k = if (x a).getLsbD 22 then 9 else 8
      | .inf s => k = if s then 0 else 7
      | .fin s m _ => k = if m = 0 then (if s then 3 else 4) else if m < 2 ^ 23 then (if s then 2 else 5) else (if s then 1 else 6))
  | .cvtfi h d a rm src dst => some (h, d, fun v =>
      let lo : Int := match dst with | .i32 => -2 ^ 31 | .u32 => 0 | .i8 => -2 ^ 7 | .u8 => 0
      let hi : Int := match dst with | .i32 => 2 ^ 31 - 1 | .u32 => 2 ^ 32 - 1 | .i8 => 2 ^ 7 - 1 | .u8 => 2 ^ 8 - 1
      v = match (FFmtFF src).dec ((x a).toNat % 2 ^ FFmtBits src) with
        | .nan => 0
        | .inf s => w32 (if s then lo else hi)
        | .fin s m e => let q := ratio m e; w32 (clamp (roundInt rm s q.1 q.2) lo hi))
  | .cvtt h d a sc tf6 dec => some (h, d, fun v =>
      let n := if tf6 then 6 else 8
      if dec then v = BitVec.ofNat 32 (roundF ff32 .rn (tfDecode n ((x a).toNat % 2 ^ n) sc.toInt))
      else v = BitVec.ofNat 32 (tfEncode n (f32 (x a)) sc.toInt).bits)
  | _ => none

/-- The special functions (R144): header, destination, source, its value, and whether DZ applies (R145). -/
def sfuRule (i : Instr) (x : VReg → Word) : Option (Hdr × VReg × Word × (Nat → Nat) × Bool) :=
  match i with
  | .frcp h d a => some (h, d, x a, frcpBits, true)
  | .frsq h d a => some (h, d, x a, frsqBits, true)
  | .fex2 h d a => some (h, d, x a, fex2Bits, false)
  | .flg2 h d a => some (h, d, x a, flg2Bits, true)
  | .fsin h d a => some (h, d, x a, fsinBits, false)
  | .fcos h d a => some (h, d, x a, fcosBits, false)
  | _ => none
/-- The condition that a special function meets (R145). -/
def sfuMet (dz : Bool) (x v : Nat) : Option Nat :=
  if dz && (ff32.dec x).isZero then some 1
  else if (ff32.dec v).isNan && !(ff32.dec x).isNan then some 0
  else if (ff32.dec v).isInf && (ff32.dec x).isFin then some 2
  else none

/-! ### Memory (R4, R263-R276) -/

/-- A loaded value of n bytes as its destination takes it (R263). -/
def loaded (sx : Bool) (n v : Nat) : Nat :=
  if sx && decide (n ≤ 2) then ((BitVec.ofNat (8 * n) v).signExtend 32).toNat else v
/-- Base plus scaled offset, modulo 2^64 (R265). -/
def effAddr (base : Dword) (off : BitVec 14) (n : Nat) : Nat := (base + off.signExtend 64 * BitVec.ofNat 64 n).toNat
/-- Signed comparison at a width. -/
def below (ty : ATy) (w x y : Nat) : Bool :=
  match ty with | .signed => decide ((BitVec.ofNat w x).toInt < (BitVec.ofNat w y).toInt) | _ => decide (x < y)
/-- AtomicNew (R273) on w-bit values. -/
def atomRule (op : AOp) (ty : ATy) (w old x : Nat) : Nat :=
  match op, ty with
  | .add, .fp32 => rne ff32 ((ff32.dec old).add .rn (ff32.dec x))
  | .min, .fp32 => minMaxNum ff32 false old x
  | .max, .fp32 => minMaxNum ff32 true old x
  | .add, _ => (old + x) % 2 ^ w
  | .min, ty => if below ty w x old then x else old
  | .max, ty => if below ty w old x then x else old
  | .and, _ => old &&& x
  | .or, _ => old ||| x
  | .xor, _ => old ^^^ x
  | .exch, _ => x
  | .inc, _ => if x ≤ old then 0 else old + 1
  | .dec, _ => if old = 0 ∨ x < old then x else old - 1
/-- The bytes of [pa, pa + n) hold the low n bytes of v for a core, and every other byte is as it was. -/
def Stored (s s' : State) (c pa n v : Nat) : Prop :=
  ∀ a, s'.backed c a = if pa ≤ a ∧ a < pa + n then BitVec.ofNat 8 (v >>> (8 * (a - pa))) else s.backed c a
/-- No byte that the device holds for a core has changed. -/
def Unstored (s s' : State) (c : Nat) : Prop := ∀ a, s'.backed c a = s.backed c a

/-- A 64-bit half at a physical address as a load reads it (R270, R271). -/
def halfAt (s : State) (t : TRef) (f : Flg) (m : MemF) (a : Nat) : Nat :=
  if f.acq ∧ m.scope ≠ .blk then s.backedN t.core a 8 else s.seen t.core a 8

/-! ### Rendezvous (R169-R175) -/

/-- A lane of a thread's warp. -/
def laneRef (t : TRef) (l : Nat) : TRef := { t with lane := l }
/-- A cross-lane instruction or WSYNC: its header, opcode and mask register (R172-R175). -/
def arriveRule (i : Instr) : Option (Hdr × Nat × VReg) :=
  match i with
  | .lxch h _ _ _ c _ _ => some (h, 0x44, c)
  | .pjoin h _ _ b _ => some (h, 0x45, b)
  | .pmask h _ _ b => some (h, 0x46, b)
  | .leqm h _ _ b => some (h, 0x47, b)
  | .wscan h _ _ b _ _ _ => some (h, 0x48, b)
  | .wred h _ _ b _ _ => some (h, 0x49, b)
  | .wsync h a => some (h, 0x4D, a)
  | _ => none
/-- The effective mask: the mask register with the thread's own lane (R169). -/
def effMask (s : State) (t : TRef) (m : VReg) : Nat := (s.rv t m ||| 1#32 <<< t.lane).toNat
/-- A thread has arrived with an effective mask at an opcode, and at a PC unless it is WSYNC (R169). -/
structure Arrived (th : Thread) (m opc : Nat) (pc : Dword) : Prop where
  st : th.st = .arrived
  wait : ∃ x, th.wait = some x ∧ x.kind = .rendezvous ∧ x.mask = m ∧ x.opc = opc ∧ x.addr = th.pc
  pc : opc = 0x4D ∨ th.pc = pc
  unbound : th.binds = []
/-- Every other member of a mask has exited or has arrived alike (R169). -/
def OthersArrived (w : Warp) (l m opc : Nat) (pc : Dword) : Prop :=
  ∀ k th, k ≠ l → m.testBit k = true → w.threads[k]? = some th → th.st = .exited ∨ Arrived th m opc pc
/-- The arrival set A of R169 in increasing home lane: the members that have not exited. -/
def arrivalSet (w : Warp) (l m : Nat) : List Nat :=
  (List.range w.threads.length).filter fun k => m.testBit k && (k == l || (w.threads[k]?).any fun th => th.st != .exited)
/-- What thread l of an arrival set A receives, from the registers x and the predicates p of the lanes (R172, R173, R175): the condition on a
register, or a predicate's value. -/
def meetRule (i : Instr) (x : Nat → VReg → Word) (p : Nat → PReg → Bool) (A : List Nat) (l : Nat) : Option (Option (VReg × (Word → Prop)) × Option (PReg × Bool)) :=
  match i with
  | .lxch _ d a b _ mode wl =>
    let W := 32 / 2 ^ wl.toNat
    let base := l - l % W
    let n := (x l b).toNat
    let j := match mode with
      | .abs => some (base + n % W)
      | .lo => if n ≤ l - base then some (l - n) else none
      | .hi => if n + l < base + W then some (l + n) else none
      | .flip => some (l ^^^ (n % W))
    some (some (d, fun v => v = match j with | some j => if j ∈ A then x j a else x l a | none => x l a), none)
  | .pjoin _ q pa _ mode => some (none, some (q, match mode with
      | .any => decide (∃ k ∈ A, p k pa = true)
      | .all => decide (∀ k ∈ A, p k pa = true)
      | .same => decide (∀ k ∈ A, p k pa = p l pa)))
  | .pmask _ d pa _ => some (some (d, fun v => ∀ k < 32, v.getLsbD k = (decide (k ∈ A) && p k pa)), none)
  | .leqm _ d a _ => some (some (d, fun v => ∀ k < 32, v.getLsbD k = (decide (k ∈ A) && x k a == x l a)), none)
  | .wsync _ _ => some (none, none)
  | _ => none
/-- Op of R174. -/
def scanOp (op : WsOp) (ty : WsTy) (r x : Word) : Word :=
  match op, ty with
  | .add, .f32 => BitVec.ofNat 32 (rne ff32 ((f32 r).add .rn (f32 x)))
  | .min, .f32 => BitVec.ofNat 32 (minMaxNum ff32 false r.toNat x.toNat)
  | .max, .f32 => BitVec.ofNat 32 (minMaxNum ff32 true r.toNat x.toNat)
  | .add, _ => r + x
  | .min, .i32 => BitVec.ofInt 32 (min r.toInt x.toInt)
  | .max, .i32 => BitVec.ofInt 32 (max r.toInt x.toInt)
  | .min, .u32 => BitVec.ofNat 32 (min r.toNat x.toNat)
  | .max, .u32 => BitVec.ofNat 32 (max r.toNat x.toNat)
/-- Identity of R174. -/
def scanId (op : WsOp) (ty : WsTy) : Word :=
  match op, ty with
  | .add, _ => 0
  | .min, .i32 => 0x7FFFFFFF | .min, .u32 => 0xFFFFFFFF | .min, .f32 => 0x7F800000
  | .max, .i32 => 0x80000000 | .max, .u32 => 0 | .max, .f32 => 0xFF800000
/-- Fold of R174, from the lowest lane on; of no values the identity; a NaN result is the canonical one (R142). -/
def scanFold (op : WsOp) (ty : WsTy) (xs : List Word) : Word :=
  match xs with | [] => scanId op ty | x :: xs => xs.foldl (scanOp op ty) (if ty = .f32 ∧ (f32 x).isNan then 0x7FC00000 else x)
/-- WSCAN and WRED (R174): destination, and what thread l of A receives. -/
def foldRule (i : Instr) (x : Nat → VReg → Word) (A : List Nat) (l : Nat) : Option (VReg × Word) :=
  match i with
  | .wscan _ d a _ op excl ty => some (d, scanFold op ty ((A.filter fun k => if excl then k < l else k ≤ l).map fun k => x k a))
  | .wred _ d a _ op ty => some (d, scanFold op ty (A.map fun k => x k a))
  | _ => none

/-! ### Control (R177) -/

/-- A transfer: header, whether it links, target (R177). -/
def transferRule (i : Instr) (pair : VReg → Dword) (pc : Dword) : Option (Hdr × Bool × Dword) :=
  match i with
  | .bra h off => some (h, false, pc + 8 * off.signExtend 64)
  | .brx h a => some (h, false, pair a)
  | .call h off => some (h, true, pc + 8 * off.signExtend 64)
  | .callx h a => some (h, true, pair a)
  | .ret h a => some (h, false, pair a)
  | _ => none

/-! ### System registers (R148, R389, R390) -/

/-- A system register as a thread reads it (R390), those of the debug unit apart. -/
def sysRule (s : State) (b : Block) (th : Thread) (n : Nat) : Option Dword :=
  if n = 0x10 then some (BitVec.ofNat 64 Config.feat0)
  else if n = 0x11 then some (BitVec.ofNat 64 Config.feat1)
  else if n = 0x20 then some (s.reg tsliceKey)
  else if n = 0x30 then some b.tstat
  else if n = 0x31 then some b.fpte
  else if n = 0x32 then some (s.reg (fptKey b.ctx))
  else if 0x40 ≤ n ∧ n ≤ 0x47 then some (SMap.get th.h (n - 0x40) 0)
  else if 0x120 ≤ n ∧ n ≤ 0x12F then
    let r := b.ring (n - 0x120)
    some (if r.cfg then BitVec.ofNat 64 (r.rbase + r.lsize * 2 ^ 22 + 2 ^ 31) else 0)
  else if 0x130 ≤ n ∧ n ≤ 0x13F then
    let r := b.ring (n - 0x130)
    some (r.tail ++ r.head)
  else if 0x400 ≤ n ∧ n ≤ 0x41F then some ((SMap.get th.regs (n - 0x400) 0).setWidth 64)
  else none
/-- What SYSW of a word does to a register of R390 of its thread, block or device beyond its own PC: the low half, or with hi the high half. -/
def sysEffect (t : TRef) (b : Block) (n : Nat) (hi : Bool) (x : Word) (s : State) : Option State :=
  let upd := fun (f : Block → Block) => s.modBlock t.core t.slot f
  if n = 0x30 then some (upd fun b => { b with tstat := if hi then b.tstat else b.tstat &&& ~~~(x.setWidth 64 &&& 0x1F) })
  else if n = 0x31 then some (upd fun b => { b with fpte := if hi then b.fpte &&& 7 else x.setWidth 64 &&& 7 })
  else if n = 0x20 then some (s.setReg tsliceKey (if hi then (s.reg tsliceKey).setWidth 32 |>.setWidth 64 else x.setWidth 64))
  else if n = 0x32 then some (s.setReg (fptKey b.ctx) (if hi then (s.reg (fptKey b.ctx)).setWidth 32 |>.setWidth 64 else x.setWidth 64))
  else if 0x40 ≤ n ∧ n ≤ 0x47 then some (s.modThread t fun th => { th with h := SMap.put th.h (n - 0x40) (putHalf hi (SMap.get th.h (n - 0x40) 0) x) })
  else if 0x400 ≤ n ∧ n ≤ 0x41F then some (if hi then s else s.modThread t fun th => { th with regs := SMap.putD th.regs (n - 0x400) 0 x })
  else if n < 0x200 then some s
  else none

/-! ### Scratchpad, remote and object accesses (R264-R266, R272, R275, R277, R333) -/

/-- A scratchpad access: header, byte address, bytes, destination, value to store from the old value (R265, R272, R275). -/
def spadRule (i : Instr) (x : VReg → Word) (grp : VReg → Nat → Nat) : Option (Hdr × Nat × Nat × Option (VReg × Nat × (Nat → Nat)) × Option (Nat → Nat)) :=
  let at' := fun (a : VReg) (off : BitVec 14) (n : Nat) => (x a + off.signExtend 32 * BitVec.ofNat 32 n).toNat
  match i with
  | .lds h d a f m => some (h, at' a m.off m.sz.bytes, m.sz.bytes, some (d, m.sz.regs, loaded f.sx m.sz.bytes), none)
  | .sts h a b _ m => some (h, at' a m.off m.sz.bytes, m.sz.bytes, none, some fun _ => grp b m.sz.regs)
  | .atoms h d a b m => some (h, (x a).toNat, m.sz.bytes, some (d, m.sz.regs, fun old => old),
      some fun old => atomRule m.op m.ty (8 * m.sz.bytes) old (grp b m.sz.regs))
  | _ => none
/-- As GoesOnLong, for an instruction that touches only its block's scratchpad: the n bytes at x become v. -/
def GoesOnSpad (i : Instr) (s : State) (t : TRef) (b : Block) (w : Warp) (th : Thread) (new : List Pend) (x n : Nat) (v : Option Nat) : Prop :=
  ∃ s1 b1 w1 sp, exec i s = .next (s1.modBlock t.core t.slot fun b => { b with spad := sp }) ∧
    Local s s1 t b w b1 w1 { th.went th (th.pc + 8) with pend := th.pend.map (fun p => { p with la := p.la - 1 }) ++ new } ∧ b1.traps = b.traps ∧
    Mem.wf sp ∧ ∀ a, Mem.get sp a = match v with
      | some v => if x ≤ a ∧ a < x + n then BitVec.ofNat 8 (v / 2 ^ (8 * (a - x))) else Mem.get b.spad a
      | none => Mem.get b.spad a
/-- A remote instruction: header, destination, group, offset, fields, kind (0 RLD, 1 RST, 2 RATOM), data register, sign extension, acquire,
release (R277). -/
def remoteRule (i : Instr) : Option (Hdr × Option VReg × VReg × BitVec 14 × Sz × BitVec 4 × Nat × Option VReg × AtomF × Bool × Bool × Bool) :=
  match i with
  | .rld h d a f m => some (h, some d, a, m.off, m.sz, m.cls, 0, none, noAtom, f.sx, f.acq, false)
  | .rst h a b f m => some (h, none, a, m.off, m.sz, m.cls, 1, some b, noAtom, false, false, f.rel)
  | .ratom h d a b m => some (h, some d, a, 0, m.sz, m.cls, 2, some b, m, false, m.acq, m.rel)
  | _ => none
/-- An access of a thread to virtual memory that is checked first of all its effects: header, address, alignment (R265, R266, R333). -/
def vaRule (i : Instr) (pair : VReg → Dword) : Option (Hdr × Nat × Nat) :=
  match i with
  | .ld h _ a _ m => some (h, effAddr (pair a) m.off m.sz.bytes, m.sz.bytes)
  | .st h a _ _ m => some (h, effAddr (pair a) m.off m.sz.bytes, m.sz.bytes)
  | .atom h _ a _ m => some (h, (pair a).toNat, m.sz.bytes)
  | .red h a _ m => some (h, (pair a).toNat, m.sz.bytes)
  | .acas h _ a _ m => some (h, (pair a).toNat, if m.sz.bytes = 8 then 16 else m.sz.bytes)
  | .poll h _ a _ m => some (h, (pair a).toNat, m.sz.bytes)
  | .binit h a _ _ => some (h, (pair a).toNat, 32)
  | .barv h _ a _ => some (h, (pair a).toNat, 32)
  | .btx h a _ => some (h, (pair a).toNat, 32)
  | .bwait h a _ => some (h, (pair a).toNat, 32)
  | .btest h _ a _ => some (h, (pair a).toNat, 32)
  | .trnew h _ a _ _ => some (h, (pair a).toNat, 256)
  | .trres h _ a _ => some (h, (pair a).toNat, 256)
  | .trst h a _ _ _ _ => some (h, (pair a).toNat, 256)
  | .trcommit h _ a _ _ => some (h, (pair a).toNat, 256)
  | .trlen h _ a => some (h, (pair a).toNat, 256)
  | .trwait h _ a _ => some (h, (pair a).toNat, 256)
  | .trfork h _ a _ _ => some (h, (pair a).toNat, 256)
  | .trrel h _ a => some (h, (pair a).toNat, 256)
  | .launch h _ a _ => some (h, (pair a).toNat, 128)
  | _ => none
/-- Memory without compressible windows or poison, and no byte of a core's L1 dirty: what memory holds is what the core sees of it. -/
structure Quiet (s : State) (c : Nat) : Prop where
  noCw : s.hasCw = false
  clean : s.poison = []
  l1 : ∀ l ∈ (s.core c).l1, l.dirty = 0#128
  wf : Mem.wf s.mem
/-- Memory outside n bytes at an address is as it was. -/
def KeptOutside (m m' : Mem) (pa n : Nat) : Prop := ∀ a, ¬ (pa ≤ a ∧ a < pa + n) → Mem.get m' a = Mem.get m a
/-- The thread after a long-latency instruction has issued, with new pending destinations (R85). -/
def pended (th : Thread) (new : List Pend) : Thread :=
  { th.went th (th.pc + 8) with pend := th.pend.map (fun p => { p with la := p.la - 1 }) ++ new }
/-- The thread after an instruction at which it waits has issued. -/
def waits (th : Thread) (st : ThState) (x : Wait) : Thread :=
  { th with pend := th.pend.map (fun p => { p with la := p.la - 1 }), waited := 0, st := st, wait := some x }
/-- An instruction leaves its thread as th', memory as m', and else what Local and MemOnly say. -/
def Leaves (i : Instr) (s : State) (t : TRef) (b : Block) (w : Warp) (th' : Thread) (m' : Mem → Prop) : Prop :=
  ∃ s1 s' b' w', exec i s = .next s' ∧ Local s s1 t b w b' w' th' ∧ b'.traps = b.traps ∧ MemOnly s1 s' ∧ m' s'.mem
/-- An instruction whose checks read memory takes a cause: no memory changes before delivery. -/
def TakesCause (i : Instr) (s : State) (t : TRef) (c : Cause) : Prop :=
  ∃ s1, MemOnly (s.countIssue t) s1 ∧ s1.mem = s.mem ∧ exec i s = .next (s1.deliver t c false)

/-! ### Barrier objects, queues, trails (R334-R362) -/

/-- The fields of a barrier object (R334): PEND, EXPECT, ARRIVED, PHASE, BSCOPE, BFLAGS, PCAUSE. -/
def barOf (m : Mem) (pa : Nat) : List Nat :=
  [Mem.readN m pa 8, Mem.readN m (pa + 8) 4, Mem.readN m (pa + 0xC) 4, Mem.readN m (pa + 0x10) 4, Mem.readN m (pa + 0x14) 1, Mem.readN m (pa + 0x15) 1, Mem.readN m (pa + 0x16) 1]
/-- A well-formed barrier object without poison (R334): PEND p, EXPECT x, ARRIVED a, PHASE ph, BSCOPE sc, PCAUSE c. -/
def BarIs (m : Mem) (pa p x a ph sc c : Nat) : Prop :=
  barOf m pa = [p, x, a, ph, sc, 1, c] ∧ Mem.readN m (pa + 0x17) 9 = 0 ∧ sc ≤ 4 ∧ x ≠ 0
/-- A poisoned one. -/
def BarPoisoned (m : Mem) (pa : Nat) : Prop :=
  Mem.readN m (pa + 0x15) 1 = 3 ∧ Mem.readN m (pa + 0x17) 9 = 0 ∧ Mem.readN m (pa + 0x14) 1 ≤ 4 ∧ Mem.readN m (pa + 8) 4 ≠ 0
/-- No operation waits for room in a queue or ring (R350, R363, R286). -/
def NoneHeld (s : State) : Prop := ∀ b ∈ s.blocks, ∀ w ∈ b.warps, ∀ th ∈ w.threads, ∀ o ∈ th.held, o.kind ≠ .full
/-- No thread waits at an object (R339). -/
def NoWaiters (s : State) (pa : Nat) : Prop := s.waiters (fun w => w.kind == .bwait && w.mask == pa) = []
/-- A token has passed (R339). -/
def passed (ph tok : Nat) : Prop := 1 ≤ (ph + 2 ^ 32 - tok) % 2 ^ 32 ∧ (ph + 2 ^ 32 - tok) % 2 ^ 32 < 2 ^ 31
/-- A virtual address of a thread is aligned, and the translation buffer of its core holds a page that permits the access at a physical address. -/
structure Held (s : State) (t : TRef) (va align : Nat) (k : Acc) (pa : Nat) : Prop where
  canonical : canonical va = true
  aligned : va % align = 0
  page : ∃ e, (s.core t.core).tlb.find? (fun e => e.hits (s.ctxOf t) (va % 2 ^ 52)) = some e ∧ permits e.attr k = true ∧ e.pa (va % 2 ^ 52) = pa
/-- As Issues, for a thread that may have queues bound: no source field names a mapped register. -/
structure IssuesBound (i : Instr) (h : Hdr) (s : State) (t : TRef) (b : Block) (w : Warp) (th : Thread) : Prop where
  at_ : At s t b w th
  convoy : s.cur.threads = [t]
  first : s.cur.again = none
  ready : s.ready t i.laClass = true
  clear : s.clear t i = true
  running : th.st = .running
  priv : s.privBad b.ctx th i = false
  alloc : firstUnalloc w.alloc th.hmode i.fields = none
  window : lookBad i th = false
  words : s.regUe b t i = false
  guard : s.guard t h = true
  unmapped : ∀ f ∈ i.fields, f.dst = false → ∀ k < f.n, th.mapped (f.reg + BitVec.ofNat 8 k) = false
/-- A well-formed, open queue object (R347): QBASE, QCAP, PRODS, HEAD, TAIL. -/
def QueueIs (m : Mem) (pa base cap prods hd tl : Nat) : Prop :=
  Mem.readN m pa 8 = base ∧ Mem.readN m (pa + 8) 4 = cap ∧ Mem.readN m (pa + 0x10) 4 = prods ∧ Mem.readN m (pa + 0x18) 8 = hd ∧
  Mem.readN m (pa + 0x20) 8 = tl ∧ base % 64 = 0 ∧ (∃ k, 4 ≤ k ∧ k ≤ 20 ∧ cap = 2 ^ k) ∧ Mem.readN m (pa + 0xC) 1 ≤ 4 ∧ Mem.readN m (pa + 0xD) 1 = 0 ∧
  Mem.readN m (pa + 0xE) 2 = 0 ∧ Mem.readN m (pa + 0x14) 4 = 0 ∧ Mem.readN m (pa + 0x30) 16 = 0
/-- A committed slot (R354). -/
def slotDone (clen hw j : Nat) : Prop := j < clen ∨ j < clen + 256 ∧ hw.testBit (j - clen) = true
/-- A trail header in STATE 1 (R27): MAXLEN, CLEN, RLEN, HWMAP; what is committed is reserved. -/
def TrailIs (m : Mem) (pa maxlen clen rlen hw : Nat) : Prop :=
  Mem.readN m pa 4 = 1 ∧ Mem.readN m (pa + 8) 8 = maxlen ∧ Mem.readN m (pa + 0x10) 8 = clen ∧ Mem.readN m (pa + 0x18) 8 = rlen ∧ Mem.readN m (pa + 0x50) 32 = hw ∧
  clen ≤ rlen ∧ rlen ≤ maxlen ∧ maxlen < 2 ^ 62 ∧ hw % 2 = 0 ∧ ∀ k, slotDone clen hw k → k < rlen
/-- The address ranges of a list do not overlap. -/
def Apart (rs : List (Nat × Nat)) : Prop := rs.Pairwise fun x y => x.1 + x.2 ≤ y.1 ∨ y.1 + y.2 ≤ x.1
/-- The n bytes at a virtual address of a thread, aligned to n, in a page that its core's buffer holds, are a number. -/
def Reads (s : State) (t : TRef) (va n pa v : Nat) : Prop := Held s t va n .read pa ∧ Mem.readN s.mem pa n = v
/-- Memory outside some ranges is as it was. -/
def KeptBut (m m' : Mem) (rs : List (Nat × Nat)) : Prop := ∀ a, (∀ r ∈ rs, ¬ (r.1 ≤ a ∧ a < r.1 + r.2)) → Mem.get m' a = Mem.get m a
/-- The fields of a header that TRNEW and TRFORK write (R27): declaration e, block table, pool header, parent, length and fork flag. -/
def HeaderIs (m : Mem) (pa : Nat) (e : TrailE) (btab poolh parent len fork : Nat) : Prop :=
  TrailIs m pa e.maxlen len len 0 ∧ Mem.readN m (pa + 4) 4 = e.slotb ∧ Mem.readN m (pa + 0x20) 8 = btab ∧ Mem.readN m (pa + 0x28) 8 = poolh ∧
  Mem.readN m (pa + 0x30) 4 = e.bslots ∧ Mem.readN m (pa + 0x34) 1 = e.scope ∧ Mem.readN m (pa + 0x35) 1 = fork ∧ Mem.readN m (pa + 0x38) 8 = parent ∧
  Mem.readN m (pa + 0x40) 8 = len ∧ Mem.readN m (pa + 0x48) 8 = len
/-- A trail declaration within the fields of a header (R26). -/
def DeclFits (e : TrailE) : Prop :=
  e.slotb < 2 ^ 32 ∧ e.maxlen < 2 ^ 62 ∧ 0 < e.bslots ∧ e.bslots < 2 ^ 32 ∧ e.scope ≤ 4
/-- What an instruction leaves of its thread and memory, of the other threads and the registers of BAR0. -/
def LeavesThread (i : Instr) (s : State) (t : TRef) (th' : Thread) (post : State → Prop) : Prop :=
  ∃ s', exec i s = .next s' ∧ s'.thread? t = some th' ∧ (∀ u, u ≠ t → s'.thread? u = s.thread? u) ∧ post s'

/-! ### Slots of a bundle (R99, R112, R122, R185-R214) -/

/-- The bundle's task slot holds a block, and no second one (the invariant SlotsHoldOneBlock). -/
def SlotIs (s : State) (b : Block) : Prop :=
  s.block? s.cur.core s.cur.slot = some b ∧ ∀ x ∈ s.blocks, x.core = b.core → x.slot = b.slot → x = b
/-- A slot's instruction meets a fault at its bundle (R183). -/
def TileFaults (i : Instr) (s : State) (b : Block) (code info : Nat) : Prop :=
  exec i s = .next (s.tileFault b.core b.slot { causeOf code info b.tile.pc with tpc := b.tile.pc } false)
/-- A scalar instruction (R185): guard, destination, value from the scalars. -/
def scalarRule (i : Instr) (x : SReg → Dword) : Option (SGuard × SReg × Dword) :=
  match i with
  | .sadd g d a b => some (g, d, x a + x b)
  | .saddi g d a imm => some (g, d, x a + imm.signExtend 64)
  | .ssub g d a b => some (g, d, x a - x b)
  | .smul g d a b => some (g, d, BitVec.ofNat 64 ((x a).toNat * (x b).toNat))
  | .sand g d a b => some (g, d, x a &&& x b)
  | .sor g d a b => some (g, d, x a ||| x b)
  | .sxor g d a b => some (g, d, x a ^^^ x b)
  | .sshl g d a b => some (g, d, if 64 ≤ (x b).toNat then 0 else BitVec.ofNat 64 ((x a).toNat * 2 ^ (x b).toNat))
  | .sshr g d a b => some (g, d, BitVec.ofNat 64 ((x a).toNat / 2 ^ min (x b).toNat 64))
  | .ssar g d a b => some (g, d, BitVec.ofInt 64 ((x a).toInt / 2 ^ min (x b).toNat 63))
  | .smov g d a => some (g, d, x a)
  | .smovi g d imm => some (g, d, imm.signExtend 64)
  | .smoviLong g d imm => some (g, d, imm)
  | .scmp g d a b cond => some (g, d, if (match cond with
      | .eq => x a == x b | .ne => x a != x b | .lt => decide ((x a).toInt < (x b).toInt) | .le => decide ((x a).toInt ≤ (x b).toInt)
      | .ltu => decide ((x a).toNat < (x b).toNat) | .leu => decide ((x a).toNat ≤ (x b).toNat)) then 1 else 0)
  | .ssel g d a b c => some (g, d, if x c = 0 then x b else x a)
  | _ => none
/-- A transfer of the S slot (R187): guard, whether it is taken, target, link register. -/
def jumpRule (i : Instr) (x : SReg → Dword) (pc : Dword) : Option (SGuard × Bool × Dword × Option SReg) :=
  match i with
  | .sbr g a off => some (g, decide (x a ≠ 0), pc + 32 * off.signExtend 64, none)
  | .sjmp g off => some (g, true, pc + 32 * off.signExtend 64, none)
  | .scall g d off => some (g, true, pc + 32 * off.signExtend 64, some d)
  | .sret g a => some (g, true, x a &&& ~~~31#64, none)
  | _ => none
/-- The guard of an instruction of the S slot. -/
def sGuard (i : Instr) : Option SGuard :=
  match i with
  | .sadd g .. | .saddi g .. | .ssub g .. | .smul g .. | .sand g .. | .sor g .. | .sxor g .. | .sshl g .. | .sshr g .. | .ssar g .. | .smov g .. | .smovi g ..
  | .smoviLong g .. | .scmp g .. | .ssel g .. | .sld g .. | .sst g .. | .sbr g .. | .sjmp g .. | .scall g .. | .sret g .. | .loop g .. | .lbr g .. | .pcfg g ..
  | .fmtw g .. | .fmtwSel g .. | .waite g .. | .sfence g .. | .sysrd g .. | .trapt g .. | .rgate g .. => some g
  | _ => none
/-- The guard of an instruction of another slot. -/
def slotGuard (i : Instr) : Option SGuard :=
  match i with
  | .mnest g .. | .msrc g .. | .macc g .. | .mgo g .. | .mret g .. | .vmov g .. | .vadd g .. | .vsub g .. | .vmul g .. | .vfma g .. | .vmax g .. | .vmin g ..
  | .vexpd g .. | .vrcp g .. | .vcvt g .. | .vred g .. | .vscan g .. | .vcmp g .. | .vmsk g .. | .vsel g .. | .vtopk g .. | .vldix g .. | .vsacc g ..
  | .trn g .. | .trnc g .. | .cld g .. | .cst g .. | .cgat g .. | .cpre g .. | .cmc g .. | .csum g .. | .cring g .. | .xs2t g .. | .xt2s g .. => some g
  | _ => none
/-- Stage predicate j of pass k of a loop of c passes over the body and st stages (R127). -/
def stageOn (k c st j : Nat) : Bool := decide (j < st ∧ j ≤ k ∧ k < c + j)
/-- The lanes of a vector operand other than a port (R106, R205). -/
def opLanes (t : TileCtx) (o : VOp) : Option (Nat → Nat) :=
  match o with
  | .w n => some fun k => (SMap.get t.w n.toNat 0).toNat / 2 ^ (32 * k) % 2 ^ 32
  | .lit x => some fun _ => x.toNat
  | .wz => some fun _ => 0
  | _ => none
/-- What a V instruction does to its lanes. -/
structure VRule where
  g : SGuard
  d : VOp
  srcs : List VOp
  fmts : List (FSel × List Fmt)
  lat : Nat
  /-- result of lane i, from the formats in force with their scales and the lanes of the sources -/
  out : List (Fmt × Int) → List (Nat → Nat) → Nat → Nat
  /-- its results may set VNAN, beside the lanes themselves a NaN of this source sets it -/
  nan : List (Fmt × Int) → Bool
/-- FP32 lanes: one rounding of an exact value (R146). -/
def rn32 (x : Fl) : Nat := rne ff32 x
/-- The V instructions with a result per lane (R146, R147, R205, R207-R209). -/
def vecRule (i : Instr) (kv : SReg → Dword) : Option VRule :=
  let is := fun (fm : List (Fmt × Int)) => (fm.headD (.fp32, 0)).1 == .int32
  let src := fun (vs : List (Nat → Nat)) (k j : Nat) => vs.getD k (fun _ => 0) j
  let f := ff32.dec
  let two := fun (g : SGuard) (d a b : VOp) (fs : FSel) (fp int : Nat → Nat → Nat) =>
    some (⟨g, d, [a, b], [(fs, [.fp32, .int32])], 4, fun fm vs j => if is fm then int (src vs 0 j) (src vs 1 j) else fp (src vs 0 j) (src vs 1 j), fun fm => !is fm⟩ : VRule)
  let sgn := fun (x : Nat) => (BitVec.ofNat 32 x).toInt
  let word := fun (x : Int) => (x % 2 ^ 32).toNat
  let inc := fun (op : VrOp) (int : Bool) (x y : Nat) => match op with
    | .add => if int then (x + y) % 2 ^ 32 else rn32 ((f x).add .rn (f y))
    | .max => if int then word (max (sgn x) (sgn y)) else minMaxNan ff32 true x y
    | .min => if int then word (min (sgn x) (sgn y)) else minMaxNan ff32 false x y
  match i with
  | .vmov g d a => some ⟨g, d, [a], [], 4, fun _ vs j => src vs 0 j, fun _ => false⟩
  | .vadd g d a b fs => two g d a b fs (fun x y => rn32 ((f x).add .rn (f y))) (fun x y => (x + y) % 2 ^ 32)
  | .vsub g d a b fs => two g d a b fs (fun x y => rn32 ((f x).add .rn (f y).neg)) (fun x y => word (x - y))
  | .vmul g d a b fs => two g d a b fs (fun x y => rn32 ((f x).mul (f y))) (fun x y => x * y % 2 ^ 32)
  | .vmax g d a b fs => two g d a b fs (minMaxNan ff32 true) (fun x y => word (max (sgn x) (sgn y)))
  | .vmin g d a b fs => two g d a b fs (minMaxNan ff32 false) (fun x y => word (min (sgn x) (sgn y)))
  | .vfma g d a b c fs => some ⟨g, d, [a, b, c], [(fs, [.fp32])], 4, fun _ vs j => rn32 (((f (src vs 0 j)).mul (f (src vs 1 j))).add .rn (f (src vs 2 j))), fun _ => true⟩
  | .vexpd g d a b fs => some ⟨g, d, [a, b], [(fs, [.fp32])], 8, fun _ vs j => vexpdBits (src vs 0 j) (src vs 1 j), fun _ => true⟩
  | .vrcp g d a fs => some ⟨g, d, [a], [(fs, [.fp32])], 8, fun _ vs j => frcpBits (src vs 0 j), fun _ => true⟩
  | .vcmp g d a b cond fs => some ⟨g, d, [a, b], [(fs, [.fp32, .int32])], 4, fun fm vs j =>
      if condRule cond (cond == .ne) (if is fm then some (compare (sgn (src vs 0 j)) (sgn (src vs 1 j))) else (f (src vs 0 j)).cmp (f (src vs 1 j))) then 0xFFFFFFFF else 0,
      fun _ => false⟩
  | .vmsk g d a k fs => some ⟨g, d, [a], [(fs, [.fp32])], 4, fun _ vs j =>
      if ((kv k).extractLsb' 32 32).toNat + j < ((kv k).extractLsb' 0 32).toNat then (if (f (src vs 0 j)).isNan then ff32.nanBits else src vs 0 j) else 0xFF800000, fun _ => true⟩
  | .vsel g d a b c fs => some ⟨g, d, [a, b, c], [(fs, [.fp32, .int32])], 4, fun _ vs j => if src vs 2 j ≠ 0 then src vs 0 j else src vs 1 j, fun _ => false⟩
  | .vldix g ix a fs => some ⟨g, .ix ix, [a], [(fs, [.int32])], 4, fun _ vs j => src vs 0 j, fun _ => false⟩
  | .vred g d a op fs => some ⟨g, d, [a], [(fs, [.fp32, .int32])], 8, fun fm vs _ =>
      let c := inc op (is fm)
      let up := fun (h : Nat → Nat) (k : Nat) => c (h (2 * k)) (h (2 * k + 1))
      up (up (up (up (up (up (src vs 0)))))) 0, fun fm => !is fm⟩
  | .vscan g d a op excl fs => some ⟨g, d, [a], [(fs, [.fp32, .int32])], 8, fun fm vs j =>
      let c := inc op (is fm)
      let x0 := if !is fm && (f (src vs 0 0)).isNan then ff32.nanBits else src vs 0 0
      let fold := fun n => (List.range n).foldl (fun r k => c r (src vs 0 (k + 1))) x0
      if excl then (match j with
        | 0 => (match op with | .add => 0 | .max => if is fm then 0x80000000 else 0xFF800000 | .min => if is fm then 0x7FFFFFFF else 0x7F800000)
        | j + 1 => fold j) else fold j, fun fm => !is fm⟩
  | _ => none
/-- The format in force of a selector (R103, R128). -/
def inForce (t : TileCtx) (f : FSel) (x : Fmt × Int) : Prop :=
  match f with
  | .fmt y => x = (y, 0)
  | .table => let e := SMap.get t.ftab ((SMap.get t.lc t.fsel 0).toNat % 16) 0
    Fmt.ofCode (e.extractLsb' 0 4) = some x.1 ∧ x.2 = (e.extractLsb' 4 6).toInt
/-- The place of a vector result in flight (R205, R211). -/
def vecDest (d : VOp) : Option IDest := match d with | .w n => some (.vector n.toNat) | .ix n => some (.index n.toNat) | _ => none
/-- Lane j of 64 lanes as one number. -/
def laneAt (v j : Nat) : Nat := v / 2 ^ (32 * j) % 2 ^ 32
/-- What a landing result does to the tile context (R122, R124). -/
def landRule (f : InFlight) (t : TileCtx) : Option TileCtx :=
  match f.dest with
  | .scalar n => some { t with s := SMap.putD t.s n 0 (BitVec.ofNat 64 f.val) }
  | .vector n => some { t with w := SMap.putD t.w n 0 (BitVec.ofNat 2048 f.val) }
  | .index n => some { t with ix := SMap.putD t.ix n 0 (BitVec.ofNat 2048 f.val) }
  | .loop n => some { t with lc := SMap.putD t.lc n 0 (BitVec.ofNat 32 f.val) }
  | .sgs => some { t with sg := BitVec.ofNat 8 f.val }
  | .fsel => some { t with fsel := f.val % 8 }
  | .fmt n => some { t with ftab := SMap.putD t.ftab n 0 (BitVec.ofNat 10 f.val) }
  | .msrc => some { t with nest := { t.nest with msrc := BitVec.ofNat 33 f.val } }
  | .macc => some { t with nest := { t.nest with macc := BitVec.ofNat 33 f.val } }
  | .level n =>
    let x : Nest := ⟨BitVec.ofNat 16 f.val, BitVec.ofNat 32 (f.val / 2 ^ 16), BitVec.ofNat 32 (f.val / 2 ^ 48), BitVec.ofNat 32 (f.val / 2 ^ 80)⟩
    some { t with nest := { t.nest with lv := t.nest.lv.set n x } }
  | .pcfg n => some { t with ports := SMap.put t.ports n ⟨BitVec.ofNat 512 f.val, 0, if f.val.testBit 32 then 0 else 4⟩ }
  | .drop => some t
  | _ => none

/-! ### The C slot and the engines (R130-R132, R202-R204, R222-R227, R287-R303) -/

/-- A command that joins the copy queue: guard, fields, second record, class (R287, R290). -/
def copyRule (i : Instr) : Option (SGuard × CFld × Option Nat × Eng) :=
  match i with
  | .cld g c _ => some (g, c, none, .copy)
  | .cst g c _ => some (g, c, none, .copy)
  | .cpre g c _ => some (g, c, none, .copy)
  | .csum g c _ => some (g, c, none, .copy)
  | .cmc g c m => some (g, c, some m.tens2.toNat, .copy)
  | .cgat g c _ _ _ _ => some (g, c, none, .gather)
  | _ => none
/-- The state in which a command has read its records, and the records, the second 0 where it has none (R288). -/
def RecordsRead (s : State) (b : Block) (gr : Grid) (c : CFld) (t2 : Option Nat) (s' : State) (r1 r2 : Nat) : Prop :=
  ∃ s1 bs h, (if c.rel then s.release b.core .sys else s).recFetch b gr c.tens.toNat c.rel = .ok s1 bs h ∧ r1 = leNat bs ∧
    match t2 with
    | none => s' = s1 ∧ r2 = 0
    | some t => ∃ bs2 h2, s1.recFetch b gr t c.rel = .ok s' bs2 h2 ∧ r2 = leNat bs2
/-- What a command names when it issues: the scalars of its group in order from its first on. -/
def issued (i : Instr) (c : CFld) (t : TileCtx) (r1 r2 : Nat) : CIss := ⟨i, (List.range 13).map fun k => t.sv (c.sc + BitVec.ofNat 5 k), r1, r2, cmdEnts i t⟩
/-- A ring as CRING leaves it (R301). -/
def ringOfWord (v : Nat) : Ring := if v.testBit 31 then ⟨true, v / 2 ^ 22 % 2 ^ 4, v % 2 ^ 22, 0, 0, 0, [], [], []⟩ else ⟨false, 0, 0, 0, 0, 0, [], [], []⟩

/-- A write of n bytes at a physical address of the device memory meets no compressible window, poison or slice watchpoint, and no line of the core's L1. -/
structure PlainWrite (s : State) (c : Nat) : Prop where
  noCw : s.hasCw = false
  clean : s.poison = []
  noL1 : (s.core c).l1 = []
  noWatch : ∀ r ∈ s.regs, ¬ (0x40000 ≤ r.1 ∧ r.1 < 0x60000)
/-- An entry of a quad's table that may start; the numbers of the entries differ. -/
structure Entry (s : State) (q : Nat) (p : Pass) : Prop where
  mem : p ∈ (s.quad q).tab
  may : s.passMay p = true
  once : ∀ p' ∈ (s.quad q).tab, p'.id = p.id → p' = p
/-- The entry that the arbiter picks (R132), where no other has been passed over 8 times: the least priority value, and of those the oldest. -/
structure Picks (s : State) (q : Nat) (p : Pass) : Prop extends Entry s q p where
  least : ∀ p' ∈ (s.quad q).tab, p' ≠ p → s.passMay p' = true → p'.skip < 8 ∧ (p.prio < p'.prio ∨ p.prio = p'.prio ∧ p.age < p'.age)
/-- A virtual address lies on the 64 KiB page of a value of FBCANCEL or of another address (R256, R257). -/
def samePage (x y : Nat) : Prop := x / 2 ^ 16 % 2 ^ 36 = y / 2 ^ 16 % 2 ^ 36

/-! ### Launch queues and the dispatcher (R32-R74, R341, R404-R410, R438-R442) -/

/-- The operation of a record: 0 for a code above 3, which no operation has (R38). -/
def recOp (r : LRec) : Nat := let o := recN r.raw.toNat 0 4; if 3 < o then 0 else o
/-- Admission serves a queue's head record now: a first time by the event of its operation, or once it waited and need wait no longer (R46, R47). -/
def Serves (i : Instr) (s : State) (c q : Nat) (r : LRec) : Prop :=
  s.headRec c q = some r ∧ (∀ x ∈ (s.lq c q).recs, x.fin = none) ∧ recN r.raw.toNat 0x40 8 = 0 ∧ s.servesQ c q = true ∧
  ((r.waits = false ∧
      (recOp r = 0 ∧ i = .opLaunch c q ∨ recOp r = 1 ∧ i = .opRegister c q ∨ recOp r = 2 ∧ i = .opUnregister c q ∨ recOp r = 3 ∧ i = .opMarker c q)) ∨
   (r.waits = true ∧ s.recWaits c q r = false ∧ i = .admissionRetry c q))
/-- A record has completed with a status: it is no longer waiting or live, and its status is in the history (R43). -/
def RecordOver (s s' : State) (c q : Nat) (r : LRec) (status : Nat) : Prop :=
  (∀ x ∈ (s'.lq c q).recs, x.ring ≠ r.ring) ∧ r.ring ∉ (s'.lq c q).live ∧ (s'.lq c q).head = (s.lq c q).head ∧ (s'.lq c q).tail = (s.lq c q).tail ∧
  (((s.lq c q).head - 1 - BitVec.ofNat 32 r.ring).toNat ≤ 1023 → SMap.get? (s'.lq c q).hist r.ring = some status)
/-- Task slot k of core c is free. -/
def SlotFree (s : State) (c k : Nat) : Prop := s.block? c k = none

/-! ### Debugger, host, links, clocks, checkpoint (R238, R306, R311, R403, R412-R429, R445-R466) -/

/-- A context frozen by a wave: its state is 1 and every block of it is frozen; every byte of memory is as it was but for trace records. -/
def Frozen (s' : State) (c : Nat) : Prop := s'.rbState c = 1 ∧ ∀ b ∈ s'.blocks, b.ctx = c → b.state = .frozen
/-- A HEAD register that a write moves only forward and up to its tail (R255, R445, R447). -/
def headTo (s : State) (r t v : Nat) : State :=
  if (v % 2 ^ 32 + 2 ^ 32 - s.regN r) % 2 ^ 32 ≤ (t + 2 ^ 32 - s.regN r) % 2 ^ 32 then s.setReg r (BitVec.ofNat 64 (v % 2 ^ 32)) else s
/-- Physical bytes that BAR2 reaches for a function (R448): of the device's own memory, outside the safe tier. -/
def BarReaches (s : State) (fn addr n : Nat) (a : Nat) : Prop := s.bar2 fn addr n = some a ∧ s.hasCw = false ∧ s.poison = []
/-- A register of BAR0 whose write is a step of its own: context's window offset and step (R33-R36, R255-R258, R311, R403, R424, R447). -/
def OwnStep (c off : Nat) (v : Dword) (i : Instr) : Prop :=
  (off = 0x218 ∧ i = .fbEnable c v) ∨ (off = 0x220 ∧ i = .fbheadWrite c v) ∨ (off = 0x230 ∧ i = .replayAll c v) ∨ (off = 0x238 ∧ i = .fbcancel c v) ∨
    (off = 0x248 ∧ (v.toNat % 4 = 0 ∧ i = .tlbInvalidateRange c ∨ v.toNat % 4 = 1 ∧ i = .tlbInvalidateContext c)) ∨ (off = 0x288 ∧ i = .fspill c v) ∨
    (off = 0x2A0 ∧ i = .profheadWrite c v) ∨ (off = 0x308 ∧ i = .xrEnable c 0 v) ∨ (off = 0x1018 ∧ i = .lqDoorbell c 0 v) ∨
    (off = 0xC00 ∧ (v.toNat % 4 = 1 ∧ i = .resume c (v.toNat / 2 ^ 32) ∨ v.toNat % 4 = 2 ∧ i = .step c ∨ v.toNat % 4 = 3 ∧ i = .trigger c))

/-! ### Encodings (R75, R81, R97, R110) and the picker (R117) -/

/-- The word of a thread instruction by R75's fields. -/
def word75 (opc : BitVec 8) (la : BitVec 4) (pn : BitVec 1) (pg : BitVec 3) (dst sa : BitVec 8) (low : BitVec 32) : BitVec 64 := opc ++ la ++ pn ++ pg ++ dst ++ sa ++ low
/-- The layouts of R134 that the machine rounds to. -/
def layouts : List FF := [ff32, ff16, ffb16]
/-- What the threads of a convoy share (R117): each can issue, at the same PC, of the same context and mode, one for each home lane. -/
def ConvoyOk (s : State) (core : Nat) (lead : Pick) (ts : List TRef) : Prop :=
  (∀ t ∈ ts, ∃ p : Pick, p ∈ s.picks core ∧ p.t = t ∧ p.pc = lead.pc ∧ p.ctx = lead.ctx ∧ p.hm = lead.hm) ∧ ts.Pairwise fun x y => x.lane ≠ y.lane

end Sys2Proof.Rules

open Sys2Proof Sys2Proof.Machine Sys2Proof.Rules

/-! ### Encodings and numbers -/

/-- R75-R83, R93-R110: a well-formed instruction that some word encodes is what its own words decode to. -/
def Obligations.DecodingUndoesEncoding : Prop := ∀ i : Instr, i.wf = true → encode i ≠ .event → decode (encode i) = .ok i

/-- R81: the low 32 bits of BRA and CALL are a signed offset in units of 8 bytes from the branch itself, an offset of 0 goes to the branch itself, and a word
whose DST or SA is not zero is refused. -/
def Obligations.BranchFormat : Prop :=
  (∀ pn pg dst sa (off : BitVec 32), ¬ (pn = 1#1 ∧ pg = 7#3) →
    decodeThread (word75 0xA0#8 0#4 pn pg dst sa off) = (if dst = 0 ∧ sa = 0 then .ok (.bra ⟨0, pn == 1#1, pg⟩ off) else .error .illegalEncoding) ∧
    decodeThread (word75 0xA2#8 0#4 pn pg dst sa off) = (if dst = 0 ∧ sa = 0 then .ok (.call ⟨0, pn == 1#1, pg⟩ off) else .error .illegalEncoding)) ∧
  (∀ h (off : BitVec 32) s t b w th i, i = .bra h off ∨ i = .call h off → Issues i h s t b w th → th.pc.toNat % 8 = 0 →
    canonical (th.pc + BitVec.ofInt 64 (8 * off.toInt)).toNat = true →
    GoesOn i s t b w th (th.pc + BitVec.ofInt 64 (8 * off.toInt)) (fun _ _ => True) ∧ (off = 0 → th.pc + BitVec.ofInt 64 (8 * off.toInt) = th.pc))

/-- R110: bits [9:5] of an X slot's word are its scalar, [4:1] its vector register, and bit 0 is zero, or the word is refused. -/
def Obligations.XSlotFields : Prop :=
  ∀ (g : BitVec 3) (s : BitVec 5) (w : BitVec 4) (z : BitVec 1),
    decodeX (1#2 ++ (1#1 ++ g) ++ s ++ w ++ z) = (if z = 0#1 then some (.xs2t (.sg g) w s) else none) ∧
    decodeX (2#2 ++ (1#1 ++ g) ++ s ++ w ++ z) = (if z = 0#1 then some (.xt2s (.sg g) s w) else none) ∧
    decodeX (1#2 ++ 0#4 ++ s ++ w ++ z) = (if z = 0#1 then some (.xs2t .always w s) else none) ∧
    decodeX (2#2 ++ 0#4 ++ s ++ w ++ z) = (if z = 0#1 then some (.xt2s .always s w) else none)

/-- R75, R82, R83, R97, R104: words written out by the tables decode to what they stand for, and words that break the checks of R84 are refused. -/
def Obligations.WordsDecode : Prop :=
  decodeThread 0xA707000000000000#64 = .ok (.nop ⟨0, false, 7⟩) ∧ decodeThread 0x0000000000000000#64 = .ok (.iadd ⟨0, false, 0⟩ 0 0 0 .wrap) ∧
  decodeThread 0x0607030102040000#64 = .ok (.imad ⟨0, false, 7⟩ 3 1 2 4) ∧ decodeThread 0xAC07000000000000#64 = .ok (.eret ⟨0, false, 7⟩) ∧
  decodeThread 0x6097080400040000#64 = .ok (.ld ⟨9, false, 7⟩ 8 4 ⟨false, false, .dflt, false⟩ ⟨0, .b32, .blk, 0⟩) ∧
  decodeThread 0x0010000000000000#64 = .error .illegalEncoding ∧ decodeThread 0x000F000000000000#64 = .error .illegalEncoding ∧
  decodeThread 0xFF00000000000000#64 = .ok (.reservedOpcode 0xFF00000000000000#64) ∧ decodeThread 0xC100000000000000#64 = .ok (.extEmulate 0xC100000000000000#64) ∧
  decodeS 0x0804430000#40 none = some (.sadd .always 1 2 3) ∧ decodeX 0x40A4#16 = some (.xs2t .always 2 5)

/-- R134, R140, R142: rounding what a bit pattern of FP32, FP16 or BF16 stands for, in any direction, gives the pattern back; every NaN gives the canonical one.
R136, R139: encoding what a code of TF8 or TF6 stands for, at the same scale, gives the code back without saturating or lifting. -/
def Obligations.NumbersEncodeToThemselves : Prop :=
  (∀ F ∈ layouts, ∀ rm b, b < 2 ^ (1 + F.eb + F.fb) → roundF F rm (F.dec b) = if (F.dec b).isNan then F.nanBits else b) ∧
  (∀ n (c : Nat) (sc : Int), n = 8 ∨ n = 6 → c < 2 ^ n → c ≠ 2 ^ (n - 1) → tfEncode n (tfDecode n c sc) sc = ⟨c, false, false, false⟩)

/-! ### Steps, reset and invariants -/

/-- Logs 2 and 4 (the model's own choice of a step): the first input that has arrived is executed, and a clk passes; without an input and with only a core's
picker to work, the threads of the convoy on its first port (R117, R118) execute the instruction that the word at their PC decodes to (R84), and, when no
thread is left for another port, a clk passes; with one bundle that can issue, and no waymark, breakpoint or scan, its slots read what stood before (R112),
unless one stalls, faults or traps; with nothing to do, a clk passes. -/
def Obligations.AStepRunsTheDecodedInstruction : Prop :=
  (∀ i is s t, s.inputs = i :: is → exec i { s with inputs := is } = .next t → step s = .next (t.tick s none none).afterStep) ∧
  (∀ s, s.inputs = [] → s.acts = [] → step s = .next (s.tick s none none).afterStep) ∧
  (∀ s c lead s1 w i, s.inputs = [] → s.acts = [.convoy c] → firstPick (s.overdue c) (s.portPicks c (s.picks c) [] []) = some lead → lead.t.lane < 32 →
    s.fetch lead.t.core lead.ctx lead.pc 8 .xt = (s1, .word w) → decodeThread (BitVec.ofNat 64 w) = .ok i →
    ∃ ts, lead.t ∈ ts ∧ ConvoyOk s c lead ts ∧
      ∀ t, exec i { s1 with cur := ⟨ts, lead.t.core, lead.t.slot, 0, none⟩ } = .next t →
        let t1 := if lead.unit == .sfu then t.modCore c fun x => { x with sfuAt := s.clk + 2 } else t
        t1.portPicks c (s.picks c) [lead.unit] t.cur.threads = [] → step s = .next (t1.tick s none (some c)).afterStep) ∧
  (∀ s c k b s1 w bd sS, s.inputs = [] → s.acts = [.bundle c] → s.tileSlot c = some k → s.block? c k = some b → b.tile.scan = none →
    let s0 : State := { s.modCore c (fun x => { x with seq := k, seqFree := false }) with cur := ⟨[], c, k, 0, none⟩, tileStall := 0, tileTrap := false }
    s0.fetch c b.ctx b.tile.pc 32 .xl = (s1, .word w) → decodeBundle (BitVec.ofNat 256 w) = .ok bd → bd.wm = false →
    let s2 : State := { s1 with cur := ⟨[], c, k, (BitVec.ofNat 256 w).extractLsb' 192 64, none⟩ }
    s2.tileBrk b = none → s2.trySlots b bd = .go sS → sS.tileTrap = false →
    ∃ o, step s = .next (((s2.slotsRun sS b bd).issued b bd fun s => s.nextTile c k).tick s o none).afterStep)

/-- R6, R33, R72, R255, R306, R383, R395, R419, R445, R457, R458, R462, R463: after reset the boot has not begun, no queue is enabled, no page table is valid,
no handler is enabled, nothing is frozen, and the registers hold their reset values. -/
def Obligations.ResetLeaves : Prop :=
  State.reset.stage = 0 ∧ State.reset.ckptState = 0 ∧ State.reset.locked = false ∧ State.reset.hasCw = false ∧ State.reset.reg tsliceKey = 0x800 ∧
  State.reset.reg 0x2B8 = 6 ∧ State.reset.reg (devReg 0x410) = 2400 ∧ State.reset.blocks = [] ∧ State.reset.grids = [] ∧
  ∀ c < 64, State.reset.reg (ctxReg c 0x200) = 0 ∧ State.reset.reg (ctxReg c 0x210) = 3 ∧ State.reset.reg (ctxReg c 0x260) = 0 ∧ State.reset.reg (ctxReg c 0x268) = 0 ∧
    State.reset.reg (fptKey c) = 0x100 ∧ State.reset.rbState c = 0 ∧ ∀ q < 64, State.reset.reg (lqReg c q 1) = 0

/-- The state after reset meets the invariants: canonical memories, each L1 line held once, one block in a task slot. -/
def Obligations.ResetMeetsTheInvariants : Prop := State.reset.memOk ∧ (∀ c, L1Once (State.reset.core c).l1) ∧ State.reset.slotsOk

/-- Every step keeps memory, staging ways and scratchpads in their canonical form. -/
def Obligations.MemoryStaysCanonical : Prop := ∀ s s', s.memOk → step s = .next s' → s'.memOk

/-- R230: every step keeps an L1 from holding a line twice. -/
def Obligations.CachesHoldLinesOnce : Prop := ∀ s s', (∀ c, L1Once (s.core c).l1) → step s = .next s' → ∀ c, L1Once (s'.core c).l1

/-- R54: every step keeps a task slot from holding two blocks. -/
def Obligations.SlotsHoldOneBlock : Prop := ∀ s s', s.slotsOk → step s = .next s' → s'.slotsOk

/-! ### The thread set -/

/-- R158, R160, R167, R181: a short integer, logic, bit-field, checksum or movement instruction that issues writes its destination with the value
that its rule gives from the values its registers had, and nothing else: no other register, no predicate, nothing outside the thread; the PC
goes on by 8. A destination v255 is not written.
R158: IMADW, IADD64 and LEA64 write their pair with the exact result modulo 2^64, the low half in the lower register, and nothing else. A V2
field is even, at most 252 (R77). -/
def Obligations.IntegerResults : Prop :=
  (∀ i s t b w th h d P, intRule i (s.rv t) (s.pget t) th.pred = some (h, d, P) → Issues i h s t b w th →
    GoesOn i s t b w th (th.pc + 8) fun s' th' =>
      (d ≠ 255#8 → P (s'.rv t d)) ∧ (∀ r, r ≠ d ∨ d = 255#8 → s'.rv t r = s.rv t r) ∧ th'.pred = th.pred) ∧
  (∀ i s t b w th h d n, pairRule i (s.rv t) = some (h, d, n) → d.toNat % 2 = 0 → d.toNat ≤ 252 → Issues i h s t b w th →
    GoesOn i s t b w th (th.pc + 8) fun s' th' =>
      s'.rv t (d + 1) ++ s'.rv t d = BitVec.ofInt 64 n ∧ (∀ r, r ≠ d → r ≠ d + 1 → s'.rv t r = s.rv t r) ∧ th'.pred = th.pred)

/-- R159, R162, R163, R167: a compare or PLOP writes its predicate with the outcome that its rule gives, and nothing else; p7 discards it.
R167: V2P writes the predicates that its mask selects with the low bits of its source, and nothing else.
R168: S2V writes the value of its selector, from the state in which it issues, and nothing else. -/
def Obligations.PredicatesAndSpecialValues : Prop :=
  (∀ i s t b w th h p v, predRule i (s.rv t) (s.pget t) = some (h, p, v) → Issues i h s t b w th →
    GoesOn i s t b w th (th.pc + 8) fun s' _ =>
      (p ≠ 7#3 → s'.pget t p = v) ∧ (∀ q, q ≠ p ∨ p = 7#3 → s'.pget t q = s.pget t q) ∧ ∀ r, s'.rv t r = s.rv t r) ∧
  (∀ h a m s t b w th, Issues (.v2p h a m) h s t b w th →
    GoesOn (.v2p h a m) s t b w th (th.pc + 8) fun s' _ =>
      (∀ p : PReg, p ≠ 7#3 → s'.pget t p = if m.getLsbD p.toNat then (s.rv t a).getLsbD p.toNat else s.pget t p) ∧ ∀ r, s'.rv t r = s.rv t r) ∧
  (∀ h d sel s t b w th, Issues (.s2v h d sel) h s t b w th →
    GoesOn (.s2v h d sel) s t b w th (th.pc + 8) fun s' th' =>
      (d ≠ 255#8 → match sel.toNat with
        | 0x00 => s'.rv t d = BitVec.ofNat 32 t.lane
        | 0x01 => s'.rv t d = BitVec.ofNat 32 (32 * t.warp + t.lane)
        | 0x02 => s'.rv t d = BitVec.ofNat 32 (32 * w.rwarp + t.lane)
        | 0x03 => s'.rv t d = BitVec.ofNat 32 w.role
        | 0x04 => s'.rv t d = BitVec.ofNat 32 t.warp
        | 0x05 => s'.rv t d = BitVec.ofNat 32 w.wslot
        | 0x06 => s'.rv t d = BitVec.ofNat 32 t.slot
        | 0x07 => s'.rv t d = BitVec.ofNat 32 t.core
        | 0x08 => s'.rv t d = BitVec.ofNat 32 (t.core / 4)
        | 0x09 => s'.rv t d = BitVec.ofNat 32 (t.core / 32)
        | 0x0A => s'.rv t d = BitVec.ofNat 32 s.clk
        | 0x0B => s'.rv t d = BitVec.ofNat 32 (s.clk / 2 ^ 32)
        | 0x12 => s'.rv t d = BitVec.ofNat 32 (32 * b.warps.length)
        | 0x13 => s'.rv t d = BitVec.ofNat 32 b.variant
        | 0x14 => s'.rv t d = BitVec.ofNat 32 b.milestone
        | 0x15 => s'.rv t d = BitVec.ofNat 32 b.sclass
        | 0x16 => s'.rv t d = BitVec.ofNat 32 b.sizep
        | 0x17 => s'.rv t d = b.dom.getD 0 0 | 0x18 => s'.rv t d = b.dom.getD 1 0 | 0x19 => s'.rv t d = b.dom.getD 2 0
        | 0x1A => s'.rv t d = b.dom.getD 3 0 | 0x1B => s'.rv t d = b.dom.getD 4 0
        | 0x0C => ∀ g, s.gridOf b = some g → s'.rv t d = BitVec.ofNat 32 (b.lin % g.dim 0)
        | 0x0D => ∀ g, s.gridOf b = some g → s'.rv t d = BitVec.ofNat 32 (b.lin / g.dim 0 % g.dim 1)
        | 0x0E => ∀ g, s.gridOf b = some g → s'.rv t d = BitVec.ofNat 32 (b.lin / g.dim 0 / g.dim 1)
        | 0x0F => ∀ g, s.gridOf b = some g → s'.rv t d = BitVec.ofNat 32 (g.dim 0)
        | 0x10 => ∀ g, s.gridOf b = some g → s'.rv t d = BitVec.ofNat 32 (g.dim 1)
        | 0x11 => ∀ g, s.gridOf b = some g → s'.rv t d = BitVec.ofNat 32 (g.dim 2)
        | _ => True) ∧
      (∀ r, r ≠ d ∨ d = 255#8 → s'.rv t r = s.rv t r) ∧ th'.pred = th.pred)

/-- R143, R145, R161, R162, R165: a floating-point instruction none of whose lanes meets a condition that FPTE enables writes its destination with
the exact result of each lane rounded once, and nothing else.
R145, R162: a floating-point instruction that meets a condition that FPTE enables writes nothing; its thread takes FP_TRAP at the instruction,
with the condition's one FPTE bit for h0 (TakingAnException says what delivery does).
R161: FSCALE multiplies by 2^S(sb) and rounds once, whatever S(sb) is; zeros, infinities and NaNs are returned, a NaN canonical.
R141, R143, R161, R164-R166: FMIN, FMAX, FRND, FCLASS, CVTFI and CVTT meet no condition, whatever FPTE holds: they write their destination as
their rule gives it, and nothing else. -/
def Obligations.FloatResults : Prop :=
  (∀ i s t b w th h d F rm ls, fpRule i (s.rv t) = some (h, d, F, rm, ls) → Issues i h s t b w th → trapMet b.fpte F rm ls = none →
    GoesOn i s t b w th (th.pc + 8) fun s' th' =>
      (d ≠ 255#8 → s'.rv t d = fpWord F rm ls) ∧ (∀ r, r ≠ d ∨ d = 255#8 → s'.rv t r = s.rv t r) ∧ th'.pred = th.pred) ∧
  (∀ i s t b w th h d F rm ls k, fpRule i (s.rv t) = some (h, d, F, rm, ls) → Issues i h s t b w th → trapMet b.fpte F rm ls = some k →
    exec i s = .next ((s.countIssue t).deliver t (causeOf 0x14 (2 ^ k) th.pc) false)) ∧
  (∀ h d a b' rm s t b w th, Issues (.fscale h d a b' rm) h s t b w th → b.fpte = 0 →
    GoesOn (.fscale h d a b' rm) s t b w th (th.pc + 8) fun s' th' =>
      (d ≠ 255#8 → s'.rv t d = match f32 (s.rv t a) with
        | .nan => 0x7FC00000#32
        | .inf _ => s.rv t a
        | .fin sg m e => BitVec.ofNat 32 (roundF ff32 rm (.fin sg m (e + (s.rv t b').toInt)))) ∧
      (∀ r, r ≠ d ∨ d = 255#8 → s'.rv t r = s.rv t r) ∧ th'.pred = th.pred) ∧
  (∀ i s t b w th h d P, fpPlain i (s.rv t) = some (h, d, P) → Issues i h s t b w th →
    GoesOn i s t b w th (th.pc + 8) fun s' th' =>
      (d ≠ 255#8 → P (s'.rv t d)) ∧ (∀ r, r ≠ d ∨ d = 255#8 → s'.rv t r = s.rv t r) ∧ th'.pred = th.pred)

/-- R85, R144, R145: a special function whose condition FPTE does not enable is long-latency: its destination becomes pending with the result and
the window that LA gives, and no register changes yet.
R87, R145: with an enabled condition it issues all the same and its destination stays pending without a value; when it completes its thread takes FP_TRAP with the
condition's FPTE bit for h0, the instruction's own PC as faulting PC and the thread's next PC as resume PC, and the destination is no longer pending. -/
def Obligations.SpecialFunctions : Prop :=
  (∀ i s t b w th h d x f dz, sfuRule i (s.rv t) = some (h, d, x, f, dz) → Issues i h s t b w th →
    match (sfuMet dz x.toNat (f x.toNat)).filter (fun k => b.fpte.getLsbD k) with
    | some k => ∃ s' b' w' th' o, exec i s = .next s' ∧ Local s { s' with nextId := s.nextId } t b w b' w' th' ∧ (∀ r, s'.rv t r = s.rv t r) ∧
        th' = { pended th [⟨d, 1, none, h.la.toNat, th.pc, s.nextId⟩] with held := th.held ++ [o] } ∧ o.kind = .trap ∧ o.a = 2 ^ k ∧ o.pc = th.pc ∧ o.tag = s.nextId
    | none => ∃ s' b' w' th', exec i s = .next s' ∧ Local s s' t b w b' w' th' ∧ (∀ r, s'.rv t r = s.rv t r) ∧
        th' = pended th (newPend d 1 (f x.toNat) h th.pc 0)) ∧
  (∀ s t b w th o, At s t b w th → (∀ p ∈ th.pend, p.value = none) → th.held.find? (fun o => o.kind == .half || o.kind == .trap) = some o → o.kind = .trap →
    exec (.longResultWrite t) s = .next ((s.modThread t fun th => { th with
        held := th.held.filter (fun x => x.tag != o.tag), pend := th.pend.filter fun p => p.tag != o.tag }).deliver t
      { causeOf 0x14 o.a o.pc with rpc := th.pc } false))

/-- R85, R263, R265, R270, R271: a load whose page permits it reads what its core sees, or with an acquire wider than blk what the device holds; its
destination becomes pending with that value, and no byte, register or predicate changes (of a 128-bit access to host memory, see R268 below).
R265, R270, R271: a store whose page permits it puts the low bytes of its sources at the address of its base pair and scaled offset; no other
byte that the device holds for its core changes, and no register or predicate.
R273, R274: an atomic on a page of device memory that permits it writes AtomicNew of the old value, or for ACAS its second operand when the
first equals the old value; ATOM and ACAS make their destination pending with the old value, RED has none; no other byte changes.
R268: a 128-bit load from host memory is two loads of 64 bits: when it issues it reads one half and its destination is pending without a value; when the other
half has been read the destination's value is known. -/
def Obligations.MemoryAccesses : Prop :=
  (∀ h d a f m s t b w th pa attr, let n := m.sz.bytes; let va := effAddr (s.pair t a) m.off n
    Issues (.ld h d a f m) h s t b w th → Maps s t va n .read pa attr → pa % n = 0 → n < 16 ∨ pa < 0x800000000000 → PlainMem s t.core → s.watchHit t.core b.ctx va n true false = none →
    GoesOnLong (.ld h d a f m) s t b w th
      (newPend d m.sz.regs (loaded f.sx n (if f.acq ∧ m.scope ≠ .blk then s.backedN t.core pa n else s.seen t.core pa n)) h th.pc 0)
      fun s' => Unstored s s' t.core) ∧
  (∀ h a x f m s t b w th pa attr, let n := m.sz.bytes; let va := effAddr (s.pair t a) m.off n
    Issues (.st h a x f m) h s t b w th → Maps s t va n .write pa attr → pa % n = 0 → n < 16 ∨ pa < 0x800000000000 → PlainMem s t.core → s.watchHit t.core b.ctx va n false true = none →
    GoesOnMem (.st h a x f m) s t b w th (th.pc + 8) fun s' th' =>
      Stored s s' t.core pa n (s.group t x m.sz.regs) ∧ th'.regs = th.regs ∧ th'.pred = th.pred) ∧
  (∀ h d a x m s t b w th pa attr, let n := m.sz.bytes; let va := (s.pair t a).toNat; let old := s.backedN t.core pa n
    PlainMem s t.core → s.watchHit t.core b.ctx va n true true = none → cachedPage pa attr = true → pa % n = 0 →
    (Issues (.atom h d a x m) h s t b w th → Maps s t va n .write pa attr →
      GoesOnLong (.atom h d a x m) s t b w th (newPend d m.sz.regs old h th.pc 0) fun s' =>
        Stored s s' t.core pa n (atomRule m.op m.ty (8 * n) old (s.group t x m.sz.regs))) ∧
    (Issues (.red h a x m) h s t b w th → Maps s t va n .write pa attr →
      GoesOnLong (.red h a x m) s t b w th [] fun s' =>
        Stored s s' t.core pa n (atomRule m.op m.ty (8 * n) old (s.group t x m.sz.regs))) ∧
    (Issues (.acas h d a x m) h s t b w th → Maps s t va (if n = 8 then 16 else n) .write pa attr →
      GoesOnLong (.acas h d a x m) s t b w th (newPend d m.sz.regs old h th.pc 0) fun s' =>
        Stored s s' t.core pa n (if old = s.group t x m.sz.regs then s.group t (x + BitVec.ofNat 8 m.sz.regs) m.sz.regs else old))) ∧
  (∀ h d a f m s t b w th pa attr, let va := effAddr (s.pair t a) m.off 16
    Issues (.ld h d a f m) h s t b w th → m.sz = .b128 → Maps s t va 16 .read pa attr → pa % 16 = 0 → 0x800000000000 ≤ pa → PlainMem s t.core →
    s.watchHit t.core b.ctx va 16 true false = none → ∃ s' th' o, exec (.ld h d a f m) s = .next s' ∧ s'.thread? t = some th' ∧ Unstored s s' t.core ∧
      th' = { pended th [⟨d, if d = 255#8 then 1 else 4, none, h.la.toNat, th.pc, s.nextId⟩] with held := th.held ++ [o] } ∧ o.kind = .half ∧ o.i = .ld h d a f m ∧
      o.tag = s.nextId ∧ (∀ u, u ≠ t → s'.thread? u = s.thread? u) ∧ (o.c = 1 ∧ o.a = pa + 8 ∧ o.b = halfAt s t f m pa ∨ o.c = 0 ∧ o.a = pa ∧ o.b = halfAt s t f m (pa + 8))) ∧
  (∀ h d a f m s t b w th o, At s t b w th → (∀ p ∈ th.pend, p.value = none) → th.held.find? (fun o => o.kind == .half || o.kind == .trap) = some o → o.kind = .half →
    o.i = .ld h d a f m → o.a % 8 = 0 → PlainMem s t.core → ∃ s' th', exec (.longResultWrite t) s = .next s' ∧ s'.thread? t = some th' ∧ Unstored s s' t.core ∧
      th' = { th with held := th.held.filter (fun x => x.tag != o.tag), pend := th.pend.map fun p => if p.tag = o.tag then
        { p with value := some (if o.c % 2 = 1 then o.b + 2 ^ 64 * halfAt s t f m o.a else halfAt s t f m o.a + 2 ^ 64 * o.b) } else p } ∧
      ∀ u, u ≠ t → s'.thread? u = s.thread? u)

/-- R169, R170: a thread that reaches a rendezvous before some member of its effective mask waits there, arrived with that mask, and nothing else
changes; its guard does not matter.
R169-R173, R175: when the last member of its mask arrives at LXCH, PJOIN, PMASK, LEQM or WSYNC, every thread of the arrival set goes on past its
instruction; each whose guard holds receives what its rule gives from the values that all of them had, and nothing else changes.
R169, R170, R174: when the last member arrives at WSCAN or WRED and no FPTE bit is set, every thread of the arrival set goes on, and the
destination of each whose guard holds becomes pending with its fold of the values in increasing home lane; no register changes yet. -/
def Obligations.Rendezvous : Prop :=
  (∀ i s t b w th h opc mr k th2, arriveRule i = some (h, opc, mr) → Alone i s t b w th → t.lane < 32 → let m := effMask s t mr
    k ≠ t.lane → m.testBit k = true → w.threads[k]? = some th2 → th2.st ≠ .exited → th2.st ≠ .arrived →
    ∃ s' b' w', exec i s = .next s' ∧
      Local s s' t b w b' w' { th with pend := th.pend.map (fun p => { p with la := p.la - 1 }), waited := 0, st := .arrived,
                                       wait := some ⟨.rendezvous, m, th.pc, opc, 0⟩ } ∧ b'.traps = b.traps) ∧
  (∀ i s t b w th h opc mr, arriveRule i = some (h, opc, mr) → Alone i s t b w th → t.lane < 32 → let m := effMask s t mr
    OthersArrived w t.lane m opc th.pc → let A := arrivalSet w t.lane m
    (∀ l ∈ A, (meetRule i (fun k => s.rv (laneRef t k)) (fun k => s.pget (laneRef t k)) A l).isSome) →
    ∃ s', exec i s = .next s' ∧ { s' with blocks := s.blocks } = s ∧ (∀ u, (∀ k ∈ A, u ≠ laneRef t k) → s'.thread? u = s.thread? u) ∧
      ∀ l ∈ A, ∃ x y, s.thread? (laneRef t l) = some x ∧ s'.thread? (laneRef t l) = some y ∧ y.st = .running ∧ y.wait = none ∧ y.pc = x.pc + 8 ∧
        ∀ out, meetRule i (fun k => s.rv (laneRef t k)) (fun k => s.pget (laneRef t k)) A l = some out →
          (∀ d P, out.1 = some (d, P) → s.guard (laneRef t l) h = true → d ≠ 255#8 → P (s'.rv (laneRef t l) d)) ∧
          (∀ r, s.guard (laneRef t l) h = false ∨ (∀ d P, out.1 = some (d, P) → r ≠ d ∨ d = 255#8) → s'.rv (laneRef t l) r = s.rv (laneRef t l) r) ∧
          (∀ q : PReg, q ≠ 7#3 → s'.pget (laneRef t l) q = match out.2 with
            | some (d, v) => if s.guard (laneRef t l) h = true ∧ q = d then v else s.pget (laneRef t l) q
            | none => s.pget (laneRef t l) q)) ∧
  (∀ i s t b w th h opc mr, arriveRule i = some (h, opc, mr) → Alone i s t b w th → t.lane < 32 → b.fpte = 0 → let m := effMask s t mr
    OthersArrived w t.lane m opc th.pc → let A := arrivalSet w t.lane m
    (∀ l ∈ A, (foldRule i (fun k => s.rv (laneRef t k)) A l).isSome) →
    ∃ s', exec i s = .next s' ∧ { s' with blocks := s.blocks } = s ∧ (∀ u, (∀ k ∈ A, u ≠ laneRef t k) → s'.thread? u = s.thread? u) ∧
      ∀ l ∈ A, ∃ x y, s.thread? (laneRef t l) = some x ∧ s'.thread? (laneRef t l) = some y ∧ y.st = .running ∧ y.pc = x.pc + 8 ∧
        y.regs = x.regs ∧ y.pred = x.pred ∧ ∀ d v, foldRule i (fun k => s.rv (laneRef t k)) A l = some (d, v) →
          y.pend = (if l = t.lane then x.pend.map (fun p => { p with la := p.la - 1 }) else x.pend) ++
            if s.guard (laneRef t l) h then newPend d 1 v.toNat h x.pc 0 else [])

/-- R177: a transfer whose target is aligned and canonical goes there, and CALL and CALLX write the address of the next instruction to v250:v251;
nothing else changes.
R76, R156, R177: a transfer whose target has bits [2:0] set meets MISALIGNED, else one whose target is not canonical PROTECTION, both with the
target for h0. No register changes (TakingAnException says what delivery does). -/
def Obligations.ControlTransfers : Prop :=
  (∀ i s t b w th h link tgt, transferRule i (s.pair t) th.pc = some (h, link, tgt) → Issues i h s t b w th →
    tgt.toNat % 8 = 0 → canonical tgt.toNat = true →
    GoesOn i s t b w th tgt fun s' th' =>
      (link = true → s'.pair t 250 = th.pc + 8) ∧ (∀ r, link = false ∨ (r ≠ 250#8 ∧ r ≠ 251#8) → s'.rv t r = s.rv t r) ∧ th'.pred = th.pred) ∧
  (∀ i s t b w th h link tgt, transferRule i (s.pair t) th.pc = some (h, link, tgt) → Issues i h s t b w th →
    (tgt.toNat % 8 ≠ 0 → exec i s = .next ((s.countIssue t).deliver t (causeVa 0x06 tgt.toNat th.pc) false)) ∧
    (tgt.toNat % 8 = 0 → canonical tgt.toNat = false →
      exec i s = .next ((s.countIssue t).deliver t (causeVa 0x09 tgt.toNat th.pc) false)))

/-- R178: EXIT ends its thread, and changes no other thread and nothing outside the blocks, when no thread waits for it.
R179: NOP does nothing but go on; SNOOZE n also keeps its thread from being ready for n clk.
R84, R88, R388: TRAP and BKPT take TRAP_INSTR and BREAKPOINT with their code for h0 and the PC of the next instruction for the resume PC; a
reserved opcode and an unimplemented extension opcode take ILLEGAL_OPCODE and EXT_EMULATE with the word for h0 (TakingAnException says what
delivery does). -/
def Obligations.ExitNopAndTraps : Prop :=
  (∀ h s t b w th, Issues (.exit h) h s t b w th →
    (∀ x ∈ s.blocks ++ s.saved.map Saved.snap, ∀ w ∈ x.warps, ∀ y ∈ w.threads, y.st ≠ .arrived ∧ y.trapq = none) →
    ∃ s' th', exec (.exit h) s = .next s' ∧ { s' with blocks := s.blocks } = s ∧ s'.thread? t = some th' ∧ th'.st = .exited ∧ th'.hmode = false ∧
      (∀ u, u ≠ t → s'.thread? u = s.thread? u)) ∧
  ((∀ h s t b w th, Issues (.nop h) h s t b w th →
    GoesOn (.nop h) s t b w th (th.pc + 8) fun s' th' => th'.regs = th.regs ∧ th'.pred = th.pred ∧ ∀ r, s'.rv t r = s.rv t r) ∧
  (∀ h n s t b w th, Issues (.snooze h n) h s t b w th → ∃ s' b' w', exec (.snooze h n) s = .next s' ∧
    Local s s' t b w b' w' { th.went th (th.pc + 8) with snooze := if n = 0 then none else some n.toNat } ∧ b'.traps = b.traps)) ∧
  ((∀ h code s t b w th, Issues (.trap h code) h s t b w th →
    exec (.trap h code) s = .next ((s.countIssue t).deliver t { causeOf 0x13 code.toNat th.pc with rpc := th.pc + 8 } false)) ∧
  (∀ h code s t b w th, Issues (.bkpt h code) h s t b w th →
    exec (.bkpt h code) s = .next ((s.countIssue t).deliver t { causeOf 0x12 code.toNat th.pc with rpc := th.pc + 8 } false)) ∧
  (∀ x s t b w th, Alone (.reservedOpcode x) s t b w th → exec (.reservedOpcode x) s = .next (s.deliver t (causeOf 0x01 x.toNat th.pc) false)) ∧
  (∀ x s t b w th, Alone (.extEmulate x) s t b w th → exec (.extEmulate x) s = .next (s.deliver t (causeOf 0x03 x.toNat th.pc) false)))

/-- R384-R386: a cause that the context's HMASK gives to its handler enters the handler of a thread outside handler mode, if a trap row is free and
nothing is pending: the thread runs at HVEC in handler mode with h0 to h5 as R385 gives them, and keeps its registers and predicates; its warp holds
the row; no other thread changes, and nothing outside the block.
R52, R384, R386, R412: a cause that no handler takes, or that meets a thread in handler mode, starts its grid's abort; a cause whose HALT bit is
set, with halting enabled, starts a roadblock; a cause that finds no free trap row waits in its thread. -/
def Obligations.TakingAnException : Prop :=
  (∀ s t b w th c halt k, At s t b w th → s.rbState b.ctx = 0 → th.hmode = false → s.halts b.ctx c.code halt = false → s.handled b.ctx c.code = true →
    th.pend = [] → b.trapRow t.warp = some k →
    let s' := s.deliver t c halt
    ∃ w' th', s'.warp? t = some w' ∧ s'.thread? t = some th' ∧ w'.hsel = some k ∧ th'.hmode = true ∧ th'.st = .running ∧ th'.pc = s.hvec b.ctx ∧
      SMap.get th'.h 0 0 = c.info ∧ SMap.get th'.h 1 0 = c.rpc ∧
      SMap.get th'.h 2 0 = BitVec.ofNat 64 (c.code + (if c.impr then 2 ^ 8 else 0) + (if c.gatef then 2 ^ 9 else 0) + c.ecls * 2 ^ 10 +
        (if c.code = 0x0E then c.chunk else if c.ecls ≠ 0 ∨ c.eng ≠ 0 then c.eng else c.aux) * 2 ^ 32) ∧
      SMap.get th'.h 3 0 = c.fpc ∧ SMap.get th'.h 4 0 = c.h4 ∧ SMap.get th'.h 5 0 = c.tpc ∧ th'.regs = th.regs ∧ th'.pred = th.pred ∧
      { s' with blocks := s.blocks } = s ∧ ∀ u, u ≠ t → s'.thread? u = s.thread? u) ∧
  (∀ s t b w th c halt, At s t b w th → s.rbState b.ctx = 0 →
    (th.hmode = true → s.deliver t c halt = s.abortBy t c) ∧
    (th.hmode = false → s.halts b.ctx c.code halt = false → s.handled b.ctx c.code = false → s.deliver t c halt = s.abortBy t c) ∧
    (th.hmode = false → s.halts b.ctx c.code halt = true → (s.deliver t c halt).rbState b.ctx = 1 ∧
      ∀ x ∈ (s.deliver t c halt).blocks, x.ctx = b.ctx → x.state = .frozen) ∧
    (th.hmode = false → s.halts b.ctx c.code halt = false → s.handled b.ctx c.code = true → th.pend = [] → b.trapRow t.warp = none →
      s.deliver t c halt = s.modThread t fun th => { th with st := .trapWaiting, wait := none, trapq := some c, trapAt := s.clk }))

/-- R387: ERET outside handler mode takes PRIVILEGE; in it, without h2's ABORT and GATEF bits and with a good h1, its thread runs on at h1 outside
handler mode with its own registers, and no other thread changes that does not wait for a trap row; with the ABORT bit set the grid aborts. -/
def Obligations.ReturningFromAnException : Prop :=
  ∀ h s t b w th, Issues (.eret h) h s t b w th →
    let h1 := SMap.get th.h 1 0
    let h2 := SMap.get th.h 2 0
    (th.hmode = false → exec (.eret h) s = .next ((s.countIssue t).deliver t (causeOf 0x04 (Instr.wordOf (.eret h)) th.pc) false)) ∧
    (th.hmode = true → h2.getLsbD 31 = false → h2.getLsbD 9 = false → h1.toNat % 8 = 0 → canonical h1.toNat = true →
      ∃ s' th', exec (.eret h) s = .next s' ∧ { s' with blocks := s.blocks } = s ∧ s'.thread? t = some th' ∧ th'.hmode = false ∧ th'.st = .running ∧
        th'.pc = h1 ∧ th'.regs = th.regs ∧ th'.pred = th.pred ∧
        ∀ u x, u ≠ t → s.thread? u = some x → x.trapq = none → s'.thread? u = s.thread? u) ∧
    (th.hmode = true → h2.getLsbD 31 = true → ∃ c, exec (.eret h) s = .next ((s.countIssue t).abortBy t c) ∧ c.code = h2.toNat % 256 ∧ c.info = SMap.get th.h 0 0)

/-- R389, R390: SYSR writes the low half of its register, or with HI the high half, to its destination, and nothing else.
R6, R148, R389, R390: SYSW writes a half of its register: TSTAT loses the bits written as 1, reserved bits of FPTE, TSLICE and FPT stay 0, a
read-only register ignores the write, h0-h7 and the thread's own v0-v31 change in handler mode; nothing else changes.
R72, R383, R389, R390: an unprivileged SYSW to TSLICE, FPT or a debug register that privileged software writes, and SYSR or SYSW of h0-h7 or UREG
outside handler mode, take PRIVILEGE, whether or not the guard holds. -/
def Obligations.SystemRegisters : Prop :=
  (∀ h d hi n s t b w th, Issues (.sysr h d hi n) h s t b w th →
    GoesOn (.sysr h d hi n) s t b w th (th.pc + 8) fun s' th' =>
      (d ≠ 255#8 → ∀ v, sysRule s b th n.toNat = some v → s'.rv t d = if hi then v.extractLsb' 32 32 else v.extractLsb' 0 32) ∧
      (∀ r, r ≠ d ∨ d = 255#8 → s'.rv t r = s.rv t r) ∧ th'.pred = th.pred) ∧
  (∀ h a hi n s t b w th, Issues (.sysw h a hi n) h s t b w th → (sysEffect t b n.toNat hi (s.rv t a) s).isSome →
    ∃ s1 b1 w1 th1, Went s s1 t b w th (th.pc + 8) b1 w1 th1 ∧ th1.regs = th.regs ∧ th1.pred = th.pred ∧ b1.traps = b.traps ∧
      (sysEffect t b n.toNat hi (s.rv t a) s1).map Host.Outcome.next = some (exec (.sysw h a hi n) s)) ∧
  (∀ i s t b w th n, (∃ h d hi, i = .sysr h d hi n ∧ (0x40 ≤ n.toNat ∧ n.toNat ≤ 0x47 ∨ 0x400 ≤ n.toNat ∧ n.toNat ≤ 0x41F) ∧ th.hmode = false) ∨
      (∃ h a hi, i = .sysw h a hi n ∧ ((0x40 ≤ n.toNat ∧ n.toNat ≤ 0x47 ∨ 0x400 ≤ n.toNat ∧ n.toNat ≤ 0x41F) ∧ th.hmode = false ∨
        (n = 0x20 ∨ n = 0x32 ∨ 0x200 ≤ n.toNat ∧ n.toNat ≤ 0x217 ∨ n = 0x220 ∨ n = 0x221) ∧ (th.hmode = false ∨ bit (s.regN (ctxReg b.ctx 0x260)) 1 = false))) →
    At s t b w th → s.cur.threads = [t] → s.cur.again = none → s.ready t i.laClass = true → s.clear t i = true → th.st = .running →
    exec i s = .next (s.deliver t (causeOf 0x04 (Instr.wordOf i) th.pc) false))

/-- R78, R84, R85: a thread whose guard does not hold, at an instruction that meets no check 5 to 7 and is no cross-lane or convergence instruction,
goes on past it, and nothing else changes.
R84, R86, R156: in every thread that reaches the word, whether or not its guard holds, a named register that is not allocated meets BOUNDS with
the register's number for h0, and after that a pending one LOOKAHEAD_VIOLATION with the word for h0.
R266, R333: an access to virtual memory whose address is not canonical takes PROTECTION, and one that is not aligned to its size or object
MISALIGNED, with the address for h0 and for FAULTVA; it has no other effect. -/
def Obligations.ChecksBeforeIssue : Prop :=
  (∀ i h s t b w th, i.hdr = some h → (match i with
      | .lxch .. | .pjoin .. | .pmask .. | .leqm .. | .wscan .. | .wred .. | .wsync .. | .dbar .. | .gate .. | .role .. | .mile .. => False | _ => True) →
    At s t b w th → s.cur.threads = [t] → s.cur.again = none → s.ready t i.laClass = true → s.clear t i = true → th.st = .running → s.privBad b.ctx th i = false →
    firstUnalloc w.alloc th.hmode i.fields = none → lookBad i th = false → s.guard t h = false →
    GoesOn i s t b w th (th.pc + 8) fun s' th' => th'.regs = th.regs ∧ th'.pred = th.pred ∧ ∀ r, s'.rv t r = s.rv t r) ∧
  (∀ i h s t b w th, i.hdr = some h → (match i with | .rld .. | .rst .. | .ratom .. | .xkick .. | .fence .. => False | _ => True) →
    At s t b w th → s.cur.threads = [t] → s.cur.again = none → s.ready t i.laClass = true → s.clear t i = true → th.st = .running → s.privBad b.ctx th i = false →
    (∀ r, firstUnalloc w.alloc th.hmode i.fields = some r → exec i s = .next (s.deliver t (causeOf 0x07 r th.pc) false)) ∧
    (firstUnalloc w.alloc th.hmode i.fields = none → lookBad i th = true →
      exec i s = .next (s.deliver t (causeOf 0x05 (Instr.wordOf i) th.pc) false))) ∧
  (∀ i s t b w th h va n, vaRule i (s.pair t) = some (h, va, n) → Issues i h s t b w th →
    (canonical va = false → exec i s = .next ((s.countIssue t).deliver t (causeVa 0x09 va th.pc) false)) ∧
    (canonical va = true → va % n ≠ 0 → exec i s = .next ((s.countIssue t).deliver t (causeVa 0x06 va th.pc) false)))

/-- R263, R265, R272, R275: LDS, STS and ATOMS within the scratchpad read and write its bytes at their address: the destination becomes pending with
the value read, extended for LDS, the stored bytes change, and no other byte, register or memory.
R266, R272: an access to scratchpad that is not aligned to its size takes MISALIGNED, and one beyond the variant's scratchpad BOUNDS, with the
byte address for h0. -/
def Obligations.Scratchpad : Prop :=
  (∀ i s t b w th h x n d f, spadRule i (s.rv t) (s.group t) = some (h, x, n, d, f) → Issues i h s t b w th → s.poolBad = [] → Mem.wf b.spad →
    x % n = 0 → x + n ≤ 4096 * b.sprows → let old := Mem.readN b.spad x n
    GoesOnSpad i s t b w th (match d with | some (d, k, g) => newPend d k (g old) h th.pc 0 | none => []) x n (f.map fun f => f old)) ∧
  (∀ i s t b w th h x n d f, spadRule i (s.rv t) (s.group t) = some (h, x, n, d, f) → Issues i h s t b w th →
    (x % n ≠ 0 → exec i s = .next ((s.countIssue t).deliver t (causeOf 0x06 x th.pc) false)) ∧
    (x % n = 0 → 4096 * b.sprows < x + n → exec i s = .next ((s.countIssue t).deliver t (causeOf 0x07 x th.pc) false)))

/-- R264-R266, R277, R343: RLD, RST and RATOM to this device's own index, with room in the warp's counter and nothing issued that comes first, go on; one operation of class remote is counted, one access is queued at this device and outstanding, and a destination is pending until its reply. -/
def Obligations.RemoteAccessesQueue : Prop :=
  ∀ i s t b w th g h d a off sz cls kind data am sx acq rel, remoteRule i = some (h, d, a, off, sz, cls, kind, data, am, sx, acq, rel) →
    Issues i h s t b w th → s.gridOf b = some g → let va := effAddr (s.pair t a) off sz.bytes
    (s.rv t (a + 2)).toNat = s.devIdx b.ctx → (s.rv t (a + 2)).toNat < s.jobDevices g → canonical va = true → va % sz.bytes = 0 →
    countOps w.ops .remote < 63 → (∀ o ∈ w.ops, o.id < s.nextId) → (rel = true → ∀ l ∈ (s.core t.core).l1, l.dirty = 0#128) →
    ∃ s' w' th', exec i s = .next s' ∧
      { s' with blocks := s.blocks, remIn := s.remIn, remOut := s.remOut, nextId := s.nextId, cores := s.cores } = s ∧ (∀ c, s'.core c = s.core c) ∧
      s'.remIn = s.remIn ++ [⟨s.nextId + 1, s.devIdx b.ctx, s.nextId + 1, s.jobOf b.ctx, cls.toNat, kind, BitVec.ofNat 64 va,
        match data with | some x => s.group t x sz.regs | none => 0, sz, am, sx, false, false, true, none⟩] ∧
      (∃ r, s'.remOut = s.remOut ++ [r] ∧ r.tag = s.nextId + 1 ∧ r.t = t ∧ r.op = s.nextId ∧ r.pc = th.pc ∧ r.va = BitVec.ofNat 64 va) ∧
      s'.warp? t = some w' ∧ s'.thread? t = some th' ∧ w'.ops = w.ops ++ [⟨s.nextId, .remote, false, false, none⟩] ∧
      th' = pended th (match d with
        | some d => if d = 255#8 then [] else [⟨d, sz.regs, none, h.la.toNat, th.pc, s.nextId + 1⟩]
        | none => []) ∧
      ∀ u, u ≠ t → s'.thread? u = s.thread? u

/-- R231, R284, R285: PREF and CCTL change no byte that the device holds for their core, no register and no predicate, and raise nothing; .ivall leaves
the core's L1 empty.
R323, R342, R343: FENCE, with no remote operation of its classes outstanding, at scope job none of the context, and WAITC, when its warp's counter of the class is at most
its threshold and holds no fault that it needs, go on; no byte that the device holds for the core changes, no register and no predicate. A WAITC
whose counter is above its threshold waits. -/
def Obligations.CacheControlFencesAndWaits : Prop :=
  (∀ i h s t b w th, (∃ a l1 off, i = .pref h a l1 off) ∨ (∃ a op cls off, i = .cctl h a op cls off) → Issues i h s t b w th → PlainMem s t.core →
    GoesOnMem i s t b w th (th.pc + 8) fun s' th' =>
      Unstored s s' t.core ∧ th'.regs = th.regs ∧ th'.pred = th.pred ∧ ∀ a cls off, i = .cctl h a .ivall cls off → (s'.core t.core).l1 = []) ∧
  ((∀ h scope mask s t b w th, Issues (.fence h scope mask) h s t b w th → PlainMem s t.core →
    (∀ r ∈ s.remOut, r.t = t → mask.getLsbD r.cls = false) → (scope = .job → ∀ r ∈ s.remOut, r.t = t) →
    GoesOnMem (.fence h scope mask) s t b w th (th.pc + 8) fun s' th' => Unstored s s' t.core ∧ th'.regs = th.regs ∧ th'.pred = th.pred) ∧
  (∀ h e n s t b w th, Issues (.waitc h e n) h s t b w th → needErr e n.toNat w.ops = none →
    (countOps w.ops e ≤ n.toNat → GoesOn (.waitc h e n) s t b w th (th.pc + 8) fun s' th' =>
      th'.regs = th.regs ∧ th'.pred = th.pred ∧ ∀ r, s'.rv t r = s.rv t r) ∧
    (n.toNat < countOps w.ops e → ∃ s' b' w', exec (.waitc h e n) s = .next s' ∧
      Local s s' t b w b' w' (waits th .waiting ⟨.waitc, n.toNat, 0, (Eng.code e).toNat, 0⟩) ∧ b'.traps = b.traps)))

/-- R282: SPOP from a configured ring goes on with its destination pending, and its thread joins the ring's pop queue at the back; from an unconfigured
ring it takes TILE_BINDING with the ring's number for h0.
R222, R282: SPOP_PERFORM, when one thread at the front of a ring's queue can be served in the clk, gives it the n bytes at HEAD, extended, once they have
arrived, moves HEAD past them and takes the thread off the queue; a HEAD that is no multiple of n gives it MISALIGNED and stays.
R226: the threads that one clk serves are those at the front of the queue whose elements have arrived, one after another, in increasing warp slot and then
home lane (log 124: which of the queue a clk serves is the model's reading). -/
def Obligations.StreamPops : Prop :=
  (∀ h d sx sz q s t b w th, Issues (.spop h d sx sz q) h s t b w th →
    ((b.ring q.toNat).cfg = true → ∃ s' b' th' o, exec (.spop h d sx sz q) s = .next s' ∧ { s' with blocks := s.blocks, nextId := s.nextId } = s ∧
      s'.block? t.core t.slot = some b' ∧ s'.thread? t = some th' ∧
      b'.ring q.toNat = { b.ring q.toNat with pops := (b.ring q.toNat).pops ++ [t] } ∧ (∀ k, k ≠ q.toNat → b'.ring k = b.ring k) ∧
      th' = { pended th [⟨d, if d = 255#8 then 1 else sz.regs, none, h.la.toNat, th.pc, s.nextId⟩] with held := th.held ++ [o] } ∧ o.kind = .pop ∧ o.a = q.toNat ∧
      o.pc = th.pc ∧ o.tag = s.nextId ∧ ∀ u, u ≠ t → s'.thread? u = s.thread? u) ∧
    ((b.ring q.toNat).cfg = false → exec (.spop h d sx sz q) s = .next ((s.countIssue t).deliver t (causeOf 0x10 q.toNat th.pc) false))) ∧
  (∀ c k q s b t ts th o h d sx sz q4, s.block? c k = some b → b.stopped = false → (b.ring q).cfg = true → (b.ring q).pops = t :: ts → b.duePops q = [t] → t.core = c → t.slot = k →
    s.thread? t = some th → th.held = [o] → o.kind = .pop → o.a = q → o.i = .spop h d sx sz q4 → s.poolBad = [] →
    let r := b.ring q
    let n := sz.bytes
    (r.head.toNat % n = 0 → n ≤ (r.tail - r.head).toNat → ∃ (s' : State) (b' : Block) (th' : Thread), exec (.spopPerform c k q) s = .next s' ∧ { s' with blocks := s.blocks } = s ∧
      s'.block? c k = some b' ∧ s'.thread? t = some th' ∧ b'.ring q = { r with head := r.head + BitVec.ofNat 32 n, pops := ts } ∧
      let v := loaded sx n (leNat ((List.range n).map fun j => Mem.get b.spad (r.rbase + (r.head.toNat + j) % 2 ^ (r.lsize + 8))))
      th' = { th with held := [], pend := th.pend.map fun p => if p.tag = o.tag then { p with value := some v } else p }) ∧
    (r.head.toNat % n ≠ 0 → ∃ (s' : State), exec (.spopPerform c k q) s =
        .next (s'.deliver t { causeOf 0x06 (r.rbase + r.head.toNat % 2 ^ (r.lsize + 8)) o.pc with rpc := th.pc } false) ∧
      ∃ (b' : Block), s'.block? c k = some b' ∧ (b'.ring q).head = r.head ∧ (b'.ring q).pops = ts)) ∧
  (∀ c k q s b, s.block? c k = some b → b.stopped = false → (b.ring q).cfg = true → b.duePops q ≠ [] →
    exec (.spopPerform c k q) s = .next ((b.duePops q).foldl (fun s t => s.popOne c k q t) s) ∧
    (b.duePops q).Pairwise fun x y => b.wslotOf x < b.wslotOf y ∨ b.wslotOf x = b.wslotOf y ∧ x.lane ≤ y.lane)

/-- R344: POLL reads what the device holds for its core at its address; when its condition holds the value is written to the destination and the thread
goes on, else the thread waits; no byte changes.
R344: a retry of a POLL whose condition holds writes the value to its destination and lets the thread go on; else it waits on. -/
def Obligations.Polling : Prop :=
  (∀ h d a x m s t b w th pa attr, let n := m.sz.bytes; let va := (s.pair t a).toNat
    Issues (.poll h d a x m) h s t b w th → Maps s t va n .read pa attr → pa % n = 0 → PlainMem s t.core → s.watchHit t.core b.ctx va n true false = none →
    d.toNat + m.sz.regs ≤ 255 → let v := s.backedN t.core pa n; let y := s.group t x m.sz.regs
    let met := match m.cond with | .eq => v == y | .ne => v != y | .geu => decide (y ≤ v) | .ltu => decide (v < y) | .any => v &&& y != 0 | .none => v &&& y == 0
    (met = true → GoesOnMem (.poll h d a x m) s t b w th (th.pc + 8) fun s' th' => Unstored s s' t.core ∧ th'.pred = th.pred ∧
      (∀ k < m.sz.regs, s'.rv t (d + BitVec.ofNat 8 k) = BitVec.ofNat 32 (v / 2 ^ (32 * k))) ∧
      ∀ r, (∀ k < m.sz.regs, r ≠ d + BitVec.ofNat 8 k) → s'.rv t r = s.rv t r) ∧
    (met = false → ∃ s1 s' b' w', exec (.poll h d a x m) s = .next s' ∧ Local s s1 t b w b' w' (waits th .waiting
        ⟨.poll, Instr.wordOf (.poll h d a x m), BitVec.ofNat 64 va, 0x88, BitVec.ofNat 64 y⟩) ∧ b'.traps = b.traps ∧ MemOnly s1 s' ∧ Unstored s s' t.core)) ∧
  (∀ s t b w th x h d a y m pa attr, At s t b w th → th.st = .waiting → th.wait = some x → x.kind = .poll →
    decodeThread (BitVec.ofNat 64 x.mask) = .ok (.poll h d a y m) → th.watch = none → th.binds = [] → let n := m.sz.bytes; let va := x.addr.toNat
    Maps s t va n .read pa attr → pa % n = 0 → PlainMem s t.core → s.watchHit t.core b.ctx va n true false = none → d.toNat + m.sz.regs ≤ 255 →
    let v := s.backedN t.core pa n; let met := pollTest m.cond v x.arg.toNat
    ∃ s' th', exec (.pollRetry t) s = .next s' ∧ s'.thread? t = some th' ∧ Unstored s s' t.core ∧ (∀ u, u ≠ t → s'.thread? u = s.thread? u) ∧
      (met = true → th'.st = .running ∧ th'.wait = none ∧ th'.pc = th.pc + 8 ∧
        (∀ k < m.sz.regs, s'.rv t (d + BitVec.ofNat 8 k) = BitVec.ofNat 32 (v / 2 ^ (32 * k))) ∧ ∀ r, (∀ k < m.sz.regs, r ≠ d + BitVec.ofNat 8 k) → s'.rv t r = s.rv t r) ∧
      (met = false → th'.st = .waiting ∧ th'.pc = th.pc ∧ (∃ z, th'.wait = some z ∧ z.kind = .poll ∧ z.addr = x.addr ∧ z.arg = x.arg) ∧ ∀ r, s'.rv t r = s.rv t r))

/-- R335: BINIT of a count other than 0 writes the whole object, when no thread waits at it: nothing pending, the count expected, none arrived, phase
0, its scope, valid; no other byte, no register. A count of 0 takes BOUNDS, and the object is unchanged.
R336, R338: BARV at a well-formed object arrives once and makes its destination pending with the phase as it was; the arrival that meets EXPECT
with nothing pending completes the phase; no other byte, no register. A poisoned object gives BARRIER_POISON.
R337, R338: BTX at a well-formed object adds its pair, read as signed, to PEND, when the sum is in the signed 64-bit range; a sum of 0 with all
arrived completes the phase; no other byte, no register. A poisoned object gives BARRIER_POISON.
R339: BWAIT goes on when its token has passed and else waits; BTEST makes its destination pending with 1 when it has passed, 0 when not, and 2 for a
poisoned object, at which BWAIT takes BARRIER_POISON; no byte of memory changes. -/
def Obligations.BarrierObjects : Prop :=
  (∀ h a x scope s t b w th pa attr, let va := (s.pair t a).toNat; let n := (s.rv t x).toNat
    Issues (.binit h a x scope) h s t b w th → Maps s t va 32 .write pa attr → Quiet s t.core → NoWaiters s pa →
    (n ≠ 0 → Leaves (.binit h a x scope) s t b w (th.went th (th.pc + 8)) fun m' =>
      barOf m' pa = [0, n, 0, 0, scope.code.toNat, 1, 0] ∧ Mem.readN m' (pa + 0x17) 9 = 0 ∧ KeptOutside s.mem m' pa 32) ∧
    (n = 0 → TakesCause (.binit h a x scope) s t (causeOf 0x07 0 th.pc))) ∧
  (∀ h d a wide s t b w th pa attr p x ar ph sc c, let va := (s.pair t a).toNat
    Issues (.barv h d a wide) h s t b w th → Maps s t va 32 .write pa attr → Quiet s t.core → NoWaiters s pa →
    let after := fun (m' : Mem) => barOf m' pa = (if ar + 1 = x ∧ p = 0 then [p, x, 0, (ph + 1) % 2 ^ 32, sc, 1, c] else [p, x, ar + 1, ph, sc, 1, c]) ∧
        Mem.readN m' (pa + 0x17) 9 = 0 ∧ KeptOutside s.mem m' pa 32
    (BarIs s.mem pa p x ar ph sc c → ar < x → wide = false → Leaves (.barv h d a wide) s t b w (pended th (newPend d 1 ph h th.pc 0)) after) ∧
    (BarIs s.mem pa p x ar ph sc c → ar < x → wide = true → (∀ p ∈ th.pend, p.tag ≤ s.nextId) →
      LeavesThread (.barv h d a wide) s t (pended th [⟨d, 1, some ph, h.la.toNat, th.pc, s.nextId + 1⟩]) fun s' => after s'.mem) ∧
    (BarPoisoned s.mem pa → TakesCause (.barv h d a wide) s t (causeVa 0x0D va th.pc))) ∧
  (∀ h a y s t b w th pa attr p x ar ph sc c, let va := (s.pair t a).toNat; let sum := (BitVec.ofNat 64 p).toInt + (s.pair t y).toInt
    Issues (.btx h a y) h s t b w th → Maps s t va 32 .write pa attr → Quiet s t.core → NoWaiters s pa →
    (BarIs s.mem pa p x ar ph sc c → -2 ^ 63 ≤ sum → sum < 2 ^ 63 →
      Leaves (.btx h a y) s t b w (th.went th (th.pc + 8)) fun m' =>
        barOf m' pa = (if ar = x ∧ sum = 0 then [0, x, 0, (ph + 1) % 2 ^ 32, sc, 1, c] else [(BitVec.ofInt 64 sum).toNat, x, ar, ph, sc, 1, c]) ∧
        Mem.readN m' (pa + 0x17) 9 = 0 ∧ KeptOutside s.mem m' pa 32) ∧
    (BarPoisoned s.mem pa → TakesCause (.btx h a y) s t (causeVa 0x0D va th.pc))) ∧
  (∀ h d a y s t b w th pa attr p x ar ph sc c, let va := (s.pair t a).toNat; let tok := s.rv t y
    Maps s t va 32 .read pa attr → Quiet s t.core →
    (Issues (.bwait h a y) h s t b w th → BarIs s.mem pa p x ar ph sc c → passed ph tok.toNat →
      LeavesThread (.bwait h a y) s t (th.went th (th.pc + 8)) fun s' => s'.mem = s.mem) ∧
    (Issues (.bwait h a y) h s t b w th → BarIs s.mem pa p x ar ph sc c → ¬ passed ph tok.toNat →
      Leaves (.bwait h a y) s t b w (waits th .waiting ⟨.bwait, pa, BitVec.ofNat 64 va, 0x83, tok.setWidth 64⟩) fun m' => m' = s.mem) ∧
    (Issues (.bwait h a y) h s t b w th → BarPoisoned s.mem pa → TakesCause (.bwait h a y) s t (causeVa 0x0D va th.pc)) ∧
    (Issues (.btest h d a y) h s t b w th → BarIs s.mem pa p x ar ph sc c → passed ph tok.toNat →
      Leaves (.btest h d a y) s t b w (pended th (newPend d 1 1 h th.pc 0)) fun m' => m' = s.mem) ∧
    (Issues (.btest h d a y) h s t b w th → BarIs s.mem pa p x ar ph sc c → ¬ passed ph tok.toNat →
      Leaves (.btest h d a y) s t b w (pended th (newPend d 1 0 h th.pc 0)) fun m' => m' = s.mem) ∧
    (Issues (.btest h d a y) h s t b w th → BarPoisoned s.mem pa →
      Leaves (.btest h d a y) s t b w (pended th (newPend d 1 2 h th.pc 0)) fun m' => m' = s.mem))

/-- R341: DBAR in a block whose other threads have exited, the only block of a whole grid without a job, completes at once at every level that the
grid may use; while some other thread of its block is still running its thread waits there. DBAR at quad or die without COOP takes BOUNDS.
R341: an arrival over the fabric for a job that no grid here has is kept; for one that a grid has it counts there, while a block of the grid has not
ended; a grid whose blocks have all ended holds no arrival, for it has answered it with its own. -/
def Obligations.DomainBarriers : Prop :=
  (∀ h lv id s t b w th g, Issues (.dbar h lv id) h s t b w th → s.gridOf b = some g →
    (∀ x ∈ s.blocks ++ s.saved.map Saved.snap, ∀ w ∈ x.warps, ∀ y ∈ w.threads, y.st ≠ .arrived) →
    ((lv = .quad ∨ lv = .die) → g.coop = false → exec (.dbar h lv id) s = .next ((s.countIssue t).deliver t (causeOf 0x07 id.toNat th.pc) false)) ∧
    ((lv = .quad ∨ lv = .die → g.coop = true) → s.blocksOf g.id = [b] → b.live = [t] → g.next = g.nblkAll → g.jobid = 0 → (∀ l ∈ (s.core t.core).l1, l.dirty = 0#128) →
      ∃ s' th', exec (.dbar h lv id) s = .next s' ∧ s'.thread? t = some th' ∧ th'.st = .running ∧ th'.pc = th.pc + 8 ∧ th'.regs = th.regs ∧
        th'.pred = th.pred ∧ s'.mem = s.mem ∧ s'.regs = s.regs) ∧
    (lv = .blk → (∃ u ∈ b.live, u ≠ t) →
      ∃ s' th' n, exec (.dbar h lv id) s = .next s' ∧ s'.thread? t = some th' ∧ th' = waits th .arrived ⟨.dbar, id.toNat, 0, 0x85, n⟩ ∧
        s'.mem = s.mem ∧ s'.regs = s.regs ∧ ∀ u, u ≠ t → s'.thread? u = s.thread? u)) ∧
  (∀ job tag id dev s, ((∀ g ∈ s.grids, ¬ (g.jobid = job ∧ g.jtag = tag)) → exec (.dbarFabricArrival job tag id dev) s = .next { s with jobPend := s.jobPend ++ [(job, tag, id, dev)] }) ∧
    (∀ g, job ≠ 0 → s.grids.find? (fun g => g.jobid == job && g.jtag == tag) = some g → s.grid? g.id = some g →
      (∀ b ∈ s.blocks ++ s.saved.map Saved.snap, ∀ w ∈ b.warps, ∀ y ∈ w.threads, y.st ≠ .arrived) →
      (g.next ≠ g.nblkAll ∨ s.blocksOf g.id ≠ [] →
        exec (.dbarFabricArrival job tag id dev) s = .next (s.modGrid g.id fun x => { x with jobArr := SMap.put x.jobArr (id * 1024 + dev) (SMap.get x.jobArr (id * 1024 + dev) 0 + 1) })) ∧
      (g.next = g.nblkAll → s.blocksOf g.id = [] →
        ∃ s' g', exec (.dbarFabricArrival job tag id dev) s = .next s' ∧ s'.grid? g.id = some g' ∧ g'.jobArr = [] ∧ s'.blocks = s.blocks ∧ s'.mem = s.mem)))

/-- R345, R346: GATE by the only thread that its block counts, with no misuse and no engine fault pending, gates the block: the gate frame holds its PC,
mask and entry, the tile side starts at the entry's bundle, every handle that a selected map names is bound, and the thread, gated, keeps its registers.
A thread of a role without the gate flag takes GATE_MISUSE.
R215: RGATE with no result in flight, nothing of the matrix engine or of commands that write tiles outstanding, room in the warps' counters and no pending
fault, ends the tile side's turn: the block is no longer gated, the handles are unbound, the tile counters are 0 and counted by the warps that took part in
GATE, the gated threads run on, those that took part after their GATE; the sequencer is free. A result in flight stalls it with cause WAYMARK. -/
def Obligations.GateTurns : Prop :=
  (∀ h a mask s t b w th g v, Issues (.gate h a mask) h s t b w th → s.gridOf b = some g → s.varOf b = some v →
    let x := (s.rv t a).setWidth 64
    (g.gateRole w.role = false → exec (.gate h a mask) s = .next ((s.countIssue t).deliver t (causeOf 0x19 (Instr.wordOf (.gate h a mask)) th.pc) false)) ∧
    (g.gateRole w.role = true → b.gateThreads g = [t] → b.gated = false → b.pendingErr = none → th.hmode = false →
      b.gateBad g v [⟨.gate, mask.toNat, th.pc, Instr.wordOf (.gate h a mask), x⟩] = false →
      ∃ s' b' th', exec (.gate h a mask) s = .next s' ∧ s'.block? t.core t.slot = some b' ∧ s'.thread? t = some th' ∧
        b'.gate = some ⟨th.pc, mask, x.toNat, true⟩ ∧ b'.tile.pc = BitVec.ofNat 64 (sext52 (g.img.base + g.img.tileOff + v.tentry + 32 * x.toNat)) ∧
        b'.tile.joined = true ∧ (∀ m ∈ g.img.lmapsOf v, bit mask.toNat m.tile = true → (SMap.get? b'.tile.handles m.tile).isSome) ∧
        th'.st = .gated ∧ th'.regs = th.regs ∧ th'.pred = th.pred ∧ b'.spad = b.spad ∧ b'.acc = b.acc)) ∧
  (∀ g mask s b, SlotIs s b → SGuard.holds g b.tile = true → b.pendingErr = none →
    (b.tile.infl ≠ [] → exec (.rgate g mask) s = .next { s with tileStall := 2 }) ∧
    (b.tile.infl = [] → s.rgateWaits b = false → ∃ (s' : State) (b' : Block), exec (.rgate g mask) s = .next s' ∧ s'.block? b.core b.slot = some b' ∧ b'.gated = false ∧
      b'.tile.handles = [] ∧ b'.tile.ops = [] ∧ b'.tile.joined = false ∧ b'.tile.sg = 0 ∧ (s'.core b.core).seqFree = true ∧ b'.spad = b.spad ∧ b'.acc = b.acc ∧
      ∀ (k : Nat) (w : Warp), b.warps[k]? = some w → ∃ (w' : Warp), b'.warps[k]? = some w' ∧ w'.inGate = false ∧ w'.ops = (if w.inGate then w.ops ++ b.tile.ops else w.ops) ∧
        ∀ (l : Nat) (th : Thread), w.threads[l]? = some th → ∃ (th' : Thread), w'.threads[l]? = some th' ∧
          (th.st = .gated → th'.st = .running ∧ th'.wait = none ∧ th'.pc = if th.wait.isSome then th.pc + 8 else th.pc) ∧
          (th.st ≠ .gated → th'.st = th.st ∧ th'.pc = th.pc) ∧ th'.pred = th.pred))

/-- R352: ROLE of a warp whose other threads have exited and whose counters are 0 moves the warp to the role: its range is the role's rows, its thread
stands at the role's entry with its registers kept, and its number is the lowest that no other warp of the role holds. A role that is absent, or has
more rows than the warp holds, takes BOUNDS.
R63, R364: MILE arrives at its milestone and waits, while another thread of the block still runs or with a size whose class is the block's; nothing
else changes. A milestone that the variant lacks takes BOUNDS. -/
def Obligations.RolesAndMilestones : Prop :=
  (∀ h r s t b w th g v, Issues (.role h r) h s t b w th → s.gridOf b = some g → s.varOf b = some v →
    let rows := v.rows.getD r.toNat 0; let entry := v.entry.getD r.toNat 0xFFFFFFFF
    (entry = 0xFFFFFFFF ∨ w.rows < rows → exec (.role h r) s = .next ((s.countIssue t).deliver t (causeOf 0x07 r.toNat th.pc) false)) ∧
    (entry ≠ 0xFFFFFFFF → rows ≤ w.rows → w.ops = [] → (∀ k y, k ≠ t.lane → w.threads[k]? = some y → y.st = .exited) →
      (∃ k < 64, ∀ j y, j ≠ t.warp → b.warps[j]? = some y → y.role = r.toNat → y.rwarp ≠ k) →
      ∃ s' w' th', exec (.role h r) s = .next s' ∧ { s' with blocks := s.blocks } = s ∧ s'.warp? t = some w' ∧ s'.thread? t = some th' ∧
        w'.role = r.toNat ∧ w'.alloc = rows ∧ w'.rows = w.rows ∧
        (∀ j y, j ≠ t.warp → b.warps[j]? = some y → y.role = r.toNat → y.rwarp ≠ w'.rwarp) ∧
        (∀ k < w'.rwarp, ∃ j y, j ≠ t.warp ∧ b.warps[j]? = some y ∧ y.role = r.toNat ∧ y.rwarp = k) ∧
        th'.st = .running ∧ th'.pc = g.img.codeVa entry ∧ th'.regs = th.regs ∧ th'.pred = th.pred ∧ th'.binds = th.binds)) ∧
  (∀ h a sz id s t b w th g v, Issues (.mile h a sz id) h s t b w th → s.gridOf b = some g → s.varOf b = some v →
    (g.img.msOf v id.toNat = none → exec (.mile h a sz id) s = .next ((s.countIssue t).deliver t (causeOf 0x07 id.toNat th.pc) false)) ∧
    (g.img.msOf v id.toNat ≠ none → (∃ u ∈ b.live, u ≠ t ∧ ∀ y, s.thread? u = some y → y.st ≠ .arrived) ∨
        b.live = [t] ∧ g.img.classOf (if sz then (s.rv t a).toNat else bits g.raw.toNat 191 160) = some b.sclass →
      ∃ s' b' w', exec (.mile h a sz id) s = .next s' ∧
        Local s s' t b w b' w' (waits th .arrived ⟨.mile, id.toNat, 0, 0x97, if sz then BitVec.ofNat 64 (2 ^ 32 + (s.rv t a).toNat) else 0⟩) ∧ b'.traps = b.traps))

/-- R348: QMAP records in its binding the queue's address and the direction, and for a consumer the mapped register, which no other binding then maps;
it reads no memory and changes nothing else. A consumer's register v0, v1 or v255 takes BOUNDS.
R350: QPUSH through a producer binding of a well-formed open queue that is not full, with no push waiting, writes its source at the element of TAIL, moves TAIL and READY
past it, and makes its destination pending with the index; while the queue is full it is held with its destination pending; no other byte changes.
Through anything but a producer binding it takes BOUNDS.
R351: QCLOSE empties its binding. For a producer it takes one from PRODS, sets CLOSED when that reaches 0, and makes its destination pending with the
new PRODS; for a consumer or an empty binding it makes it pending with 0 and changes no memory. -/
def Obligations.Queues : Prop :=
  (∀ h d a prod q s t b w th, IssuesBound (.qmap h d a prod q) h s t b w th →
    (prod = false → d = 0#8 ∨ d = 1#8 ∨ d = 255#8 → ∃ (s1 : State), s1.mem = s.mem ∧ exec (.qmap h d a prod q) s = .next (s1.deliver t (causeOf 0x07 d.toNat th.pc) false)) ∧
    (prod = true ∨ (d ≠ 0#8 ∧ d ≠ 1#8 ∧ d ≠ 255#8) → ∃ s' b' w' th', exec (.qmap h d a prod q) s = .next s' ∧ Local s s' t b w b' w' th' ∧
      b'.traps = b.traps ∧ th' = { th.went th (th.pc + 8) with binds := th'.binds } ∧ SMap.get? th'.binds q.toNat = some ⟨s.pair t a, prod, d⟩ ∧
      (prod = false → ∀ x ∈ th'.binds, x.1 ≠ q.toNat → x.2.prod = false → x.2.reg ≠ d) ∧
      ∀ x ∈ th'.binds, x.1 ≠ q.toNat → x ∈ th.binds)) ∧
  (∀ h d a cls rel q s t b w th pa epa base cap prods hd tl obj r, IssuesBound (.qpush h d a cls rel q) h s t b w th →
    (SMap.get? th.binds q.toNat = none ∨ (∃ y, SMap.get? th.binds q.toNat = some y ∧ y.prod = false) →
      ∃ (s1 : State), s1.mem = s.mem ∧ exec (.qpush h d a cls rel q) s = .next (s1.deliver t (causeOf 0x07 q.toNat th.pc) false)) ∧
    (SMap.get? th.binds q.toNat = some ⟨obj, true, r⟩ → th.mapped d = false → Held s t obj.toNat 64 .write pa → Quiet s t.core → QueueIs s.mem pa base cap prods hd tl →
      tl + 1 < 2 ^ 64 →
      (tl < hd + cap → NoneHeld s → Held s t (base + 4 * (tl % cap)) 4 .write epa → epa + 4 ≤ pa ∨ pa + 64 ≤ epa →
        Leaves (.qpush h d a cls rel q) s t b w (pended th (newPend d 1 (tl % 2 ^ 32) h th.pc 0)) fun m' =>
          QueueIs m' pa base cap prods hd (tl + 1) ∧ Mem.readN m' (pa + 0x28) 8 = tl + 1 ∧ Mem.readN m' epa 4 = (s.rv t a).toNat ∧
          ∀ y, ¬ (pa ≤ y ∧ y < pa + 64) → ¬ (epa ≤ y ∧ y < epa + 4) → Mem.get m' y = Mem.get s.mem y) ∧
      (hd + cap ≤ tl → ∃ s' th' o, exec (.qpush h d a cls rel q) s = .next s' ∧ s'.mem = s.mem ∧ s'.thread? t = some th' ∧
        th' = { pended th [⟨d, 1, none, h.la.toNat, th.pc, s.nextId⟩] with held := th.held ++ [o] } ∧ o.kind = .full ∧ o.tag = s.nextId))) ∧
  (∀ h d q s t b w th pa base cap prods hd tl obj r, IssuesBound (.qclose h d q) h s t b w th →
    ((∀ y, SMap.get? th.binds q.toNat = some y → y.prod = false) → ∃ s' b' w' th', exec (.qclose h d q) s = .next s' ∧
      Local s s' t b w b' w' th' ∧ b'.traps = b.traps ∧ SMap.get? th'.binds q.toNat = none ∧ (∀ x ∈ th'.binds, x ∈ th.binds) ∧
      th' = { pended th (if d = 255#8 ∨ th'.mapped d = true then [] else [⟨d, 1, some 0, h.la.toNat, th.pc, 0⟩]) with binds := th'.binds }) ∧
    (SMap.get? th.binds q.toNat = some ⟨obj, true, r⟩ → th.mapped d = false → Held s t obj.toNat 64 .write pa → Quiet s t.core → QueueIs s.mem pa base cap prods hd tl → 0 < prods →
      ∃ th', SMap.get? th'.binds q.toNat = none ∧ th' = { pended th (newPend d 1 (prods - 1) h th.pc 0) with binds := th'.binds } ∧
        Leaves (.qclose h d q) s t b w th' fun m' => Mem.readN m' (pa + 0x10) 4 = prods - 1 ∧
          Mem.readN m' (pa + 0xD) 1 = (if prods = 1 then 1 else 0) ∧ Mem.readN m' (pa + 0x18) 8 = hd ∧ Mem.readN m' (pa + 0x20) 8 = tl ∧ KeptOutside s.mem m' pa 64))

/-- R354, R356: TRRES within a trail's capacity makes its pair pending with RLEN and adds its count to RLEN, and changes nothing else; beyond it, it takes
TRAIL_OVERRUN; at a header whose STATE is not 1 it takes TRAIL_STATE.
R357: TRST of a slot that is reserved and not committed, within its slot and in a block with one reference, writes its source at the slot's place, and
changes nothing else.
R354, R358: TRCOMMIT of 1 to 256 reserved and uncommitted slots within the hole window marks them committed, moves CLEN to the first slot that is not,
makes its pair pending with the new CLEN, and changes no byte outside the header.
R359: TRLEN makes its pair pending with CLEN, whatever the STATE; TRWAIT of a target that CLEN has reached writes CLEN to its pair and goes on, and of
one within MAXLEN that it has not reached waits; a target above MAXLEN takes TRAIL_OVERRUN. No byte of memory changes. -/
def Obligations.TrailSlots : Prop :=
  (∀ h d a x s t b w th pa attr ml cl rl hw, let va := (s.pair t a).toNat; let n := (s.rv t x).toNat
    Issues (.trres h d a x) h s t b w th → Maps s t va 256 .trail pa attr → Quiet s t.core →
    (TrailIs s.mem pa ml cl rl hw → rl + n ≤ ml → Leaves (.trres h d a x) s t b w (pended th (newPend d 2 rl h th.pc 0)) fun m' =>
      TrailIs m' pa ml cl (rl + n) hw ∧ KeptOutside s.mem m' (pa + 0x18) 8) ∧
    (TrailIs s.mem pa ml cl rl hw → ml < rl + n → TakesCause (.trres h d a x) s t (causeVa 0x0A va th.pc)) ∧
    (Mem.readN s.mem pa 4 ≠ 1 → TakesCause (.trres h d a x) s t (causeVa 0x0B va th.pc))) ∧
  (∀ h a x c off sz s t b w th pa ml cl rl hw slotb bs btab pool blk rc base blkb p1 p2 p3 p4 p5 wpa, let va := (s.pair t a).toNat; let j := (s.pair t x).toNat
    let n := sz.bytes
    Issues (.trst h a x c off sz) h s t b w th → Quiet s t.core → Held s t va 256 .read pa → TrailIs s.mem pa ml cl rl hw → j < rl → ¬ slotDone cl hw j →
    Mem.readN s.mem (pa + 4) 4 = slotb → Mem.readN s.mem (pa + 0x30) 4 = bs → Mem.readN s.mem (pa + 0x20) 8 = btab → Mem.readN s.mem (pa + 0x28) 8 = pool →
    n * (off.toNat + 1) ≤ slotb → Reads s t (btab + 4 * (j / bs)) 4 p1 blk → Reads s t (pool + 0x20) 8 p2 rc → Reads s t (rc + 2 * blk) 2 p3 1 →
    Reads s t pool 8 p4 base → Reads s t (pool + 8) 8 p5 blkb → let wva := base + blk * blkb + slotb * (j % bs) + n * off.toNat
    Held s t wva n .trail wpa → wpa % n = 0 → s.watchHit t.core b.ctx wva n false true = none →
    Leaves (.trst h a x c off sz) s t b w (th.went th (th.pc + 8)) fun m' =>
      Mem.readN m' wpa n = s.group t c sz.regs % 2 ^ (8 * n) ∧ KeptOutside s.mem m' wpa n) ∧
  (∀ h d a x c s t b w th pa attr ml cl rl hw, let va := (s.pair t a).toNat; let j := (s.pair t x).toNat; let n := (s.rv t c).toNat
    Issues (.trcommit h d a x c) h s t b w th → Maps s t va 256 .trail pa attr → Quiet s t.core → TrailIs s.mem pa ml cl rl hw →
    s.waiters (fun w => w.kind == .trwait && w.mask == pa) = [] → 1 ≤ n → n ≤ 256 → j + n ≤ rl → (∀ k, j ≤ k → k < j + n → ¬ slotDone cl hw k) → j + n ≤ cl + 256 →
    ∃ cl' hw', Leaves (.trcommit h d a x c) s t b w (pended th (newPend d 2 cl' h th.pc 0)) (fun m' =>
        TrailIs m' pa ml cl' rl hw' ∧ Mem.readN m' (pa + 0x48) 8 = cl' ∧ KeptOutside s.mem m' pa 256) ∧
      (∀ k, k < cl' + 256 → (slotDone cl' hw' k ↔ slotDone cl hw k ∨ j ≤ k ∧ k < j + n)) ∧ ¬ slotDone cl' hw' cl') ∧
  (∀ h d a x s t b w th pa attr, let va := (s.pair t a).toNat; let tgt := (s.pair t x).toNat; let cl := Mem.readN s.mem (pa + 0x10) 8
    Maps s t va 256 .read pa attr → Quiet s t.core →
    (Issues (.trlen h d a) h s t b w th → Leaves (.trlen h d a) s t b w (pended th (newPend d 2 cl h th.pc 0)) fun m' => m' = s.mem) ∧
    (Issues (.trwait h d a x) h s t b w th → tgt ≤ cl → d.toNat % 2 = 0 → d.toNat ≤ 252 → GoesOnMem (.trwait h d a x) s t b w th (th.pc + 8) fun s' th' =>
      s'.mem = s.mem ∧ (s'.pair t d).toNat = cl ∧ (∀ r, r ≠ d → r ≠ d + 1 → s'.rv t r = s.rv t r) ∧ th'.pred = th.pred) ∧
    (Issues (.trwait h d a x) h s t b w th → cl < tgt → Mem.readN s.mem pa 4 = 1 → tgt ≤ Mem.readN s.mem (pa + 8) 8 →
      Leaves (.trwait h d a x) s t b w (waits th .waiting ⟨.trwait, pa, BitVec.ofNat 64 va, 0x93 + 256 * d.toNat, s.pair t x⟩) fun m' => m' = s.mem) ∧
    (Issues (.trwait h d a x) h s t b w th → cl < tgt → Mem.readN s.mem pa 4 = 1 → Mem.readN s.mem (pa + 8) 8 < tgt →
      TakesCause (.trwait h d a x) s t (causeVa 0x0A va th.pc)))

/-- R355: TRNEW of a declaration of one block takes the first block of the grid's reservation, writes its number to the block table and 1 to its count,
writes the header whole, and makes its destination pending with 1; no other byte changes but the device's own of the header.
R360, R361: TRFORK of a parent's first whole block into a child of one block gives the child's table the parent's entry, adds one to the block's count,
writes the child's header with the shared length, and makes nothing pending; no other byte changes.
R361, R362: TRREL of a live trail of one block whose count is above 1 releases it: STATE becomes 2, the block's count loses one, nothing becomes free,
and the destination becomes pending with 0; no other byte changes. -/
def Obligations.TrailLives : Prop :=
  (∀ h d a x decl s t b w th g e r k ks pa bpa ppa rc cpa, let va := (s.pair t a).toNat; let bt := (s.pair t x).toNat
    Issues (.trnew h d a x decl) h s t b w th → Quiet s t.core → Held s t va 256 .trail pa → Mem.readN s.mem pa 4 ≠ 1 →
    s.gridOf b = some g → g.img.trails[decl.toNat]? = some e → e.kind = 0 → DeclFits e → 0 < e.maxlen → e.maxlen ≤ e.bslots →
    g.resv.find? (fun r => r.decl == e.pool) = some r → r.blocks = k :: ks →
    Held s t bt 4 .write bpa → k < 2 ^ 32 → Reads s t (r.hdr.toNat + 0x20) 8 ppa rc → Held s t (rc + 2 * k) 2 .pool cpa →
    Apart [(pa, 256), (bpa, 4), (ppa, 8), (cpa, 2)] →
    LeavesThread (.trnew h d a x decl) s t (pended th (newPend d 1 1 h th.pc 0)) fun s' =>
      HeaderIs s'.mem pa e bt r.hdr.toNat 0 0 0 ∧ Mem.readN s'.mem bpa 4 = k ∧ Mem.readN s'.mem cpa 2 = 1 ∧ KeptBut s.mem s'.mem [(pa, 256), (bpa, 4), (cpa, 2)] ∧
      ∃ g' r', s'.grid? g.id = some g' ∧ g'.resv.find? (fun r => r.decl == e.pool) = some r' ∧ r'.blocks = ks) ∧
  (∀ h d a x decl s t b w th g e r k c pa cpa ppa bpa qpa rc npa ptab poolh ml cl rl hw, let va := (s.pair t a).toNat; let l := (s.pair t x).toNat
    let cva := (s.pair t d).toNat; let bt := (s.pair t (d + 2)).toNat
    Issues (.trfork h d a x decl) h s t b w th → Quiet s t.core → Held s t va 256 .read pa → TrailIs s.mem pa ml cl rl hw → l ≤ cl →
    Held s t cva 256 .trail cpa → Mem.readN s.mem cpa 4 ≠ 1 → s.gridOf b = some g → g.img.trails[decl.toNat]? = some e → e.kind = 0 → DeclFits e →
    e.maxlen = e.bslots → l = e.bslots → Mem.readN s.mem (pa + 4) 4 = e.slotb → Mem.readN s.mem (pa + 0x30) 4 = e.bslots →
    Mem.readN s.mem (pa + 0x28) 8 = poolh → Mem.readN s.mem (pa + 0x20) 8 = ptab → g.resv.find? (fun r => r.decl == e.pool) = some r → r.hdr.toNat = poolh →
    Held s t bt 4 .write bpa → Reads s t ptab 4 ppa k → Reads s t (poolh + 0x20) 8 qpa rc → Held s t (rc + 2 * k) 2 .pool npa → Mem.readN s.mem npa 2 = c →
    c < 0xFFFE → Apart [(pa, 256), (cpa, 256), (bpa, 4), (ppa, 4), (qpa, 8), (npa, 2)] →
    LeavesThread (.trfork h d a x decl) s t (th.went th (th.pc + 8)) fun s' =>
      HeaderIs s'.mem cpa e bt poolh va l 1 ∧ Mem.readN s'.mem bpa 4 = k ∧ Mem.readN s'.mem npa 2 = c + 1 ∧ KeptBut s.mem s'.mem [(cpa, 256), (bpa, 4), (npa, 2)]) ∧
  (∀ h d a s t b w th pa ppa qpa rc npa ptab poolh k c, let va := (s.pair t a).toNat
    Issues (.trrel h d a) h s t b w th → Quiet s t.core → Held s t va 256 .trail pa → Mem.readN s.mem pa 4 = 1 → 0 < Mem.readN s.mem (pa + 8) 8 →
    Mem.readN s.mem (pa + 8) 8 ≤ Mem.readN s.mem (pa + 0x30) 4 → Mem.readN s.mem (pa + 0x28) 8 = poolh → Mem.readN s.mem (pa + 0x20) 8 = ptab →
    Reads s t ptab 4 ppa k → Reads s t (poolh + 0x20) 8 qpa rc → Held s t (rc + 2 * k) 2 .pool npa → Mem.readN s.mem npa 2 = c → 1 < c → c < 0xFFFF →
    Apart [(pa, 256), (ppa, 4), (qpa, 8), (npa, 2)] →
    (∀ x ∈ s.blocks, ∀ w ∈ x.warps, ∀ y ∈ w.threads, y.st ≠ .waiting ∧ ∀ o ∈ y.held, o.kind ≠ .commit) →
    LeavesThread (.trrel h d a) s t (pended th (newPend d 1 0 h th.pc 0)) fun s' =>
      Mem.readN s'.mem pa 4 = 2 ∧ Mem.readN s'.mem npa 2 = c - 1 ∧ KeptBut s.mem s'.mem [(pa, 4), (npa, 2)])

/-- R37, R363: LAUNCH to an enabled, device-fed queue of its context that is not full, with none waiting, writes its record at the queue's tail, moves the tail past it, and
makes its pair pending with the grid token; to any other queue it takes PROTECTION.
R286, R311: XKICK of an aligned block to an enabled ring that is not full, with none waiting and room in the warp's counter, writes the block at the ring's tail, adds one to
the tail, counts one operation of class xform, posts the request, and makes its destination pending with the request's index. -/
def Obligations.LaunchAndKick : Prop :=
  (∀ h d a q s t b w th pa epa, let va := (s.pair t a).toNat; let ctl := s.regN (lqReg b.ctx q.toNat 1); let x := s.lq b.ctx q.toNat
    Issues (.launch h d a q) h s t b w th → Quiet s t.core → Held s t va 128 .read pa →
    ((bit ctl 0 && bit ctl 5) = false → TakesCause (.launch h d a q) s t (causeVa 0x09 va th.pc)) ∧
    ((bit ctl 0 && bit ctl 5) = true → (x.tail - x.head).toNat < 2 ^ bits ctl 11 8 → NoneHeld s →
      Held s t (s.regN (lqReg b.ctx q.toNat 0) + 128 * (x.tail.toNat % 2 ^ bits ctl 11 8)) 128 .write epa →
      LeavesThread (.launch h d a q) s t (pended th (newPend d 2 (s.mkToken b.ctx q.toNat x.tail).toNat h th.pc 0)) fun s' =>
        s'.lq b.ctx q.toNat = { x with tail := x.tail + 1 } ∧ Mem.readN s'.mem epa 128 = Mem.readN s.mem pa 128 ∧ KeptOutside s.mem s'.mem epa 128 ∧ s'.regs = s.regs)) ∧
  (∀ h d a cls rel ring s t b w th pa epa, let va := (s.pair t a).toNat; let r := ring.toNat; let ctl := s.regN (xrReg b.ctx r 1); let tl := s.regN (xrReg b.ctx r 3)
    Issues (.xkick h d a cls rel ring) h s t b w th → Quiet s t.core → Held s t va 64 .read pa → bit ctl 0 = true →
    (tl + 2 ^ 32 - s.regN (xrReg b.ctx r 2)) % 2 ^ 32 ≠ 2 ^ bits ctl 11 8 → tl < 2 ^ 32 →
    Held s t (s.regN (xrReg b.ctx r 0) + 64 * (tl % 2 ^ bits ctl 11 8)) 64 .write epa →
    countOps w.ops .xform < 63 → (∀ o ∈ w.ops, o.id < s.nextId) → NoneHeld s →
    LeavesThread (.xkick h d a cls rel ring) s t (pended th (newPend d 1 tl h th.pc 0)) fun s' =>
      Mem.readN s'.mem epa 64 = Mem.readN s.mem pa 64 ∧ KeptOutside s.mem s'.mem epa 64 ∧ s'.regN (xrReg b.ctx r 3) = (tl + 1) % 2 ^ 32 ∧
      (∃ w', s'.warp? t = some w' ∧ w'.ops = w.ops ++ [⟨s.nextId, .xform, false, false, none⟩]) ∧
      ∃ q, s'.xreqs.getLast? = some q ∧ q.ctx = b.ctx ∧ q.ring = r ∧ q.idx = tl ∧ q.t = t ∧ q.op = s.nextId ∧ q.started = false)

/-- R85: LONG_RESULT_WRITE writes the first pending result whose value is known, destroys its entry, and changes nothing else; a destination v255
takes nothing.
R179, R349: SNOOZE_EXPIRE ends a snooze that has run out; QUEUE_TAKE gives a thread that waits for a queue with a ready element that element, moves HEAD
past it, and lets the thread run on at its instruction.
R381, R382, R395: a thread that runs outside handler mode takes its first imprecise cause at its next instruction; a thread that the forward-progress timer
finds waiting takes CONVERGENCE_STALL with its mask, and the timer starts again. -/
def Obligations.ThreadEvents : Prop :=
  (∀ s t b w th p v, At s t b w th → th.watch = none → th.trapq = none → th.binds = [] → th.pend.find? (fun p => p.value.isSome) = some p → p.value = some v →
    p.dst.toNat + p.n ≤ 255 ∨ p.dst = 255#8 →
    ∃ s' b' w' th', exec (.longResultWrite t) s = .next s' ∧ Local s s' t b w b' w' th' ∧ th' = { th with regs := th'.regs, pend := th.pend.erase p } ∧
      (p.dst ≠ 255#8 → ∀ k < p.n, s'.rv t (p.dst + BitVec.ofNat 8 k) = BitVec.ofNat 32 (v / 2 ^ (32 * k))) ∧
      ∀ r, (∀ k < p.n, r ≠ p.dst + BitVec.ofNat 8 k) ∨ p.dst = 255#8 → s'.rv t r = s.rv t r) ∧
  ((∀ s t b w th, At s t b w th → th.snooze = some 0 → ∃ s' b' w', exec (.snoozeExpire t) s = .next s' ∧ Local s s' t b w b' w' { th with snooze := none }) ∧
  (∀ s t b w th x pa epa base cap prods hd tl, At s t b w th → th.st = .waiting → th.wait = some x → x.kind = .queueTake → Quiet s t.core →
    Held s t x.addr.toNat 64 .write pa → QueueIs s.mem pa base cap prods hd tl → hd < Mem.readN s.mem (pa + 0x28) 8 → hd + 1 < 2 ^ 64 →
    Held s t (base + 4 * (hd % cap)) 4 .read epa → epa + 4 ≤ pa ∨ pa + 64 ≤ epa →
    Leaves (.queueTake t) s t b w { th with st := .running, wait := none, taken := th.taken ++ [BitVec.ofNat 32 (Mem.readN s.mem epa 4)] } fun m' =>
      QueueIs m' pa base cap prods (hd + 1) tl ∧ KeptOutside s.mem m' (pa + 0x18) 8)) ∧
  ((∀ s t b w th c cs, At s t b w th → b.stopped = false → b.preReq = false → th.st = .running → th.hmode = false → th.trapq = none → th.imps = c :: cs →
    exec (.impreciseDelivery t) s = .next (((s.hitTrace t c.code).modThread t fun th => { th with imps := cs }).deliver t { c with impr := true, rpc := th.pc } false)) ∧
  (∀ c k s b t w th x, s.block? c k = some b → At s t b w th → t.core = c → t.slot = k → (s.reg (fptKey b.ctx)).toNat ≠ 0 →
    65536 * (s.reg (fptKey b.ctx)).toNat ≤ b.fptimer → b.refs.find? (fun t => (b.thread? t.warp t.lane).any Thread.stalls) = some t → th.wait = some x →
    exec (.convergenceStall c k) s = .next ((s.modBlock c k fun b => { b with fptimer := 0 }).deliver t (causeOf 0x15 x.mask th.pc) false)))

/-! ### The tile set -/

/-- R112, R122, R185: a scalar instruction whose guard holds puts its result in flight, to land one schedule clk later; the tile PC goes to the next bundle,
and nothing else changes.
R98, R99: a no-operation of any slot, and an instruction whose guard does not hold, change nothing but that one of the S slot takes the tile PC to the
next bundle.
R187: SBR with a scalar other than 0, SJMP, SCALL and SRET take the tile PC to their target, and SCALL puts the next bundle's address in flight to its
scalar; SBR with 0 goes on.
R186: SLD of 8 aligned bytes within the scratchpad puts them in flight, to land 6 schedule clk later; SST writes them at once; other addresses fault
with MISALIGNED or BOUNDS. -/
def Obligations.ScalarSlot : Prop :=
  (∀ i s b g d v, scalarRule i b.tile.sv = some (g, d, v) → SlotIs s b → SGuard.holds g b.tile = true →
    exec i s = .next (s.flies b [⟨1, .scalar d.toNat, 1, 0, v.toNat, b.tile.sclk.toNat⟩] (b.tile.pc + 32))) ∧
  ((∀ s b, SlotIs s b → exec .snop s = .next (s.flies b [] (b.tile.pc + 32))) ∧
  (∀ s, exec .mnop s = .next s ∧ exec .vnop s = .next s ∧ exec .tnop s = .next s ∧ exec .cnop s = .next s ∧ exec .xnop s = .next s) ∧
  (∀ i s b g, sGuard i = some g → SlotIs s b → SGuard.holds g b.tile = false → exec i s = .next (s.flies b [] (b.tile.pc + 32))) ∧
  (∀ i s b g, slotGuard i = some g → SlotIs s b → SGuard.holds g b.tile = false → exec i s = .next s)) ∧
  (∀ i s b g taken tgt link, jumpRule i b.tile.sv b.tile.pc = some (g, taken, tgt, link) → SlotIs s b → SGuard.holds g b.tile = true →
    exec i s = .next (s.flies b (match link with | some d => [⟨1, .scalar d.toNat, 1, 0, (b.tile.pc + 32).toNat, b.tile.sclk.toNat⟩] | none => [])
      (if taken then tgt else b.tile.pc + 32))) ∧
  (∀ g d a off s b, SlotIs s b → SGuard.holds g b.tile = true → s.poolBad = [] → let x := (b.tile.sv a + off.signExtend 64).toNat
    (x % 8 = 0 → x + 8 ≤ 4096 * b.sprows →
      exec (.sld g d a off) s = .next (s.flies b [⟨1, .scalar d.toNat, 6, 0, Mem.readN b.spad x 8, b.tile.sclk.toNat⟩] (b.tile.pc + 32)) ∧
      exec (.sst g d a off) s = .next ((s.modBlock b.core b.slot fun b => { b with spad := Mem.writeN b.spad x (b.tile.sv d).toNat 8 }).flies b [] (b.tile.pc + 32))) ∧
    (x % 8 ≠ 0 → TileFaults (.sld g d a off) s b 0x06 x ∧ TileFaults (.sst g d a off) s b 0x06 x) ∧
    (x % 8 = 0 → 4096 * b.sprows < x + 8 → TileFaults (.sld g d a off) s b 0x07 x ∧ TileFaults (.sst g d a off) s b 0x07 x))

/-- R127, R188: LOOP of an inactive counter with at least one pass makes it active with its passes, its stages and the guards it saves, puts pass 0 and the
stage predicates of pass 0 in flight, and goes on; with no pass the LBR is sought; an active counter gives ILLEGAL_ENCODING.
R127, R189: LBR of an active counter with passes left goes to its target with the next pass and its stage predicates in flight; at the last pass the
counter becomes inactive, the guards that a staged loop saved are in flight, and the tile PC goes on; an inactive counter gives ILLEGAL_ENCODING.
R190: PCFG of a well-formed descriptor in the scratchpad puts it in flight; a malformed one gives ILLEGAL_ENCODING, and an address MISALIGNED or BOUNDS.
R193-R196: WAITE whose counter is at most its threshold, with no fault that it needs, and SFENCE, which for class 0 marks the schedule clk that later engine
operations come after (R194), go on, and a WAITE above its threshold stalls with cause
WAITE; SYSRD puts the register's 64 bits in flight, and of a handler register gives PRIVILEGE; TRAPT gives TRAP_INSTR with the next bundle as tile PC. -/
def Obligations.LoopsAndControl : Prop :=
  (∀ g lc a stages s b, SlotIs s b → SGuard.holds g b.tile = true →
    let l := lc.toNat; let c := ((b.tile.sv a).extractLsb' 0 32).toNat; let st := stages.toNat; let p := if st = 0 then c else c + st - 1
    ((b.tile.loopRec l).active = true → TileFaults (.loop g lc a stages) s b 0x02 s.cur.word.toNat) ∧
    ((b.tile.loopRec l).active = false → p = 0 → exec (.loop g lc a stages) s = .next (s.modBlock b.core b.slot fun b => { b with
      tile := { b.tile with scan := some l, pc := b.tile.pc + 32 } })) ∧
    ((b.tile.loopRec l).active = false → p ≠ 0 → ∃ v, (∀ j < 8, v.testBit j = stageOn 0 c st j) ∧ v < 256 ∧
      exec (.loop g lc a stages) s = .next (s.modBlock b.core b.slot fun b => { b with tile := { b.tile with
        loops := SMap.put b.tile.loops l ⟨p, st, b.tile.sg, true⟩, loopOrd := l :: b.tile.loopOrd, pc := b.tile.pc + 32
        infl := b.tile.infl ++ ⟨1, .loop l, 1, 0, 0, b.tile.sclk.toNat⟩ :: if st = 0 then [] else [⟨1, .sgs, 1, 0, v, b.tile.sclk.toNat⟩] } }))) ∧
  (∀ g lc off s b, SlotIs s b → SGuard.holds g b.tile = true →
    let l := lc.toNat; let r := b.tile.loopRec l; let k := (SMap.get b.tile.lc l 0).toNat
    (r.active = false → TileFaults (.lbr g lc off) s b 0x02 s.cur.word.toNat) ∧
    (r.active = true → k + 1 < r.passes → ∃ v, (∀ j < 8, v.testBit j = stageOn (k + 1) (r.passes + 1 - r.stages) r.stages j) ∧ v < 256 ∧
      exec (.lbr g lc off) s = .next (s.flies b (⟨1, .loop l, 1, 0, k + 1, b.tile.sclk.toNat⟩ :: if r.stages = 0 then [] else [⟨1, .sgs, 1, 0, v, b.tile.sclk.toNat⟩]) (b.tile.pc + 32 * off.signExtend 64))) ∧
    (r.active = true → r.passes ≤ k + 1 →
      exec (.lbr g lc off) s = .next (s.modBlock b.core b.slot fun b => { b with tile := { b.tile with
        loops := SMap.put b.tile.loops l { r with active := false }, loopOrd := b.tile.loopOrd.erase l, pc := b.tile.pc + 32
        infl := b.tile.infl ++ if r.stages = 0 then [] else [⟨1, .sgs, 1, 0, r.saved.toNat, b.tile.sclk.toNat⟩] } }))) ∧
  ((∀ g pt a off s b, SlotIs s b → SGuard.holds g b.tile = true → s.poolBad = [] →
    let x := (b.tile.sv a + off.signExtend 64).toNat; let d := Mem.readN b.spad x 64
    (x % 64 = 0 → x + 64 ≤ 4096 * b.sprows → portBad d = false →
      exec (.pcfg g pt a off) s = .next (s.flies b [⟨1, .pcfg pt.toNat, 1, 0, d, b.tile.sclk.toNat⟩] (b.tile.pc + 32))) ∧
    (x % 64 = 0 → x + 64 ≤ 4096 * b.sprows → portBad d = true → TileFaults (.pcfg g pt a off) s b 0x02 s.cur.word.toNat) ∧
    (x % 64 ≠ 0 → TileFaults (.pcfg g pt a off) s b 0x06 x) ∧ (x % 64 = 0 → 4096 * b.sprows < x + 64 → TileFaults (.pcfg g pt a off) s b 0x07 x))) ∧
  ((∀ g e n s b, SlotIs s b → SGuard.holds g b.tile = true → needErr e n.toNat b.tile.ops = none →
    (countOps b.tile.ops e ≤ n.toNat → exec (.waite g e n) s = .next (s.flies b [] (b.tile.pc + 32))) ∧
    (n.toNat < countOps b.tile.ops e → exec (.waite g e n) s = .next { s with tileStall := 5 })) ∧
  (∀ g sc m s b, SlotIs s b → SGuard.holds g b.tile = true → exec (.sfence g sc m) s = .next (s.modBlock b.core b.slot fun b => { b with
      tile := { b.tile with pc := b.tile.pc + 32, fence := if m.getLsbD 0 then b.tile.sclk.toNat else b.tile.fence } })) ∧
  (∀ g d n s b, SlotIs s b → SGuard.holds g b.tile = true →
    (¬ (0x40 ≤ n.toNat ∧ n.toNat ≤ 0x47 ∨ 0x400 ≤ n.toNat ∧ n.toNat ≤ 0x41F) →
      ∃ v : Dword, exec (.sysrd g d n) s = .next (s.flies b [⟨1, .scalar d.toNat, 1, 0, v.toNat, b.tile.sclk.toNat⟩] (b.tile.pc + 32)) ∧
        (∀ k < 6, n.toNat = 0x100 + k → v = (SMap.get b.tile.lc k 0).setWidth 64) ∧ (n = 0x108 → v = b.tile.sclk) ∧ (n = 0x110 → v = b.tile.sg.setWidth 64) ∧
        ∀ th x, sysRule s b th n.toNat = some x → v = x) ∧
    (0x40 ≤ n.toNat ∧ n.toNat ≤ 0x47 ∨ 0x400 ≤ n.toNat ∧ n.toNat ≤ 0x41F → TileFaults (.sysrd g d n) s b 0x04 s.cur.word.toNat)) ∧
  (∀ g code s b, SlotIs s b → SGuard.holds g b.tile = true →
    let x : State := { s.modBlock b.core b.slot fun z => { z with tile := { z.tile with pc := z.tile.pc + 32 } } with tileTrap := true }
    let y : State := x.tileFault b.core b.slot { causeOf 0x13 code.toNat b.tile.pc with tpc := b.tile.pc + 32 } false
    exec (.trapt g code) s = .next (y.modBlock b.core b.slot fun z => { z with tile := { z.tile with pc := b.tile.pc + 32 } })))

/-- R192: FMTW and FMTW.sel put their entry and their counter in flight with latency 1; a landed entry gives the format of code [3:0] at the signed scale
[9:4] where the counter in force selects it; a scalar with a higher bit set or a reserved code raises ILLEGAL_ENCODING at issue. -/
def Obligations.FormatTableWrites : Prop :=
  (∀ g e a s b, SlotIs s b → SGuard.holds g b.tile = true → let v := (b.tile.sv a).toNat
    (v < 2 ^ 10 → v % 16 < 10 → exec (.fmtw g e a) s = .next (s.flies b [⟨1, .fmt e.toNat, 1, 0, v, b.tile.sclk.toNat⟩] (b.tile.pc + 32))) ∧
    (2 ^ 10 ≤ v ∨ 10 ≤ v % 16 → TileFaults (.fmtw g e a) s b 0x02 s.cur.word.toNat)) ∧
  (∀ g lc s b, SlotIs s b → SGuard.holds g b.tile = true → exec (.fmtwSel g lc) s = .next (s.flies b [⟨1, .fsel, 1, 0, lc.toNat, b.tile.sclk.toNat⟩] (b.tile.pc + 32))) ∧
  (∀ (t t1 t2 : TileCtx) u k1 k2 x1 x2 (e : BitVec 4) (lc : BitVec 3) v, v < 2 ^ 10 → landRule ⟨u, .fmt e.toNat, k1, 0, v, x1⟩ t = some t1 → landRule ⟨u, .fsel, k2, 0, lc.toNat, x2⟩ t1 = some t2 →
    (SMap.get t.lc lc.toNat 0).toNat % 16 = e.toNat →
    ∀ f, Fmt.ofCode (BitVec.ofNat 4 (v % 16)) = some f → t2.fsel? .table = (f, (BitVec.ofNat 6 (v / 16)).toInt))

/-- R214: XS2T writes the low half of a scalar to all 64 lanes of a vector; XT2S writes lane 1 of a vector to the high half of a scalar and lane 0 to
its low half; both land 3 schedule clk later, and neither faults. -/
def Obligations.TransfersOfTheXSlot : Prop :=
  ∀ g w k s b, SlotIs s b → SGuard.holds g b.tile = true →
    (∃ v, exec (.xs2t g w k) s = .next (s.flies b [⟨5, .vector w.toNat, 3, 0, v, b.tile.sclk.toNat⟩] b.tile.pc) ∧ ∀ j < 64, laneAt v j = (b.tile.sv k).toNat % 2 ^ 32) ∧
    exec (.xt2s g k w) s = .next (s.flies b [⟨5, .scalar k.toNat, 3, 0,
      ((SMap.get b.tile.w w.toNat 0).extractLsb' 32 32).toNat * 2 ^ 32 + ((SMap.get b.tile.w w.toNat 0).extractLsb' 0 32).toNat, b.tile.sclk.toNat⟩] b.tile.pc)

/-- R199-R201: MNEST, MSRC and MACC put a level, the sources and the accumulator base of the loop-nest table in flight, and nothing else changes.
R130, R202, R203: MGO and MRET that meet no check, with room in their counter and for MGO among the quad's entries that none has selected (R132), join the engine and count as one operation
of class matrix; a full counter stalls them with cause CMDQ, a full table MGO with cause 7. -/
def Obligations.MatrixSlot : Prop :=
  (∀ s b g, SlotIs s b → SGuard.holds g b.tile = true →
    (∀ lvl e a x c, exec (.mnest g lvl e a x c) s = .next (s.flies b [⟨2, .level lvl.toNat, 1, 0, (b.tile.sv e).toNat % 2 ^ 16 + 2 ^ 16 * ((b.tile.sv a).toNat % 2 ^ 32) +
      2 ^ 48 * ((b.tile.sv x).toNat % 2 ^ 32) + 2 ^ 80 * ((b.tile.sv c).toNat % 2 ^ 32), b.tile.sclk.toNat⟩] b.tile.pc)) ∧
    (∀ a x fa fb md, exec (.msrc g a x fa fb md) s = .next (s.flies b [⟨2, .msrc, 1, 0, 2 ^ 28 * (Loc.code a).toNat + 2 ^ 23 * (Loc.code x).toNat +
      2 ^ 19 * (FSel.code fa).toNat + 2 ^ 15 * (FSel.code fb).toNat + (match md with | some l => 2 ^ 14 + 2 ^ 9 * (Loc.code l).toNat | none => 0), b.tile.sclk.toNat⟩] b.tile.pc)) ∧
    (∀ row z, exec (.macc g row z) s = .next (s.flies b [⟨2, .macc, 1, 0, 2 ^ 22 * row.toNat + (if z then 2 ^ 21 else 0), b.tile.sclk.toNat⟩] b.tile.pc))) ∧
  (∀ s b g rel, SlotIs s b → SGuard.holds g b.tile = true → let t := b.tile
    let fa := t.selEntry (bits t.nest.msrc.toNat 22 19); let fb := t.selEntry (bits t.nest.msrc.toNat 18 15); let q := s.quad (quadOf b.core); let tab := q.tab
    let wt := tab.filter fun p => q.sel != some p.id
    (63 ≤ countOps t.ops .matrix → exec (.mgo g rel) s = .next { s with tileStall := 6 } ∧ ∀ loc f, exec (.mret g loc f rel) s = .next { s with tileStall := 6 }) ∧
    (countOps t.ops .matrix < 63 → (16 ≤ wt.length ∨ 4 ≤ (wt.filter fun p => p.core == b.core && p.slot == b.slot).length) →
      exec (.mgo g rel) s = .next { s with tileStall := 7 }) ∧
    (countOps t.ops .matrix < 63 → wt.length < 16 → (wt.filter fun p => p.core == b.core && p.slot == b.slot).length < 4 →
      mgoCheck b t.nest fa fb s.cur.word.toNat = none → ∃ s' b' p, exec (.mgo g rel) s = .next s' ∧
        { s' with blocks := s.blocks, quads := s.quads, nextId := s.nextId } = s ∧ (s'.quad (quadOf b.core)).tab.map Pass.id = tab.map Pass.id ++ [s.nextId] ∧
        p ∈ (s'.quad (quadOf b.core)).tab ∧ (q.run ≠ none → (s'.quad (quadOf b.core)).tab = tab ++ [p]) ∧ p.id = s.nextId ∧ p.core = b.core ∧
        p.slot = b.slot ∧ p.tab = t.nest ∧ p.fa = fa ∧ p.fb = fb ∧ p.tpc = t.pc ∧ s'.block? b.core b.slot = some b' ∧
        b' = { b with tile := { t with ops := t.ops ++ [⟨s.nextId, .matrix, false, false, none⟩] } }) ∧
    (∀ loc f, countOps t.ops .matrix < 63 → mretCheck b loc (entryFmt (t.selEntry (FSel.code f).toNat)).1 (bits t.nest.macc.toNat 32 22) s.cur.word.toNat = none →
      ∃ s' b' m, exec (.mret g loc f rel) s = .next s' ∧ { s' with blocks := s.blocks, cores := s.cores, nextId := s.nextId } = s ∧
        (s'.core b.core).mrets = (s.core b.core).mrets ++ [m] ∧ m.id = s.nextId ∧ m.slot = b.slot ∧ m.loc = loc ∧ m.row = bits t.nest.macc.toNat 32 22 ∧
        (∀ p ∈ (s.quad (quadOf b.core)).tab, p.core = b.core → p.slot = b.slot → p.grid = b.grid → p.lin = b.lin → p.id ∈ m.passes) ∧
        (∀ p, (s.quad (quadOf b.core)).run = some p → p.core = b.core → p.slot = b.slot → p.grid = b.grid → p.lin = b.lin → p.id ∈ m.passes) ∧
        s'.block? b.core b.slot = some b' ∧ b' = { b with tile := { t with ops := t.ops ++ [⟨s.nextId, .matrix, false, false, none⟩] } }))

/-- R103, R112, R146, R147, R205, R207-R209, R211: a V instruction of registers, literals and wz, in formats that it accepts, puts the 64 results of its rule in
flight to a register, with VNAN exactly when its rule can set it and a result is a NaN; nothing else changes.
R206, R210, R212: VCVT converts each lane and gathers the flags of its conversions; VTOPK writes the indices of the largest candidates in R210's order;
VSACC keeps a finite sum finite and ignores a NaN addend, which sets VNAN; each puts its result in flight to its register, and nothing else changes. -/
def Obligations.VectorSlot : Prop :=
  (∀ i s b r fm vs dst, vecRule i b.tile.sv = some r → SlotIs s b → SGuard.holds r.g b.tile = true → r.fmts.length = fm.length →
    (∀ (k : Nat) x y, r.fmts[k]? = some x → fm[k]? = some y → inForce b.tile x.1 y ∧ y.1 ∈ x.2) → r.srcs.length = vs.length →
    (∀ (k : Nat) o f, r.srcs[k]? = some o → vs[k]? = some f → opLanes b.tile o = some f) → vecDest r.d = some dst →
    ∃ v tst, exec i s = .next (s.flies b [⟨3, dst, r.lat, tst, v, b.tile.sclk.toNat⟩] b.tile.pc) ∧ (∀ j < 64, laneAt v j = r.out fm vs j) ∧ (tst = 0 ∨ tst = 1) ∧
      (tst = 1 ↔ r.nan fm = true ∧ ∃ j < 64, (ff32.dec (r.out fm vs j)).isNan = true)) ∧
  ((∀ g d a fd fs rm s b df src f, SlotIs s b → SGuard.holds g b.tile = true → inForce b.tile fd df → inForce b.tile fs src →
    df.1 ∈ [Fmt.fp32, .fp16, .bf16, .tf8, .tf6, .int8, .int32, .uint8] → src.1 ∈ [Fmt.fp32, .fp16, .bf16, .tf8, .tf6, .int8, .int32, .uint8, .e8] →
    opLanes b.tile a = some f → let c := fun j => convertTile src.1 df.1 rm src.2 df.2 (f j % 2 ^ src.1.width)
    ∃ v tst, exec (.vcvt g (.w d) a fd fs rm) s = .next (s.flies b [⟨3, .vector d.toNat, 8, tst, v, b.tile.sclk.toNat⟩] b.tile.pc) ∧ (∀ j < 64, laneAt v j = (c j).bits % 2 ^ 32) ∧
      (tst.getLsbD 0 = true ↔ ∃ j < 64, (c j).nan = true) ∧ (tst.getLsbD 3 = true ↔ ∃ j < 64, (c j).sat = true) ∧
      (tst.getLsbD 4 = true ↔ ∃ j < 64, (c j).lift = true) ∧ tst.getLsbD 1 = false ∧ tst.getLsbD 2 = false) ∧
  (∀ g d w k nv fs x s b, SlotIs s b → SGuard.holds g b.tile = true → inForce b.tile fs x → x.1 = .fp32 →
    let n := 64 * (nv.toNat + 1); let val := fun j => laneAt (SMap.get b.tile.w (w + BitVec.ofNat 4 (j / 64)).toNat 0).toNat (j % 64)
    let before := fun p q => (ff32.dec (val p)).isNan = false ∧ ((ff32.dec (val q)).isNan = true ∨ (ff32.dec (val p)).cmp (ff32.dec (val q)) = some .gt)
    k.toNat ≤ 64 → ∃ v o, exec (.vtopk g (.w d) (.w w) k nv fs) s = .next (s.flies b [⟨3, .vector d.toNat, 24, 0, v, b.tile.sclk.toNat⟩] b.tile.pc) ∧
      List.Perm o (List.range n) ∧ o.Pairwise (fun p q => before p q ∨ ¬ before q p ∧ p < q) ∧
      ∀ j < 64, laneAt v j = if j < k.toNat then o.getD j 0 else 0xFFFFFFFF) ∧
  (∀ g d a y fs x s b f h, SlotIs s b → SGuard.holds g b.tile = true → inForce b.tile fs x → x.1 = .fp32 → opLanes b.tile a = some f → opLanes b.tile y = some h →
    let r := fun j => rne ff32 ((ff32.dec (f j)).add .rn (ff32.dec (h j)))
    ∃ v tst, exec (.vsacc g (.w d) a y fs) s = .next (s.flies b [⟨3, .vector d.toNat, 4, tst, v, b.tile.sclk.toNat⟩] b.tile.pc) ∧
      (∀ j < 64, laneAt v j = if (ff32.dec (h j)).isNan then (if (ff32.dec (f j)).isNan then ff32.nanBits else f j)
        else if (ff32.dec (r j)).isInf && (ff32.dec (f j)).isFin && (ff32.dec (h j)).isFin then (if ff32.dec (r j) = .inf true then 0xFF7FFFFF else 0x7F7FFFFF) else r j) ∧
      (tst = 1 ∨ tst = 0) ∧ (tst = 1 ↔ ∃ j < 64, (ff32.dec (laneAt v j)).isNan = true ∨ (ff32.dec (h j)).isNan = true)))

/-- R213: TRN and TRNC of bound handles of transposed shapes put every element of the source, converted for TRNC, in flight to the destination; an unbound
destination gives TILE_BINDING. -/
def Obligations.TileTransposes : Prop :=
  (∀ g d k f s b hd hs df, SlotIs s b → SGuard.holds g b.tile = true → s.poolBad = [] → SMap.get? b.tile.handles d.toNat = some hd → SMap.get? b.tile.handles k.toNat = some hs →
    hd.nrows = hs.ncols → hd.ncols = hs.nrows → hd.nrows * hd.ncols ≤ 16384 →
    (hd.fmt = hs.fmt → ∃ v, exec (.trn g d k) s = .next (s.flies b [⟨4, .handle d.toNat, 6, 0, v, b.tile.sclk.toNat⟩] b.tile.pc) ∧
      ∀ y < hd.nrows, ∀ x < hd.ncols, v / 2 ^ (hd.fmt.width * (y * hd.ncols + x)) % 2 ^ hd.fmt.width = b.tileElem hs x y % 2 ^ hd.fmt.width) ∧
    (inForce b.tile f df → df.1 ∈ [Fmt.fp32, .fp16, .bf16, .tf8, .tf6, .int8, .int32, .uint8] → hd.fmt = df.1 → ∃ v tst, exec (.trnc g d k f) s = .next (s.flies b [⟨4, .handle d.toNat, 6, tst, v, b.tile.sclk.toNat⟩] b.tile.pc) ∧
      ∀ y < hd.nrows, ∀ x < hd.ncols, v / 2 ^ (hd.fmt.width * (y * hd.ncols + x)) % 2 ^ hd.fmt.width =
        (convertTile hs.fmt df.1 .rn 0 df.2 (b.tileElem hs x y)).bits % 2 ^ hd.fmt.width)) ∧
  (∀ g d k s b, SlotIs s b → SGuard.holds g b.tile = true → SMap.get? b.tile.handles d.toNat = none → TileFaults (.trn g d k) s b 0x10 d.toNat)

/-- R184, R287, R288, R290, R294: a command of the C slot with room in its queue and counter, whose records are well-formed and that meets no check, joins
its core's queue behind the others with its scalars, records and tile PC, and counts as one operation of its class; without room it stalls with cause
CMDQ; a record index outside the image gives BOUNDS, and a failed check the cause and h0 that R294 gives it.
R227, R301: CRING of a well-formed word configures its ring, or resets it, with nothing in it, and no other ring and no byte of the scratchpad changes,
when no producer or consumer holds the ring; a word with reserved bits or a ring of more than 2^21 bytes gives ILLEGAL_ENCODING, a ring that leaves the
scratchpad BOUNDS with the word for h0. -/
def Obligations.CopySlot : Prop :=
  (∀ i s b g c t2 e gr, copyRule i = some (g, c, t2, e) → SlotIs s b → SGuard.holds g b.tile = true → s.gridOf b = some gr →
    (s.cmdFull b e = true → exec i s = .next { s with tileStall := 6 }) ∧
    (s.cmdFull b e = false → gr.img.tensCount ≤ c.tens.toNat → TileFaults i s b 0x07 c.tens.toNat) ∧
    (s.cmdFull b e = false → c.tens.toNat < gr.img.tensCount → (∀ t, t2 = some t → t < gr.img.tensCount) → ∀ s1 r1 r2, RecordsRead s b gr c t2 s1 r1 r2 →
      tensorBad r1 gr.img.bufs.length = false → tensorBad r2 gr.img.bufs.length = false ∨ t2 = none →
      (∀ code h0, (issued i c b.tile r1 r2).check b gr s.cur.word.toNat = some (code, h0) → code ≠ 0x06 →
        exec i s = .next (s1.tileFault b.core b.slot { causeOf code h0 b.tile.pc with tpc := b.tile.pc } false)) ∧
      ((issued i c b.tile r1 r2).check b gr s.cur.word.toNat = none → ∃ (s' : State) (m : Cmd), exec i s = .next s' ∧
        (s'.core b.core).cq = (s1.core b.core).cq ++ [m] ∧ m.i = i ∧ m.grp = (issued i c b.tile r1 r2).grp ∧ m.rec1.toNat = r1 % 2 ^ 512 ∧ m.rec2.toNat = r2 % 2 ^ 512 ∧
        m.st = .queued ∧ m.pos = 0 ∧ m.core = b.core ∧ m.slot = b.slot ∧ m.grid = b.grid ∧ m.lin = b.lin ∧ m.tpc = b.tile.pc ∧ m.err = none ∧
        s'.block? b.core b.slot = some { b with tile := { b.tile with ops := b.tile.ops ++ [⟨m.id, e, false, false, none⟩] } } ∧ s'.mem = s1.mem))) ∧
  (∀ g ring k s b, SlotIs s b → SGuard.holds g b.tile = true → countOps b.tile.ops .copy < 63 → let v := (b.tile.sv k).toNat; let q := ring.toNat
    let good := v / 2 ^ 32 = 0 ∧ v / 2 ^ 26 % 2 ^ 5 = 0 ∧ v / 2 ^ 22 % 2 ^ 4 ≤ 13 ∧ v % 256 = 0
    (¬ good → TileFaults (.cring g ring k) s b 0x02 s.cur.word.toNat) ∧
    (good → v.testBit 31 = true → 4096 * b.sprows < v % 2 ^ 22 + 2 ^ (v / 2 ^ 22 % 2 ^ 4 + 8) → TileFaults (.cring g ring k) s b 0x07 v) ∧
    (good → v.testBit 31 = false ∨ v % 2 ^ 22 + 2 ^ (v / 2 ^ 22 % 2 ^ 4 + 8) ≤ 4096 * b.sprows →
      (∀ c ∈ s.cores, ∀ m ∈ c.2.cq, m.grid = b.grid → m.lin = b.lin → m.ringOf ≠ some q) → (s.quad (quadOf b.core)).run = none → (b.ring q).pops = [] →
      ∃ s' b', exec (.cring g ring k) s = .next s' ∧ s'.block? b.core b.slot = some b' ∧ b'.ring q = ringOfWord v ∧ (∀ p, p ≠ q → b'.ring p = b.ring p) ∧
        b'.spad = b.spad ∧ b'.acc = b.acc ∧ b'.tile.pc = b.tile.pc ∧ b'.tile.s = b.tile.s ∧ b'.tile.w = b.tile.w))

/-- R111, R122, R124, R149, R191, R252: a result whose latency has run out lands in its destination with its TSTAT bits, and nothing else changes; the first
vector of a read port arrives; a bundle that does not decode gives ILLEGAL_OPCODE or ILLEGAL_ENCODING with its upper 64 bits for h0; a slot that has stalled
256 clk on a command that is held still leaves the sequencer free. -/
def Obligations.TileEvents : Prop :=
  (∀ c k s b f t', s.block? c k = some b → b.tile.infl.filter (fun f => f.rem == 0) = [f] →
    landRule f { b.tile with infl := b.tile.infl.filter fun f => f.rem != 0 } = some t' →
    ∃ s', exec (.tileResultLand c k) s = .next s' ∧ s'.block? c k = some { b with tile := t', tstat := b.tstat ||| f.tst.setWidth 64 } ∧
      { s' with blocks := s.blocks } = s ∧ ∀ c' k', ¬ (c' = c ∧ k' = k) → s'.block? c' k' = s.block? c' k') ∧
  (∀ c k n s b p, s.block? c k = some b → SMap.get? b.tile.ports n = some p → p.arrive = 1 →
    ∃ s' b', exec (.portVectorArrive c k n) s = .next s' ∧ { s' with blocks := s.blocks } = s ∧ s'.block? c k = some b' ∧
      SMap.get? b'.tile.ports n = some { p with arrive := 0 } ∧ (∀ m, m ≠ n → SMap.get? b'.tile.ports m = SMap.get? b.tile.ports m) ∧
      b' = { b with tile := { b.tile with ports := b'.tile.ports } }) ∧
  (∀ w e s b, SlotIs s b → decodeBundle w = .error e →
    TileFaults (.bundleDecodeTrap w) s b (match e with | .illegalOpcode => 0x01 | .illegalEncoding => 0x02) (w.toNat / 2 ^ 192)) ∧
  (∀ c k s b, s.block? c k = some b → 256 ≤ b.tile.stallRun → (∃ m ∈ (s.core c).cq, m.st = .held ∧ m.id ∈ b.tile.stallOn) → (s.core c).seqFree = false →
    (s.core c).seq = k → ∃ s', exec (.tileStallFreeze c k) s = .next s' ∧ (s'.core c).seqFree = true ∧ { s' with cores := s.cores } = s ∧
      ∀ c', c' ≠ c → s'.core c' = s.core c')

/-! ### Engines -/

/-- R131, R132: when no pass runs and none is selected, the entry that may start, none of the others having been passed over 8 times, of the least priority
value and among those the oldest, starts; the others are passed over once more. An entry that is selected starts. At the end of a pass the engine selects the
entry that the same order picks.
R150, R151, R154, R202, R204: a pass of one step of FP32 tiles ends: each accumulator of its 128 rows becomes the rounded sum of what it held, or of 0 with
Z, and the product of its row of A and its column of B; no other row changes, and the engine is free.
R203, R222, R224: an MRET in FP32 whose earlier passes have retired writes its 128 rows of accumulators, converted, to its ring in row order when there is
room and no producer waits before it: a landed reservation of 65536 bytes; no other byte of the scratchpad changes. Without room it waits. -/
def Obligations.MatrixEngine : Prop :=
  (∀ q s p, (s.quad q).run = none → ((s.quad q).sel = none ∧ Picks s q p ∨ (s.quad q).sel = some p.id ∧ Entry s q p) →
    ∃ s' p1, exec (.passStart q) s = .next s' ∧ { s' with quads := s.quads } = s ∧ (s'.quad q).run = some p1 ∧ p1 = { p with heads := p1.heads } ∧ (s'.quad q).sel = none ∧
      (s'.quad q).tab = ((s.quad q).tab.filter fun e => e.id != p.id).map (fun e => if (s.quad q).sel = none then { e with skip := e.skip + 1 } else e) ∧
      ∀ q', q' ≠ q → s'.quad q' = s.quad q') ∧
  (∀ q s p b o ha hb, (s.quad q).run = some p → s.gridDead p.grid = false → s.block? p.core p.slot = some b → matOp p.tab p.fa p.fb = some o → o.kd = 1 →
    (∃ x y, o.a = .tile x ∧ o.b = .tile y) → p.ha = some ha → p.hb = some hb → (∀ l ∈ p.tab.lv, l.e = 1) → s.poolBad = [] → s.accBad = [] →
    (∀ g, s.gridOf b = some g → g.nbv = false) →
    ∃ s' b', exec (.passRetire q) s = .next s' ∧ s'.block? p.core p.slot = some b' ∧ (s'.quad q).run = none ∧ (∀ p2, Picks s q p2 → (s'.quad q).sel = some p2.id) ∧
      (∀ i < 128, ∀ j < 128, laneAt (SMap.get b'.acc (o.row + i) 0).toNat j =
        rne ff32 ((ff32.dec (if o.z then 0 else laneAt (SMap.get b.acc (o.row + i) 0).toNat j)).add .rn
          (exactSum [prodMx (decFmt o.fa o.sa (b.tileElem ha i 0)) (decFmt o.fb o.sb (b.tileElem hb 0 j))]))) ∧
      (∀ r, r < o.row ∨ o.row + 128 ≤ r → SMap.get b'.acc r 0 = SMap.get b.acc r 0) ∧ b'.spad = b.spad) ∧
  (∀ c k s b m q, s.block? c k = some b → s.mretFront c k = some m → m.loc = .ring q → (entryFmt m.fmt).1 = .fp32 → m.rst = false → s.poolBad = [] → s.accBad = [] →
    let r := b.ring q.toNat; let n := 2 ^ 16
    r.cfg = true → r.waits = [] → (∀ x ∈ r.resvs, x.id ≠ m.id) → r.resv.toNat % 4 = 0 → r.rbase % 4 = 0 →
    (n ≤ r.free → n ≤ r.size → ∃ s' b', exec (.mretPerform c k) s = .next s' ∧ s'.block? c k = some b' ∧
      b'.ring q.toNat = { r with resv := r.resv + BitVec.ofNat 32 n, resvs := r.resvs ++ [⟨m.id, r.resv.toNat, n, true⟩] } ∧ b'.acc = b.acc ∧
      (∀ y < 128, ∀ x < 128, Mem.readN b'.spad (r.rbase + (r.resv.toNat + 4 * (128 * y + x)) % r.size) 4 =
        (convertTile (if m.int then .int32 else .fp32) .fp32 .rn 0 (entryFmt m.fmt).2 (laneAt (SMap.get b.acc (m.row + y) 0).toNat x)).bits % 2 ^ 32) ∧
      ∀ a, a < r.rbase ∨ r.rbase + r.size ≤ a → Mem.get b'.spad a = Mem.get b.spad a) ∧
    (r.free < n → ∃ s' b', exec (.mretPerform c k) s = .next s' ∧ { s' with blocks := s.blocks } = s ∧ s'.block? c k = some b' ∧ b'.spad = b.spad ∧
      b'.ring q.toNat = { r with waits := [m.id] }))

/-- R224, R287, R293, R297: a queued CLD without BAR, VER or expansion, of one run in memory within one line that its page permits, the only command that can go on, starts when its ring has room and no producer waits: its
reservation is made and landed, its bytes lie there in stream order, and the command has moved; with no room it waits for the ring.
R224, R302, R338, R287: a waiting producer's reservation is made when its bytes are free and fewer than 8 commands are in progress; the first landed reservation of a ring becomes its tail; a chunk of a command with
BAR and without VER takes its bytes from PEND; a command that has moved and counted all leaves its queue. -/
def Obligations.CopyEngine : Prop :=
  (∀ c s m b gr q va n s1 bs h, s.movers c = [m] → m.st = .queued → m.err = none → cmdKind m.i = .ld → (cmdFld m.i).loc = .ring q → s.home? m.grid m.lin = some b → b.grid = m.grid → b.lin = m.lin → s.grid? m.grid = some gr →
    (cmdMod m.i).xf = none → (cmdMod m.i).bar = false → (cmdMod m.i).ver = false → m.pos = 0 → m.total = n → m.pieces = [⟨0, n, .mem va, 0, .ring⟩] → s.poolBad = [] →
    let r := b.ring q.toNat
    r.waits = [] → (∀ x ∈ r.resvs, x.id ≠ m.id) →
    (n ≤ r.free → 0 < n → n ≤ r.size → (s.modHome m.grid m.lin fun b => b.modRing q.toNat fun r => r.reserve m.id n false).engRead (.quad (quadOf m.core)) m.ctx va n 3 = .ok s1 bs h →
      bs.length = n → ∃ s' b', exec (.copyCmdStart c) s = .next s' ∧ s'.home? m.grid m.lin = some b' ∧ s'.mem = s1.mem ∧
        b'.ring q.toNat = { r with resv := r.resv + BitVec.ofNat 32 n, resvs := r.resvs ++ [⟨m.id, r.resv.toNat, n, true⟩] } ∧
        (∀ k < n, Mem.get b'.spad (r.rbase + (r.resv.toNat + k) % r.size) = bs.getD k 0) ∧
        (∀ a, a < r.rbase ∨ r.rbase + r.size ≤ a → Mem.get b'.spad a = Mem.get b.spad a) ∧
        ∀ x ∈ s'.cores, ∀ y ∈ x.2.cq, y.id = m.id → y.st = .moved) ∧
    (r.free < n → ∃ s' b', exec (.copyCmdStart c) s = .next s' ∧ s'.home? m.grid m.lin = some b' ∧ b'.ring q.toNat = { r with waits := [m.id] } ∧ b'.spad = b.spad ∧ s'.mem = s.mem)) ∧
  ((∀ c k q s b id ids n, s.block? c k = some b → (b.ring q).waits = id :: ids → (b.ring q).cfg = true → s.waiterBytes c id = some n → n ≤ (b.ring q).free → s.frozenCtx b.ctx = false →
    ((s.core c).cq.filter fun x => x.st != .queued).length < 8 →
    ids.all (fun x => x != id) = true → ∃ s' b', exec (.ringReserve c k q) s = .next s' ∧ s'.block? c k = some b' ∧ { s' with blocks := s.blocks, cores := s.cores } = s ∧
      b'.ring q = { b.ring q with resv := (b.ring q).resv + BitVec.ofNat 32 n, resvs := (b.ring q).resvs ++ [⟨id, (b.ring q).resv.toNat, n, false⟩], waits := ids } ∧
      (∀ p, p ≠ q → b'.ring p = b.ring p) ∧ ∀ x ∈ s'.cores, ∀ m ∈ x.2.cq, m.id = id → m.st = .reserved) ∧
  (∀ c k q s b x xs, s.block? c k = some b → (b.ring q).resvs = x :: xs → x.landed = true → ∃ s' b', exec (.ringArrive c k q) s = .next s' ∧ s'.block? c k = some b' ∧
    { s' with blocks := s.blocks } = s ∧ b'.ring q = { b.ring q with tail := (b.ring q).tail + BitVec.ofNat 32 x.len, resvs := xs } ∧ (∀ p, p ≠ q → b'.ring p = b.ring p) ∧
    b' = { b with rings := b'.rings }) ∧
  (∀ c id s m n crc ch s1 pa a p x ar ph sc pc, s.cmd? c id = some m → m.st = .moved ∨ m.st = .reserved → m.err = none → m.watched = false → m.chunks = (n, crc) :: ch → (cmdMod m.i).ver = false →
    (cmdMod m.i).bar = true → s.translate (.quad (quadOf m.core)) m.ctx (grpN m.grp (cmdIx m.i 2)) .write = (s1, .ok pa a) → BarIs s1.mem pa p x ar ph sc pc → n ≤ p → p < 2 ^ 63 →
    s1.hasCw = false → s1.poison = [] → NoWaiters s1 pa →
    ∃ s', exec (.chunkCounted c id) s = .next s' ∧ barOf s'.mem pa = (if p = n ∧ ar = x then [0, x, 0, (ph + 1) % 2 ^ 32, sc, 1, pc] else [p - n, x, ar, ph, sc, 1, pc]) ∧
      KeptOutside s1.mem s'.mem pa 32 ∧ ∀ y ∈ s'.cores, ∀ z ∈ y.2.cq, z.id = m.id → z.chunks = ch ∧ z.counted = m.counted + 1) ∧
  (∀ c id s m, s.cmd? c id = some m → m.st = .moved → m.watched = false → m.chunks = [] → m.err = none ∨ (cmdMod m.i).bar = false → ∃ s', exec (.copyCmdComplete c id) s = .next s' ∧ (∀ y ∈ (s'.core c).cq, y.id ≠ id) ∧
    ∀ y ∈ (s.core c).cq, y.id ≠ id → y ∈ (s'.core c).cq))

/-- R311, R312, R313: the work of a started request, the only one of its ring that can go on, begins with its block, which its page permits to be read: a malformed one ends with status 1 and ILLEGAL_ENCODING, and a CRC of at
most 512 bytes ends with the CRC-32C of its source from its initial value. A new request is taken by an idle engine of its ring and RHEAD goes past it.
R311, R314: the oldest started request of a ring, once done, writes its completion record at its aligned address and is over: cookie, index, status, cause and engine, one
operation less. -/
def Obligations.TransformEngine : Prop :=
  ((∀ c k s r s1 bs h, s.liveReqs c k = [r] → r.started = true → r.pos = 0 → r.ctx = c → r.ring = k →
    s.engRead r.tlb c (s.regN (xrReg c k 0) + 64 * (r.idx % 2 ^ bits (s.regN (xrReg c k 1)) 11 8)) 64 3 = .ok s1 bs h → s1.xreqs = s.xreqs → let q := leNat bs
    (reqBad q = true → ∃ s' r', exec (.xformRequestStart c k) s = .next s' ∧ r' ∈ s'.xreqs ∧ r'.idx = r.idx ∧ r'.ring = k ∧ r'.ctx = c ∧ r'.done = true ∧ r'.status = 1 ∧
      r'.cause = 0x02 ∧ s'.mem = s1.mem) ∧
    (reqBad q = false → recN q 0 1 = 3 → 0 < recN q 4 4 → recN q 4 4 ≤ 512 → ∀ s2 ds h2, s1.engRead r.tlb c (recN q 8 8) (recN q 4 4) 3 = .ok s2 ds h2 → s2.xreqs = s1.xreqs →
      ∃ s' r', exec (.xformRequestStart c k) s = .next s' ∧ r' ∈ s'.xreqs ∧ r'.idx = r.idx ∧ r'.ring = k ∧ r'.ctx = c ∧ r'.done = true ∧ r'.status = r.status ∧
        r'.result = ds.foldl (fun x y => Nat.repeat (fun z => if z % 2 = 1 then z / 2 ^^^ 0x82F63B78 else z / 2) 8 (x ^^^ y.toNat)) (recN q 0x30 4) ∧ s'.mem = s2.mem)) ∧
  (∀ c k s r, s.liveReqs c k = [r] → r.started = false → ∃ (s1 : State) (e : Nat), e ∈ s.idleEngines c k ∧ exec (.xformRequestStart c k) s = .next (s1.runReq { r with started := true, eng := e }) ∧
    s1.regN (xrReg c k 2) = (r.idx + 1) % 2 ^ 32 ∧ s1.mem = s.mem ∧ s1.blocks = s.blocks)) ∧
  (∀ c k s r s1 pa a, s.doneReq c k = some r → r.hold = none → let q := r.blk.toNat; let va := recN q 0x20 8
    va ≠ 0 → va % 32 = 0 → s.translate r.tlb r.ctx va .write = (s1, .ok pa a) → PlainWrite s1 r.t.core → r.cause = 0 → (∀ b ∈ s.blocks, b.frame = none) → s.saved = [] → s1.saved = [] →
    (∀ b ∈ s1.blocks, b.frame = none) →
    ∃ s', exec (.xformComplete c k) s = .next s' ∧ KeptOutside s1.mem s'.mem pa 32 ∧ Mem.readN s'.mem pa 8 = recN q 0x28 8 ∧ Mem.readN s'.mem (pa + 8) 4 = r.idx % 2 ^ 32 ∧
      Mem.readN s'.mem (pa + 12) 1 = r.status % 256 ∧ Mem.readN s'.mem (pa + 13) 1 = 0 ∧ Mem.readN s'.mem (pa + 14) 2 = r.eng % 2 ^ 16 ∧
      ∀ x ∈ s'.xreqs, ¬ (x.ctx = r.ctx ∧ x.ring = r.ring ∧ x.idx = r.idx))

/-- R263, R277-R279: a remote operation at its home is performed when nothing of its stream is before it: a load reads, a store writes its bytes, an atomic writes its new value, and no
other byte changes; the reply, of one that this device made, carries the value that a load or atomic found. A page fault holds it.
R87, R269, R278: the reply of a remote operation without a fault makes the value of its pending destination known, and the operation is over; a fault of one with a destination is taken
by its thread as a late fault, and its destination is no longer pending. -/
def Obligations.RemoteStreams : Prop :=
  (∀ n s r c s1, s.remIn.find? (fun r => r.n == n) = some r → s.remNow r = true → s.remCtx r = some c →
    r.part = none → let q := s.homeQuarter c r.va.toNat
    (∀ pa a, s.translate (.l2 q) c r.va.toNat (if r.kind = 0 then .read else .write) = (s1, .ok pa a) → PlainWrite s1 0 → (∀ o ∈ s1.remOut, o.tag = r.tag → (s1.core o.t.core).l1 = []) → r.sz.bytes < 16 ∨ paHost pa = false → cachedPage pa a = true →
      r.own = true → s1.inputs = s.inputs →
      let old := Mem.readN s1.mem pa r.sz.bytes
      ∃ s', exec (.remotePerform n) s = .next s' ∧ (∀ x ∈ s'.remIn, x.n ≠ n) ∧ KeptOutside s1.mem s'.mem pa r.sz.bytes ∧
        (r.kind = 0 → s'.mem = s1.mem ∧ s'.inputs = s.inputs ++ [.remoteReply r.tag 0 (loaded r.sx r.sz.bytes old)]) ∧
        (r.kind = 1 → Mem.readN s'.mem pa r.sz.bytes = r.data % 2 ^ (8 * r.sz.bytes) ∧ s'.inputs = s.inputs ++ [.remoteReply r.tag 0 0]) ∧
        (r.kind = 2 → Mem.readN s'.mem pa r.sz.bytes = atomRule r.am.op r.am.ty (8 * r.sz.bytes) old r.data % 2 ^ (8 * r.sz.bytes) ∧
          s'.inputs = s.inputs ++ [.remoteReply r.tag 0 old])) ∧
    (∀ x l, s.translate (.l2 q) c r.va.toNat (if r.kind = 0 then .read else .write) = (s1, .pf x l) → s1.mem = s.mem → s1.remIn = s.remIn →
      ∃ s', exec (.remotePerform n) s = .next s' ∧ s'.mem = s.mem ∧ (∀ y ∈ s'.remIn, y.n = n → y.hold = true) ∧ ∃ f ∈ s'.freps, f.ctx = c ∧ f.va = r.va)) ∧
  (∀ tag cause data s o b w th, s.remOut.find? (fun o => o.tag == tag) = some o → At s o.t b w th → b.grid = o.grid → b.lin = o.lin → b.frame = none → s.saved = [] →
    (∀ b ∈ s.blocks, b.frame = none) →
    (cause = 0 → o.acq = false → ∃ s' th', exec (.remoteReply tag cause data) s = .next s' ∧ (∀ x ∈ s'.remOut, x.tag ≠ tag) ∧ s'.thread? o.t = some th' ∧
      th' = { th with held := th.held.filter (fun o => o.tag != tag), pend := th.pend.map fun p => if p.tag == tag then { p with value := some data } else p } ∧
      (∀ u, u ≠ o.t → s'.thread? u = s.thread? u) ∧ s'.mem = s.mem) ∧
    (cause ≠ 0 → cause % 256 ≠ 0x11 → o.pend = true → s.gridDead o.grid = false → ∃ (s1 : State) (th1 : Thread), s1.thread? o.t = some th1 ∧ th1.regs = th.regs ∧
      th1.pend = th.pend.filter (fun p => p.tag != tag) ∧ (∀ x ∈ s1.remOut, x.tag ≠ tag) ∧ s1.mem = s.mem ∧
      ∃ c, c.code = cause ∧ c.info = o.va ∧ exec (.remoteReply tag cause data) s = .next (s1.deliver o.t c false)))

/-- R235, R242-R250, R253-R255: a walk of a page that its quarter's buffer does not hold changes no thread and no byte; a line that L2 has replaced, without dirty poison, is written back and nothing else changes; a
fault report for which the buffer has room and no entry of its key becomes a new entry at FBTAIL, and counts in the entry of its key; with the buffer disabled it is dropped; FBHEAD moves only forward up to FBTAIL; setting EN empties the
buffer, and ERR is cleared by a 1.
R251, R256-R259, R295, R453: REPLAY_ALL of 1 lets every parked access, held command, request, remote operation and queue access of its context go on, and FBCANCEL ends those held on its page; of
another context they keep. An invalidation removes the context's translations of its range, or all of them, from every buffer, and of no other context; its end clears BUSY. -/
def Obligations.FaultUnit : Prop :=
  ((∀ q c va s, q < 4 → c < 64 → canonical va.toNat = true → (∀ e ∈ s.tlb (.l2 q), e.hits c (va.toNat % 2 ^ 52) = false) →
    ∃ s', exec (.pageWalk q c va) s = .next s' ∧ s'.blocks = s.blocks ∧ s'.regs = s.regs ∧ s'.freps = s.freps ∧ s'.grids = s.grids ∧
      (∀ pa a, (s.translate (.l2 q) c va.toNat .read).2 = .ok pa a → ∃ e ∈ s'.tlb (.l2 q), e.hits c (va.toNat % 2 ^ 52) = true)) ∧
  (∀ k s x, s.l2out.find? (fun x => x.1 == k) = some x → (∀ j < 8, x.2.1.dirty.getLsbD j = true → x.2.2 = false ∧ s.sectorBad (8 * k + j) = false) → s.hostMem = [] →
    exec (.l2Evict k) s = .next { s with l2out := s.l2out.erase x }) ∧
  (∀ c s f, s.freps.find? (fun f => f.ctx == c) = some f → let st := s.regN (ctxReg c 0x218); let tail := s.regN (ctxReg c 0x228)
    (st % 2 = 0 → st.testBit 2 = false → exec (.faultReport c) s = .next ({ s with freps := s.freps.erase f }.setReg (ctxReg c 0x218) (BitVec.ofNat 64 (st ||| 2)))) ∧
    (st % 2 = 1 → s.fbFind c f.va = none → (tail + 2 ^ 32 - s.regN (ctxReg c 0x220)) % 2 ^ 32 < 2 ^ (s.regN (ctxReg c 0x210) % 16) → s.hasCw = false → let pa := s.fbAt c tail
      ∃ s', exec (.faultReport c) s = .next s' ∧ s'.freps = s.freps.erase f ∧ s'.regN (ctxReg c 0x228) = (tail + 1) % 2 ^ 32 ∧ s'.regN (ctxReg c 0x220) = s.regN (ctxReg c 0x220) ∧
        Mem.readN s'.mem pa 8 = f.va.toNat ∧ Mem.readN s'.mem (pa + 8) 8 = f.token.toNat ∧ Mem.readN s'.mem (pa + 28) 4 = (tail + 1) % 2 ^ 32 ∧ KeptOutside s.mem s'.mem pa 32 ∧
        s'.blocks = s.blocks) ∧
    (∀ k, st % 2 = 1 → s.fbFind c f.va = some k → s.hasCw = false → let pa := s.fbAt c k
      ∃ s', exec (.faultReport c) s = .next s' ∧ s'.freps = s.freps.erase f ∧ s'.regs = s.regs ∧ Mem.readN s'.mem (pa + 0x14) 2 = min (Mem.readN s.mem (pa + 0x14) 2 + 1) 0xFFFF ∧
        KeptOutside s.mem s'.mem (pa + 0x10) 6 ∧ s'.blocks = s.blocks)) ∧
  (∀ c v s, exec (.fbheadWrite c v) s = .next (let h := s.regN (ctxReg c 0x220); let t := s.regN (ctxReg c 0x228); let x := v.toNat % 2 ^ 32
    if (x + 2 ^ 32 - h) % 2 ^ 32 ≤ (t + 2 ^ 32 - h) % 2 ^ 32 then s.setReg (ctxReg c 0x220) (BitVec.ofNat 64 x) else s)) ∧
  (∀ c v s, ∃ s', exec (.fbEnable c v) s = .next s' ∧ { s' with regs := s.regs } = s ∧ (∀ r, r ≠ ctxReg c 0x218 → r ≠ ctxReg c 0x220 → r ≠ ctxReg c 0x228 → s'.reg r = s.reg r) ∧
    (s'.regN (ctxReg c 0x218) = v.toNat / 2 ^ 16 % 2 ^ 16 * 2 ^ 16 + v.toNat / 4 % 2 * 4 + (if v.toNat.testBit 1 then 0 else s.regN (ctxReg c 0x218) / 2 % 2 * 2) + v.toNat % 2) ∧
    (v.toNat % 2 = 1 → s.regN (ctxReg c 0x218) % 2 = 0 → s'.regN (ctxReg c 0x220) = 0 ∧ s'.regN (ctxReg c 0x228) = 0) ∧
    (v.toNat % 2 = 0 ∨ s.regN (ctxReg c 0x218) % 2 = 1 → s'.reg (ctxReg c 0x220) = s.reg (ctxReg c 0x220) ∧ s'.reg (ctxReg c 0x228) = s.reg (ctxReg c 0x228)))) ∧
  ((∀ c v s, exec (.replayAll c v) s = .next s ∨ v.getLsbD 0 = true) ∧
  (∀ c v s, v.getLsbD 0 = true → ∃ s', exec (.replayAll c v) s = .next s' ∧ s'.mem = s.mem ∧ s'.regs = s.regs ∧
    (∀ x ∈ s'.blocks, x.ctx = c → x.fetchVa = none ∧ ∀ w ∈ x.warps, ∀ th ∈ w.threads, th.st = .parked → ∀ y, th.wait = some y → y.kind ≠ .access) ∧
    (∀ x ∈ s.blocks, x.ctx ≠ c → x ∈ s'.blocks) ∧ (∀ x ∈ s'.xreqs, x.ctx = c → x.hold = none) ∧ (∀ x ∈ s.xreqs, x.ctx ≠ c → x ∈ s'.xreqs) ∧
    (∀ x ∈ s'.grids, x.ctx = c → ∀ h, x.hold = some h → h.getLsbD 0 = true) ∧ (∀ x ∈ s'.queues, x.ctx = c → ∀ h, x.hold = some h → h.getLsbD 0 = true)) ∧
  (∀ c v s, (∀ b ∈ s.blocks, b.ctx ≠ c) → (∀ x ∈ s.cores, ∀ m ∈ x.2.cq, m.ctx ≠ c) → (∀ x ∈ s.saved, x.ctx ≠ c ∧ ∀ m ∈ x.cmds, m.ctx ≠ c) → (∀ r ∈ s.remIn, r.hold = false) →
    (∀ x ∈ s.xreqs, x.ctx = c → x.hold.isSome → x.done = false) →
    ∃ s', exec (.fbcancel c v) s = .next s' ∧ s'.mem = s.mem ∧ s'.blocks = s.blocks ∧
      (∀ x ∈ s'.xreqs, x.ctx = c → ∀ va, x.hold = some va → ¬ samePage va.toNat v.toNat) ∧
      (∀ x ∈ s.xreqs, x.ctx = c → (∃ va, x.hold = some va ∧ samePage va.toNat v.toNat) → ∃ y ∈ s'.xreqs, y.idx = x.idx ∧ y.done = true ∧ y.status = 2 ∧ y.cause = 0x08) ∧
      ∀ x ∈ s.xreqs, x.ctx ≠ c → x ∈ s'.xreqs) ∧
  (∀ c s, s.invBusy c = false → let v := s.regN (ctxReg c 0x240); let lo := 16 * (v / 2 ^ 16 % 2 ^ 36); let hi := lo + 16 * (v % 2 ^ 16 + 1)
    (∃ s', exec (.tlbInvalidateRange c) s = .next s' ∧ s'.invBusy c = true ∧ s'.mem = s.mem ∧ s'.blocks = s.blocks ∧ ∀ k, ∀ e : TlbEnt,
      (e ∈ (s'.core k).tlb → (e.attr.getLsbD 7 = true → e.lg = 16 ∧ e.vbase % 16 = 0) → ¬ (e.ctx = c ∧ e.vbase < hi ∧ lo < e.vbase + 2 ^ (e.lg - 12))) ∧ (e ∈ (s.core k).tlb → e.ctx ≠ c → e ∈ (s'.core k).tlb)) ∧
    (∃ s', exec (.tlbInvalidateContext c) s = .next s' ∧ s'.invBusy c = true ∧ s'.mem = s.mem ∧ s'.blocks = s.blocks ∧ ∀ k, ∀ e : TlbEnt,
      (e ∈ (s'.core k).tlb → e.ctx ≠ c) ∧ (e ∈ (s.core k).tlb → e.ctx ≠ c → e ∈ (s'.core k).tlb))) ∧
  (∀ c s, s.invBusy c = true → s.invUsers c = false → exec (.tlbInvalidateDone c) s = .next (s.setReg (ctxReg c 0x248) 0)))

/-! ### Grids and blocks -/

/-- R33-R36: a doorbell of an enabled host-fed queue moves its tail forward within the ring and else sets bit 3 of LQCTL; EN takes effect for a ring of at least 16 records and else sets bit 4;
RESET begins, aborts the queue's running grids once every announced record has been read, and is ignored while one runs; its end clears it, empties the ring and starts the next epoch.
R34, R37, R42: an enabled queue without a waiting record reads the record at its head, which its page permits: the head moves past it, and the record waits with its token.
R38-R49: a served record without a completion record that fails a check completes with that check's status; MARKER completes with status 0; UNREGISTER removes its image and completes; LAUNCH of an image without
pools starts a grid, with its token and flags, that has placed no block; a REGISTER whose image is well-formed adds it, and another completes with status 0x20. -/
def Obligations.LaunchQueues : Prop :=
  ((∀ c q v s, exec (.lqDoorbell c q v) s = .next (let k := s.regN (lqReg c q 1); let x := s.lq c q; let t := v.extractLsb' 0 32
    if k % 2 = 0 ∨ k.testBit 5 = true ∨ x.resetting = true ∨ t = x.tail then s
    else if 2 ^ 31 ≤ (t - x.tail).toNat ∨ 2 ^ (k / 2 ^ 8 % 16) < (t - x.head).toNat then s.setReg (lqReg c q 1) (s.reg (lqReg c q 1) ||| 8)
    else s.putLq { x with tail := t })) ∧
  (∀ c q v s, v.getLsbD 0 = true → (s.reg (lqReg c q 1)).getLsbD 0 = false → ∃ s', exec (.lqEnable c q v) s = .next s' ∧ { s' with regs := s.regs } = s ∧
    (∀ r, r ≠ lqReg c q 1 → s'.reg r = s.reg r) ∧ (s'.reg (lqReg c q 1)).getLsbD 0 = decide (4 ≤ v.toNat / 2 ^ 8 % 16) ∧
    s'.regN (lqReg c q 1) / 2 ^ 8 % 16 = v.toNat / 2 ^ 8 % 16 ∧ (s'.reg (lqReg c q 1)).getLsbD 5 = v.getLsbD 5 ∧ (s'.reg (lqReg c q 1)).getLsbD 1 = v.getLsbD 1 ∧
    (v.toNat / 2 ^ 8 % 16 < 4 → (s'.reg (lqReg c q 1)).getLsbD 4 = true)) ∧
  (∀ c q s, (s.lq c q).recs = [] →
    ((s.lq c q).resetting = true → exec (.lqReset c q) s = .next s) ∧
    ((s.lq c q).resetting = false → ∃ s', exec (.lqReset c q) s = .next s' ∧ (s'.lq c q).resetting = true ∧ (s'.reg (lqReg c q 1)).getLsbD 2 = true ∧ s'.mem = s.mem ∧ s'.blocks = s.blocks ∧
      ((s.lq c q).head = (s.lq c q).tail → ∀ g ∈ s'.grids, g.ctx = c → g.q = q → g.phase ≠ .running ∧ g.phase ≠ .staging) ∧
      ((s.lq c q).head ≠ (s.lq c q).tail → s'.grids = s.grids) ∧ ∀ g ∈ s.grids, g.ctx ≠ c ∨ g.q ≠ q → (∀ x ∈ s.grids, x.id = g.id → x.ctx ≠ c ∨ x.q ≠ q) → g ∈ s'.grids)) ∧
  (∀ c q s, (s.lq c q).resetting = true → (s.lq c q).recs = [] → (s.lq c q).head = (s.lq c q).tail → (∀ g ∈ s.grids, g.ctx ≠ c ∨ g.q ≠ q) →
    ∃ s', exec (.lqResetComplete c q) s = .next s' ∧ s'.lq c q = ⟨c, q, 0, 0, [], [], [], false, none⟩ ∧ (s'.reg (lqReg c q 1)).getLsbD 2 = false ∧
      s'.regN (lqReg c q 1) / 2 ^ 24 % 2 ^ 8 = (s.regN (lqReg c q 1) / 2 ^ 24 + 1) % 2 ^ 8 ∧ s'.mem = s.mem)) ∧
  (∀ c q s s1 pa a, s.recReadNow c q = true → (s.lq c q).resetting = false → s.translate (.l2 0) c (s.regN (lqReg c q 0) + 128 * ((s.lq c q).head.toNat % 2 ^ (s.regN (lqReg c q 1) / 2 ^ 8 % 16))) .read = (s1, .ok pa a) →
    s1.hasCw = false → s1.poison = [] → ∃ s' r, exec (.launchRecordRead c q) s = .next s' ∧ (s'.lq c q).recs = [r] ∧ r.raw.toNat = Mem.readN s1.mem pa 128 ∧ r.ring = (s.lq c q).head.toNat ∧
      r.token = s.mkToken c q (s.lq c q).head ∧ r.hold = none ∧ r.waits = false ∧ r.fin = none ∧ (s'.lq c q).head = (s.lq c q).head + 1 ∧ (s'.lq c q).tail = (s.lq c q).tail ∧
      s'.mem = s1.mem ∧ s'.blocks = s1.blocks) ∧
  (∀ i s c q r, Serves i s c q r →
    (∀ st, s.preAdmit c q r = .refuse st → ∃ s', exec i s = .next s' ∧ RecordOver s s' c q r st ∧ s'.grids = s.grids ∧ s'.images = s.images ∧ s'.mem = s.mem) ∧
    (s.preAdmit c q r = .go → recN r.raw.toNat 0 4 = 3 → ∃ s', exec i s = .next s' ∧ RecordOver s s' c q r 0 ∧ s'.grids = s.grids ∧ s'.images = s.images ∧ s'.mem = s.mem) ∧
    (s.preAdmit c q r = .go → recN r.raw.toNat 0 4 = 2 → let h := recN r.raw.toNat 4 2; (∀ g ∈ s.grids, g.ctx = c → g.img.handle ≠ h) →
      ∃ s', exec i s = .next s' ∧ RecordOver s s' c q r 0 ∧ s'.grids = s.grids ∧ s'.images = s.images.filter (fun i => !(i.ctx == c && i.handle == h)) ∧ s'.mem = s.mem) ∧
    (s.preAdmit c q r = .go → recN r.raw.toNat 0 4 = 0 → recN r.raw.toNat 0x58 8 = 0 → ∀ im, s.imageOf c (recN r.raw.toNat 4 2) = some im → s.admitRes c r.raw.toNat im = .go → s.hostMem = [] → ∃ (s' : State) (g : Grid), exec i s = .next s' ∧
      s'.grids = s.grids ++ [g] ∧ g.ctx = c ∧ g.q = q ∧ g.token = r.token ∧ g.raw = r.raw ∧ g.img = im ∧ g.next = 0 ∧ g.nblk = 0 ∧ g.ended = 0 ∧ g.status = 0 ∧ g.first = none ∧
      g.coop = im.flags.testBit 0 ∧ g.l1wb = im.flags.testBit 2 ∧ g.nbv = im.flags.testBit 3 ∧ (im.claimList = [] → g.phase = .running) ∧ (im.claimList ≠ [] → g.phase = .staging) ∧
      (∀ x ∈ (s'.lq c q).recs, x.ring ≠ r.ring) ∧ s'.blocks = s.blocks ∧ s'.mem = s.mem) ∧
    (s.preAdmit c q r = .go → recN r.raw.toNat 0 4 = 1 → ∀ s1 hb s2 im, let base := recN r.raw.toNat 0x18 8; let n := max 224 (imgN hb 0x54 4)
      (s.served c q).devN c q r.token (cancelOf r.hold) base 224 = .ok s1 hb → s1.devRead c q r.token (cancelOf r.hold) (n / 65536 + 3) base n [] = .ok s2 im →
      let mine := s2.images.filter fun i => i.ctx == c; let h := ((List.range 4097).find? fun k => decide (1 ≤ k) && !mine.any fun i => i.handle == k).getD 0
      (mine.length < 4096 → (regStatus im c h base).1 = 0 → ∃ s', exec i s = .next s' ∧ s'.images = s2.images ++ [(regStatus im c h base).2] ∧ RecordOver s2 s' c q r 0) ∧
      ((regStatus im c h base).1 ≠ 0 → ∃ s', exec i s = .next s' ∧ s'.images = s2.images ∧ RecordOver s2 s' c q r 0x20)))

/-- R237: when a grid's claims are ready its ways read zero and it runs.
R58-R62: the block that a served grid places stands in the lowest free task slot of the core that Place gives, as the grid's next linear index: milestone 0, each warp of 32 running threads at its role's
entry with ARGS in v0:v1, every other register, predicate, scratchpad byte and accumulator 0, and the grid counts it; the other blocks do not change.
R63-R66: a block that has gathered at a milestone takes the variant that the rules pick there: its threads stand at the milestone's resume entries, the scratchpad rows that the carry names stay and the others read 0, and
accumulators, rings and tile context are as at placement; while none fits it waits with its size.
R57, R67, R70, R71, R404: claimed rows are spilled and their blocks wait no longer; a block that parks leaves its slot for its frame in the park area; at the end of a slice the count starts again, and the new slice
ends by the TSLICE that holds then; a chosen block is first asked to stop and then leaves its slot for its frame in the save pool.
R68, R407: the first ready saved block of a served grid stands on the core that Place gives, and is no longer saved; a frame that fails its checks aborts the grid instead; of a cooperative grid
all the saved blocks return together. -/
def Obligations.BlocksMove : Prop :=
  (∀ k s g, s.grid? k = some g → g.phase = .staging → ∃ s' g', exec (.stagingClaimReady k) s = .next s' ∧ s'.grid? k = some g' ∧ g' = { g with phase := .running } ∧ s'.blocks = s.blocks ∧ s'.mem = s.mem ∧
    (∀ cl ∈ g.claims, ∀ j < 64, ∀ w ∈ cl.2.2.2, ∀ o < 131072, Mem.get s'.staging (stageAt (64 * cl.2.1 + j) w o) = 0) ∧
    ∀ a, (∀ cl ∈ g.claims, ∀ j < 64, ∀ w ∈ cl.2.2.2, ∀ o < 131072, a ≠ stageAt (64 * cl.2.1 + j) w o) → Mem.get s'.staging a = Mem.get s.staging a) ∧
  (∀ k s g c vi v qn, s.grid? k = some g → s.placeNow k = true → s.placeNext g = some (c, vi, v, qn) → (∀ l ∈ (s.core c).l1, l.dirty = 0#128) → ∃ s' b g', exec (.placeBlock k) s = .next s' ∧ s'.blocks = s.blocks ++ [b] ∧ s'.grid? k = some g' ∧
    g'.next = g.next + 1 ∧ g'.nblk = g.nblk + 1 ∧ g'.qnext = qn ∧ b.core = c ∧ b.lin = g.next ∧ b.grid = k ∧ b.variant = vi ∧ b.milestone = 0 ∧ (∀ x, Mem.get b.spad x = 0) ∧ b.acc = [] ∧ b.rings = [] ∧ b.gate = none ∧
    (∀ j < b.slot, (s.block? c j).isSome) ∧ b.tstat = 0 ∧ b.fpte = 0 ∧ s'.mem = s.mem ∧
    ∀ (w : Warp), w ∈ b.warps → w.threads.length = 32 ∧ w.ops = [] ∧ ∀ th ∈ w.threads, th.st = .running ∧ th.hmode = false ∧ th.pend = [] ∧ th.pred = 0 ∧ th.pc = g.img.codeVa (v.entry.getD w.role 0) ∧
      SMap.get th.regs 1 0 ++ SMap.get th.regs 0 0 = BitVec.ofNat 64 (recN g.raw.toNat 0x18 8) ∧ ∀ r, 2 ≤ r → SMap.get th.regs r 0 = 0) ∧
  (∀ c k s b g m k', s.mileNow c k = some (b, g, m, k') → (∀ w ∈ b.warps, ∀ o ∈ w.ops, o.err = none) →
    (s.pickVariant b g m k' (fun _ => false) = none → exec (.milestoneCommit c k) s = .next (s.modBlock c k fun b => { b with deciding := some k' })) ∧
    (∀ vi v e, s.pickVariant b g m k' (fun _ => false) = some vi → g.img.vars[vi]? = some v → g.img.msOf v m = some e → ∃ s' b', exec (.milestoneCommit c k) s = .next s' ∧ s'.block? c k = some b' ∧
      b'.variant = vi ∧ b'.milestone = m ∧ b'.sizep = b.mileSize m ∧ b'.acc = [] ∧ b'.rings = [] ∧ b'.gate = none ∧ b'.tile = TileCtx.empty ∧ b'.lin = b.lin ∧ b'.grid = b.grid ∧
      (∀ x, Mem.get b'.spad x = if 4096 * e.csrow ≤ x ∧ x < 4096 * (e.csrow + e.cscnt) then Mem.get b.spad x else 0) ∧
      ∀ (w : Warp), w ∈ b'.warps → w.ops = [] ∧ ∀ th ∈ w.threads, th.st = .running ∧ th.pc = g.img.codeVa (e.resume.getD w.role 0) ∧ th.pend = [])) ∧
  ((∀ c s, s.spillNow c = true → ∃ s', exec (.rowSpill c) s = .next s' ∧ ∀ b ∈ s'.blocks, b.core = c → b.spillWait = false) ∧
  (∀ c k s b g a, s.parkNow c k = some (b, g, a) → ∃ (s' : State) (v : Saved), exec (.parkBlock c k) s = .next s' ∧ SlotFree s' c k ∧ v ∈ s'.saved ∧ v.grid = b.grid ∧ v.lin = b.lin ∧ v.parked = true ∧
    v.poolSlot = none ∧ v.arrival = a ∧ (∀ c' k', ¬ (c' = c ∧ k' = k) → s'.block? c' k' = s.block? c' k')) ∧
  (∀ c k s b, s.block? c k = some b → b.sliceLen ≠ 0 → 1024 * b.sliceLen ≤ b.slice → b.deciding = none → b.live ≠ [] → b.preReq = false →
    ∃ s' b', exec (.sliceEnd c k) s = .next s' ∧ { s' with blocks := s.blocks, grids := s.grids } = s ∧ s'.block? c k = some b' ∧
      b' = { b with slice := 0, sliceLen := (s.reg tsliceKey).toNat % 2 ^ 32, preReq := b'.preReq } ∧ (b'.preReq = true → s.mayPreempt b = true)) ∧
  (∀ c k s b, s.block? c k = some b →
    (b.preReq = false → (s.wantsOut b).isSome ∨ s.displacedNow b = true → ∃ s', exec (.preempt c k) s = .next s' ∧ { s' with blocks := s.blocks, grids := s.grids } = s ∧
      s'.block? c k = some { b with preReq := true, deciding := none }) ∧
    (∀ g j va, b.preReq = true → s.saveReady b = true → b.stillOr = true → s.gridOf b = some g → s.saveSlot b.ctx (b.fsize g) = some (j, va) → ∃ (s' : State) (v : Saved), exec (.preempt c k) s = .next s' ∧ SlotFree s' c k ∧
      v ∈ s'.saved ∧ v.grid = b.grid ∧ v.lin = b.lin ∧ v.frame = BitVec.ofNat 64 va ∧ v.poolSlot = some j ∧ v.parked = false))) ∧
  (∀ k l s g v, s.restoreNow k l = true → s.grid? k = some g → (s.readySaved k).head? = some v →
    (g.coop = false → s.frameBad v.snap g v.frame.toNat = true → exec (.restoreBlock k l) s = .next (s.abortGrid k l (causeOf 0x02 0 0) (some v.snap))) ∧
    (g.coop = false → ∀ c vi x qn, s.frameBad v.snap g v.frame.toNat = false → s.placeNext g = some (c, vi, x, qn) → ∃ (s' : State) (b : Block) (g' : Grid), exec (.restoreBlock k l) s = .next s' ∧ b ∈ s'.blocks ∧ b.core = c ∧
      s'.grid? k = some g' ∧ g'.qnext = qn ∧ ∀ y ∈ s'.saved, ¬ (y.grid = k ∧ y.lin = l)) ∧
    (g.coop = true → ∃ s', exec (.restoreBlock k l) s = .next s' ∧ ((∀ y ∈ s'.saved, y.grid = k → y.parked = true) ∨ ∃ g', s'.grid? k = some g' ∧ g'.phase ≠ .running)))

/-- R52, R438-R442: a block whose threads have exited and whose engines are idle leaves its slot and its grid counts it; one that carries a fault aborts its grid; an aborting grid's blocks freeze, its commands that have not
started or are held and its saved blocks are dropped; a grid all of whose blocks have ended, without claims, pools or a completion record, is over. -/
def Obligations.GridsEnd : Prop :=
  (∀ c k s b g, s.block? c k = some b → s.blockOver b = true → s.gridOf b = some g → b.owed = none → (s.reg (ctxReg b.ctx 0x298)).getLsbD 4 = false →
    ∃ s' g', exec (.blockEnd c k) s = .next s' ∧ SlotFree s' c k ∧ s'.grid? g.id = some g' ∧ g'.ended = g.ended + 1) ∧
  (∀ c k s b f, s.block? c k = some b → s.blockOver b = true → b.owed = some f → b.forgive.2 = 1 →
    exec (.blockEnd c k) s = .next ((s.modBlock c k fun b => b.forgive.1).abortGrid b.grid b.lin { f with impr := true } (some b))) ∧
  (∀ k s g, s.grid? k = some g → g.phase = .aborting → g.closed = false → ∃ s' g', exec (.gridAbort k) s = .next s' ∧ s'.grid? k = some g' ∧ g'.closed = true ∧ s'.mem = s.mem ∧
    (∀ b ∈ s'.blocks, b.grid = k → b.state = .frozen) ∧ (∀ x ∈ s'.saved, x.grid ≠ k) ∧ (∀ x ∈ s'.cores, ∀ m ∈ x.2.cq, m.grid = k → m.st ≠ .queued ∧ m.st ≠ .held) ∧ (∀ x ∈ s'.xreqs, x.grid = k → x.started = true) ∧
    ∀ x ∈ s'.quads, ∀ p ∈ x.2.tab, p.grid ≠ k) ∧
  (∀ k s g, s.grid? k = some g → s.retireNow g = true → g.snap = none → g.closes = [] → g.claims = [] → g.resv = [] → recN g.raw.toNat 0x40 8 = 0 →
    ∃ s', exec (.gridRetire k) s = .next s' ∧ (∀ x ∈ s'.grids, x.id ≠ k) ∧ g.ring ∉ (s'.lq g.ctx g.q).live ∧ s'.blocks = s.blocks)

/-! ### Debugger and device boundary -/

/-- R412, R414, R417, R418, R424: TRIGGER freezes a context that no wave has frozen and does nothing to another; a wave's flit newer than the last freezes the context of its job and leaves its cause, AUX and address in the RB registers, an older one
changes nothing; a hit of a halting slice watchpoint freezes its context and is no longer waiting.
R406, R424: a resume of the wave that froze a context, with no flit, remote operation or message held, ends the freeze: its state is 0, no block of it is frozen by the wave, and the wave is its last; any other resume changes nothing. A
resume flit does the same for the context of its job.
R403, R421, R423, R426, R429, R445, R447: a flit of a frozen job waits at the end of the held queue; STEP of a frozen context's unit is asked for once, and refused for a context that is neither frozen nor held by a dump; a sample passes to the next task slot and a dump
of a context without blocks leaves three records, and no block changes; log heads move only forward; FSPILL spills its frame's rows or reads busy. -/
def Obligations.Debugger : Prop :=
  ((∀ c s, (s.rbState c ≠ 0 → exec (.trigger c) s = .next s) ∧ (c < 64 → s.rbState c = 0 → ∃ s', exec (.trigger c) s = .next s' ∧ Frozen s' c)) ∧
  (∀ l w j o ca au ad s c, s.jobCtxs j = [c] → s.rbState c = 0 →
    (w ≤ SMap.get s.lastWave c 0 → exec (.roadblockFlit l w j o ca au ad) s = .next s) ∧
    (SMap.get s.lastWave c 0 < w → ∃ s', exec (.roadblockFlit l w j o ca au ad) s = .next s' ∧ Frozen s' c ∧ s'.reg (ctxReg c 0x910) = ca ∧ s'.reg (ctxReg c 0x918) = au ∧ s'.reg (ctxReg c 0x920) = ad)) ∧
  (∀ h hs s, s.swHits = h :: hs → ∃ s', exec .sliceWatchLatch s = .next s' ∧ s'.swHits = hs ∧
    (h.halt = true → s.rbState h.w.ctx = 0 → h.w.ctx < 64 → s.halts h.w.ctx 0x11 true = true → Frozen s' h.w.ctx))) ∧
  (∀ c w s i, (i = .resume c w ∨ ∃ l j, i = .resumeFlit l w j ∧ s.jobCtxs j = [c]) →
    (¬ (s.rbState c = 2 ∧ s.regN (ctxReg c 0x910) / 2 ^ 32 = w) → exec i s = .next s) ∧
    (s.rbState c = 2 → s.regN (ctxReg c 0x910) / 2 ^ 32 = w → s.heldQ = [] → s.remIn = [] → s.outbound = [] →
      s.slotsOk → (∀ b ∈ s.blocks, b.ctx = c → b.frame = none ∧ (s.gridOf b).isSome ∧ ∀ x ∈ b.warps, ∀ th ∈ x.threads, th.trapq = none) →
      ∃ s', exec i s = .next s' ∧ s'.rbState c = 0 ∧ SMap.get s'.lastWave c 0 = w ∧ (∀ b ∈ s'.blocks, b.ctx = c → FreezeWhy.roadblock ∉ b.why) ∧
        ∀ b ∈ s.blocks, b.ctx = c → b.why = [.roadblock] → ∃ b' ∈ s'.blocks, b'.core = b.core ∧ b'.slot = b.slot ∧ b'.state = .running)) ∧
  ((∀ l f c s, s.flitCtx f = some c → s.rbState c ≠ 0 → s.heldQ.length < 16384 → ∃ s', exec (.heldFlit l f) s = .next s' ∧ s'.heldQ = s.heldQ ++ [(l, f)] ∧
    s'.regN (ctxReg c 0x928) / 2 ^ 32 % 2 ^ 16 = min (s.regN (ctxReg c 0x928) / 2 ^ 32 % 2 ^ 16 + 1) 0xFFFF ∧ { s' with heldQ := s.heldQ, regs := s.regs } = s) ∧
  (∀ c s, ∃ s', exec (.step c) s = .next s' ∧ { s' with regs := s.regs } = s ∧ (∀ r, r ≠ ctxReg c 0xC10 → s'.reg r = s.reg r) ∧ (s.regN (ctxReg c 0xC10) % 4 = 1 → s' = s) ∧
    (s.regN (ctxReg c 0xC10) % 4 ≠ 1 → s'.regN (ctxReg c 0xC10) % 4 = if (s.rbState c = 2 ∨ c ∈ s.dumps) ∧ s.regN (ctxReg c 0xC08) / 2 ^ 30 % 4 ≠ 3 then 1 else 3)) ∧
  (∀ c s b, s.sampleSlot c = some b → ∃ s', exec (.traceSample c) s = .next s' ∧ s'.blocks = s.blocks ∧ (s'.core c).sampleSlot = (b.slot + 1) % 8) ∧
  (∀ c s, (∀ b ∈ s.blocks, b.ctx ≠ c) → ∃ s' x y z, exec (.dumpRequest c) s = .next s' ∧ s'.outs = s.outs ++ [.sideband x, .sideband y, .sideband z] ∧ s'.blocks = s.blocks ∧ s'.mem = s.mem) ∧
  (∀ v s, exec (.audheadWrite v) s = .next (headTo s 0x2A8 (s.regN 0x2B8 / 2 ^ 32) v.toNat)) ∧
  (∀ c v s, exec (.profheadWrite c v) s = .next (headTo s (ctxReg c 0x2A0) (s.regN (ctxReg c 0x298) / 2 ^ 32) v.toNat)) ∧
  (∀ c v s, (s.reg (ctxReg c 0x288)).getLsbD 0 = false → let a := v.toNat / 2 ^ 12 % 2 ^ 40 * 2 ^ 12
    (∀ s1, s.spillFrame c a = some s1 → exec (.fspill c v) s = .next (s1.setReg (ctxReg c 0x288) 0)) ∧
    (s.spillFrame c a = none → exec (.fspill c v) s = .next (s.setReg (ctxReg c 0x288) (BitVec.ofNat 64 (a + 1))))))

/-- R6, R33-R36, R255-R258, R306, R311, R403, R424, R448, R449: once the bring-up is complete a write of a register that has a step of its own, by the function that owns the context, takes that step; a write by another function, of no
multiple of 8, or before that, is ignored; PTBASE and HMASK take their writable bits. XRCTL takes its fields while EN is 0, with EN for a ring of 16 to 4096 blocks and some quarter, and else ERR. -/
def Obligations.RegistersAreWritten : Prop :=
  (∀ fn c off v s, c < 64 → off < 0x100000 → off % 8 = 0 → s.stage = 3 → fn ≤ 16 → s.owner c = fn →
    (∀ i, OwnStep c off v i → exec (.registerWrite fn (c * 0x100000 + off) v) s = exec i s) ∧
    (off = 0x200 → exec (.registerWrite fn (c * 0x100000 + off) v) s = .next (s.setReg (ctxReg c 0x200) (v &&& 0x0000FFFFFFFFF001#64))) ∧
    (off = 0x240 → exec (.registerWrite fn (c * 0x100000 + off) v) s = .next (s.setReg (ctxReg c 0x240) (v &&& 0x000FFFFFFFFFFFFF#64)))) ∧
  (∀ fn off v s, s.stage ≠ 3 ∨ 16 < fn ∨ off % 8 ≠ 0 ∨ (0 < fn ∧ (devReg 0 ≤ off ∨ s.owner (off / 0x100000) ≠ fn)) → exec (.registerWrite fn off v) s = .next s) ∧
  (∀ c k v s, let r := xrReg c k 1; let old := s.regN r; let x := v.toNat
    let err := if x.testBit 1 then 0 else old / 2 % 2 * 2
    (old % 2 = 1 → exec (.xrEnable c k v) s = .next (s.setReg r (BitVec.ofNat 64 (old / 2 ^ 8 % 2 ^ 8 * 2 ^ 8 + err + x % 2)))) ∧
    (old % 2 = 0 → exec (.xrEnable c k v) s = .next (s.setReg r (BitVec.ofNat 64 (x / 2 ^ 8 % 2 ^ 8 * 2 ^ 8 +
      (if x % 2 = 1 ∧ (x / 2 ^ 12 % 16 = 0 ∨ x / 2 ^ 8 % 16 < 4 ∨ 12 < x / 2 ^ 8 % 16) then 2 else err + x % 2))))))

/-- R279, R329, R421, R448, R450, R453, R456: a BAR2 access that reaches device memory reads or writes its bytes, and one that does not completes with status 1; a partition's mask waits, or stands at once when nothing moves, and then moves; an ATS
invalidation removes the translations to its host bytes and is then answered; links come up and go down; a flit with a bad CRC counts a retry.
R240, R457-R459, R465: CLKCTL's value waits for the last grid's end and then stands, with the lock; in locked mode no domain stretches or lowers its clock, and a lost lock interrupts; a droop ends; a corrected error only counts, an uncorrected one
also poisons its word or sector; a count is cleared by a write. -/
def Obligations.HostLinksAndClocks : Prop :=
  ((∀ fn wr addr d s, fn ≤ 16 → s.bar2 fn addr d.length = none → exec (.hostBarAccess fn wr addr d) s = .next { s with outs := s.outs ++ [.bar fn 1 []] }) ∧
  (∀ fn addr d s a, fn ≤ 16 → BarReaches s fn addr d.length a →
    (∃ s', exec (.hostBarAccess fn true addr d) s = .next s' ∧ s'.outs = s.outs ++ [.bar fn 0 []] ∧ KeptOutside s.mem s'.mem a d.length ∧ ∀ k < d.length, Mem.get s'.mem (a + k) = d.getD k 0) ∧
    (∃ s' x, exec (.hostBarAccess fn false addr d) s = .next s' ∧ s'.mem = s.mem ∧ s'.outs = s.outs ++ [.bar fn 0 x] ∧ x = (List.range d.length).map fun k => Mem.get s.mem (a + k))) ∧
  (∀ f v s, 1 ≤ f → f ≤ 16 → (∀ k, 1 ≤ k → k ≤ 16 → k ≠ f → ∀ q < 32, v.getLsbD q = true → (s.vfHas k).testBit q = false ∧ (s.vfWants k).testBit q = false) → v.toNat % 2 ^ 32 ≠ s.vfHas f →
    ∃ s', exec (.vfpartWrite f v) s = .next s' ∧ s'.vfHas f = s.vfHas f ∧ s'.vfWants f = v.toNat % 2 ^ 32 ∧ { s' with regs := s.regs } = s) ∧
  (∀ f s, s.moveNow f = true → s.vfWants f < 2 ^ 32 → ∃ s', exec (.vfpartMoveDone f) s = .next s' ∧ s'.vfHas f = s.vfWants f ∧ s'.vfWants f = s.vfWants f ∧ { s' with regs := s.regs } = s) ∧
  (∀ pa n s, ∃ s', exec (.atsInvalidate pa n) s = .next s' ∧ s'.atsPend = true ∧ s'.mem = s.mem ∧ ∀ k, ∀ e : TlbEnt, e ∈ (s'.core k).tlb ↔ e ∈ (s.core k).tlb ∧ ¬ (e.pbase < 0x800000000000 + pa + n ∧ 0x800000000000 + pa < e.pbase + 2 ^ e.lg)) ∧
  (∀ s, s.atsPend = true → exec .atsInvalidateComplete s = .next { s with atsPend := false, outs := s.outs ++ [.atsDone] }) ∧
  (∀ l lat d s, l < 16 → exec (.linkTrained l lat d) s = .next (s.setReg (lkReg l) (BitVec.ofNat 64 (lat % 2 ^ 16 * 2 ^ 32 + (if d then 2 else 0) + 1)))) ∧
  (∀ l s, s.regN (lkReg l) % 2 = 1 → (∀ o ∈ s.remOut, o.link ≠ l) → ∃ s', exec (.linkDown l) s = .next s' ∧ s'.regN (lkReg l) % 2 = 0 ∧ (∀ o ∈ s'.outbound, o.2.1 ≠ l) ∧ s'.mem = s.mem ∧ s'.blocks = s.blocks) ∧
  (∀ l f s, s.regN (lkReg l) % 2 = 1 → ∃ s', exec (.flitReceive l f false) s = .next s' ∧ { s' with regs := s.regs } = s ∧
    s'.regN (lkReg l) / 2 ^ 16 % 2 ^ 16 = min (s.regN (lkReg l) / 2 ^ 16 % 2 ^ 16 + 1) 0xFFFF) ∧
  (∀ l src tag job cls kind va data sz am sx s, s.regN (lkReg l) % 2 = 1 → (∀ c, s.flitCtx (.request src tag job cls kind va data sz am sx) = some c → s.rbState c = 0) →
    ∃ s' r, exec (.flitReceive l (.request src tag job cls kind va data sz am sx) true) s = .next s' ∧ s'.remIn = s.remIn ++ [r] ∧ r.tag = tag ∧ r.src = src ∧ r.va = va ∧ r.kind = kind ∧ r.own = false)) ∧
  ((∀ v s, exec (.clkctlWrite v) s = .next (s.setReg (devReg 0x400) (BitVec.ofNat 64 (v.toNat % 8 + 8)))) ∧
  (∀ s, (s.reg (devReg 0x400)).getLsbD 3 = true → s.grids = [] → ∃ s', exec .clockChange s = .next s' ∧ s'.regN (devReg 0x400) = s.regN (devReg 0x400) % 8 ∧ (s'.reg (devReg 0x408)).getLsbD 0 = (s.reg (devReg 0x400)).getLsbD 2 ∧
    { s' with regs := s.regs } = s) ∧
  (∀ s, (s.reg (devReg 0x408)).getLsbD 0 = true → (∀ d < 40, exec (.supplyDroop d) s = .next s) ∧ exec .powerLimit s = .next s ∧
    ∃ s', exec .lockLost s = .next s' ∧ (s'.reg (devReg 0x408)).getLsbD 0 = false ∧ (s'.reg (devReg 0x408)).getLsbD 1 = true ∧ s'.outs = s.outs ++ [.msix 0 0] ∧ s'.blocks = s.blocks ∧ s'.mem = s.mem) ∧
  (∀ d s, d ∈ s.fw.droop → ∃ s', exec (.droopPassed d) s = .next s' ∧ d ∉ s'.fw.droop ∧ s'.regs = s.regs ∧ s'.mem = s.mem) ∧
  (∀ l pa s, l < 8 → let r := devReg (0x600 + 8 * l); let n := s.regN r
    exec (.softError l true pa) s = .next (s.setReg r (BitVec.ofNat 64 (n / 2 ^ 32 * 2 ^ 32 + min (n % 2 ^ 32 + 1) 0xFFFFFFFF))) ∧
    exec (.serrcntClear l) s = .next (s.setReg r 0) ∧
    ∃ s', exec (.softError l false pa) s = .next s' ∧ s'.regN r = min (n / 2 ^ 32 + 1) 0xFFFFFFFF * 2 ^ 32 + n % 2 ^ 32 ∧ s'.mem = s.mem ∧ s'.blocks = s.blocks ∧
      (l = 0 → pa ∈ s'.poolBad) ∧ (l = 1 → pa ∈ s'.accBad) ∧ (l ∈ [3, 4, 5, 7] → pa / 64 ∈ s'.poison)))

/-- R460-R464, R466: CMD 1 and 2 of CKPTCTL start a checkpoint when none runs, and freeze every block; its cut drops started work; its end copies bonded DRAM into the image's place, with VALID; RESTORE copies it back, and DISCARD clears VALID; a reset or
loss of power while no checkpoint runs or is armed leaves the capacity tier; boot goes through its stages and ends with the key derived, and a failing image stops it in recovery, where a new one is written; a measurement is signed. -/
def Obligations.CheckpointsAndBoot : Prop :=
  (∀ i s, i = .ckptHalt ∨ i = .ckptContinue → (s.ckptState ≠ 0 → exec i s = .next s) ∧
    (s.ckptState = 0 → ∃ s', exec i s = .next s' ∧ s'.ckptState = 1 ∧ s'.mem = s.mem ∧ s'.fw.ckptHalted = decide (i = .ckptHalt) ∧ ∀ b ∈ s'.blocks, b.state = .frozen)) ∧
  (∀ s, s.ckptState = 1 → s.fw.ckptCut = false → s.saved = [] → (∀ b ∈ s.blocks, b.frame = none) → ∃ s', exec .checkpointCut s = .next s' ∧ s'.fw.ckptCut = true ∧ s'.remOut = [] ∧ (∀ r ∈ s'.xreqs, r.started = false) ∧
    ∀ c ∈ s'.cores, ∀ m ∈ c.2.cq, m.st = .queued) ∧
  (∀ us s, s.ckptDone = true → s.fw.power = true → s.fw.resetPend = false → s.blocks = [] → s.grids = [] → ∃ s', exec (.checkpointComplete us) s = .next s' ∧ s'.ckptState = 0 ∧ (s'.reg (devReg 0x508)).getLsbD 3 = true ∧
    (Mem.wf s.mem → ∀ a < 0x003000000000, Mem.get s'.mem (0x01C000000000 + a) = Mem.get s.mem a ∧ Mem.get s'.mem a = Mem.get s.mem a)) ∧
  (∀ s, (s.ckptState ≠ 0 → exec .ckptDiscard s = .next s) ∧ (s.ckptState = 0 → ∃ s', exec .ckptDiscard s = .next s' ∧ (s'.reg (devReg 0x508)).getLsbD 3 = false ∧ Mem.readN s'.mem (0x01F000000000 + 40) 8 = 0 ∧ KeptOutside s.mem s'.mem (0x01F000000000 + 40) 8)) ∧
  (∀ s, (∀ c < 64, ∀ q < 64, (s.reg (lqReg c q 1)).getLsbD 0 = false) → (s.reg (devReg 0x508)).getLsbD 3 = true → s.ckptState = 0 → ∃ s', exec .ckptRestore s = .next s' ∧ s'.ckptState = 2 ∧ s'.mem = s.mem) ∧
  (∀ s, s.ckptState = 2 → ∃ s', exec .restoreComplete s = .next s' ∧ s'.ckptState = 0 ∧ (Mem.wf s.mem → ∀ a < 0x003000000000, Mem.get s'.mem a = Mem.get s.mem (0x01C000000000 + a))) ∧
  (∀ i s, s.ckptState ≠ 1 → s.hostMem = [] → i = .hostReset ∨ i = .mainPowerLoss ∧ (s.ckptState ≠ 0 ∨ (s.reg (devReg 0x500)).getLsbD 8 = false) → ∃ s', exec i s = .next s' ∧ s'.blocks = [] ∧ s'.grids = [] ∧ s'.regs = State.reset.regs ∧
    (∀ a, Mem.get s'.mem a = if 0x003000000000 ≤ a then Mem.get s.mem a else 0) ∧ s'.fw.flash = s.fw.flash) ∧
  (∀ s, (s.stage = 0 → ∃ s', exec .boot s = .next s' ∧ if s.imageOk then s'.stage = 1 ∧ s'.fw.power = true ∧ s'.fw.digest = sha3_512 s.fw.flash ∧
      s'.fw.key = Config.deriveKey s.fw.secret (sha3_512 s.fw.flash) else s'.stage = 15) ∧
    (s.stage = 1 → ∃ s', exec .boot s = .next s' ∧ s'.stage = 2) ∧
    (s.stage = 2 → ∃ s', exec .boot s = .next s' ∧ s'.stage = 3) ∧ (s.stage = 15 → ∀ img, ∃ s', exec (.recoveryImageWrite img) s = .next s' ∧ s'.stage = 0 ∧ s'.fw.flash = img) ∧
    (s.stage ≠ 0 → s.stage ≠ 15 → ∀ k d, s.measure k = some d → ∃ sig, exec (.spdmMeasurement k) s = .next { s with outs := s.outs ++ [.spdm k d sig] }))

/-! ### Completion of events -/

/-- R34-R38, R41, R47, R52, R62-R71, R235, R237, R242, R253-R259, R311, R314, R341, R407, R438-R442: under what it waits for, each event of the transform engines, the fault unit, the launch queues, the dispatcher and the blocks
happens, and does what its rule says: a request goes on by a block, or its record is written and it is over; a page is walked; a fault is reported; a replaced line leaves; FBHEAD moves; the fault buffer is enabled; what waits for
a replay goes on; what is cancelled is held no longer; translations leave; a doorbell moves a tail; a queue is enabled, reset, and empty again; its record is read; LAUNCH starts a grid, at once or after a wait, REGISTER adds an image,
UNREGISTER removes one, MARKER ends; staging is ready; a block is placed, its rows are spilled, it passes a milestone, parks, ends a slice, is asked to stop and saved, is restored, ends; a grid stops, and retires; an arrival
over the fabric that has no grid yet is kept. -/
def Obligations.EngineAndQueueEventsComplete : Prop :=
  ((∀ c k s s1 r r1, s.liveReqs c k = [r] → r.started = true → r.pos ≠ 0 → r.pos ≤ reqUnits r.blk.toNat → s.reqUnit r (r.pos - 1) = .ok s1 r1 →
      exec (.xformRequestStart c k) s = .next (s1.setReq { r1 with pos := r.pos + 1, done := decide (reqUnits r.blk.toNat = r.pos) })) ∧
  (∀ c k s r, s.doneReq c k = some r → (let va := recN r.blk.toNat 0x20 8; va = 0 ∨ va % 32 ≠ 0 ∨ ∃ s1 bs h, s.xWrite r va r.record = .ok s1 bs h) →
      ∃ t, exec (.xformComplete c k) s = .next t ∧ ∀ z ∈ t.xreqs, ¬ (z.ctx = r.ctx ∧ z.ring = r.ring ∧ z.idx = r.idx)) ∧
  (∀ q c va s, s.walkNow q c va = true → ∃ t, exec (.pageWalk q c va) s = .next t ∧ t.blocks = s.blocks ∧ t.regs = s.regs ∧ t.freps = s.freps) ∧
  (∀ c s f, s.freps.find? (fun f => f.ctx == c) = some f → s.hasCw = false → ∃ t, exec (.faultReport c) s = .next t ∧ t.freps = s.freps.erase f ∧ t.blocks = s.blocks ∧ t.grids = s.grids) ∧
  (∀ k s x, s.l2out.find? (fun x => x.1 == k) = some x → s.evictBad x.2.1 k x.2.2 = [] → ∃ t, exec (.l2Evict k) s = .next t ∧ t.l2out = s.l2out.erase x ∧ t.blocks = s.blocks ∧ t.regs = s.regs) ∧
  (∀ c v s, v.toNat % 2 ^ 32 = s.regN (ctxReg c 0x228) → ∃ t, exec (.fbheadWrite c v) s = .next t ∧ t.regN (ctxReg c 0x220) = s.regN (ctxReg c 0x228) ∧ t.blocks = s.blocks) ∧
  (∀ c v s, v.toNat % 2 = 1 → s.regN (ctxReg c 0x218) % 2 = 0 → ∃ t, exec (.fbEnable c v) s = .next t ∧ t.regN (ctxReg c 0x218) % 2 = 1 ∧ t.regN (ctxReg c 0x220) = 0 ∧ t.regN (ctxReg c 0x228) = 0 ∧ t.blocks = s.blocks) ∧
  (∀ c v s, v.getLsbD 0 = true → ∃ t, exec (.replayAll c v) s = .next t ∧ t.mem = s.mem ∧ (∀ b ∈ t.blocks, b.ctx = c → b.fetchVa = none) ∧ ∀ r ∈ t.xreqs, r.ctx = c → r.hold = none) ∧
  (∀ c v s, (∀ b ∈ s.blocks, b.ctx ≠ c) → (∀ r ∈ s.remIn, r.hold = false) → (∀ r ∈ s.xreqs, r.hold = none) → ∃ t, exec (.fbcancel c v) s = .next t ∧ t.mem = s.mem ∧
      ∀ x ∈ t.cores, ∀ m ∈ x.2.cq, m.ctx = c → m.st = .held → ¬ samePage m.va.toNat v.toNat) ∧
  (∀ c s, s.invBusy c = false → let v := s.regN (ctxReg c 0x240); let lo := 16 * (v / 2 ^ 16 % 2 ^ 36)
    ∃ t, exec (.tlbInvalidateRange c) s = .next t ∧ t.invBusy c = true ∧ ∀ k, ∀ e ∈ (t.core k).tlb, e.ctx = c → ¬ (e.span.1 < lo + 16 * (v % 2 ^ 16 + 1) ∧ lo < e.span.1 + e.span.2)) ∧
  (∀ c s, s.invBusy c = false → ∃ t, exec (.tlbInvalidateContext c) s = .next t ∧ t.invBusy c = true ∧ (∀ k, ∀ e ∈ (t.core k).tlb, e.ctx ≠ c) ∧ ∀ q, ∀ e ∈ t.tlb (.l2 q), e.ctx ≠ c) ∧
  (∀ c s, s.invBusy c = true → s.invUsers c = false → ∃ t, exec (.tlbInvalidateDone c) s = .next t ∧ t.invBusy c = false ∧ t.blocks = s.blocks)) ∧
  ((∀ c q v s, let k := s.regN (lqReg c q 1); let x := s.lq c q; let n := v.extractLsb' 0 32
      k % 2 = 1 → k.testBit 5 = false → x.resetting = false → (n - x.tail).toNat < 2 ^ 31 → (n - x.head).toNat ≤ 2 ^ (k / 2 ^ 8 % 16) → ∃ t, exec (.lqDoorbell c q v) s = .next t ∧ (t.lq c q).tail = n) ∧
  (∀ c q v s, v.getLsbD 0 = true → (s.reg (lqReg c q 1)).getLsbD 0 = false → 4 ≤ v.toNat / 2 ^ 8 % 16 → ∃ t, exec (.lqEnable c q v) s = .next t ∧ (t.reg (lqReg c q 1)).getLsbD 0 = true ∧ t.blocks = s.blocks) ∧
  (∀ c q s, (s.lq c q).resetting = false → (s.lq c q).recs = [] → ∃ t, exec (.lqReset c q) s = .next t ∧ (t.lq c q).resetting = true) ∧
  (∀ c q s, s.resetOver c q = true → ∃ t, exec (.lqResetComplete c q) s = .next t ∧ (t.lq c q).resetting = false ∧ (t.lq c q).head = 0 ∧ (t.lq c q).tail = 0 ∧ t.blocks = s.blocks) ∧
  (∀ c q s s1 pa a, let x := s.lq c q; s.recReadNow c q = true → x.resetting = false →
      s.devAcc c q (s.mkToken c q x.head) (s.regN (lqReg c q 0) + 128 * (x.head.toNat % 2 ^ (s.regN (lqReg c q 1) / 2 ^ 8 % 16))) 128 .read (cancelOf x.hold) = .ok s1 pa a →
      ∃ t r, exec (.launchRecordRead c q) s = .next t ∧ (t.lq c q).recs = [r] ∧ r.token = s.mkToken c q x.head ∧ (t.lq c q).head = x.head + 1) ∧
  (∀ c q s r im, s.opNow c q 0 = true → s.headRec c q = some r → s.preAdmit c q r = .go → recN r.raw.toNat 0x58 8 = 0 → s.imageOf c (recN r.raw.toNat 4 2) = some im → s.admitRes c r.raw.toNat im = .go →
      ∃ t g, exec (.opLaunch c q) s = .next t ∧ t.grids = s.grids ++ [g] ∧ g.token = r.token ∧ g.raw = r.raw ∧ g.img = im ∧ g.next = 0) ∧
  (∀ c q s r im, s.retryNow c q = true → s.finRec c q = none → s.headRec c q = some r → recOp r = 0 → s.preAdmit c q r = .go → recN r.raw.toNat 0x58 8 = 0 → s.imageOf c (recN r.raw.toNat 4 2) = some im →
      s.admitRes c r.raw.toNat im = .go → ∃ t g, exec (.admissionRetry c q) s = .next t ∧ t.grids = s.grids ++ [g] ∧ g.token = r.token ∧ g.raw = r.raw ∧ g.img = im ∧ g.next = 0) ∧
  (∀ c q s r s1 hb s2 im, s.opNow c q 1 = true → s.headRec c q = some r → s.preAdmit c q r = .go → recN r.raw.toNat 0x40 8 = 0 → let base := recN r.raw.toNat 0x18 8; let n := max 224 (imgN hb 0x54 4)
      (s.served c q).devN c q r.token (cancelOf r.hold) base 224 = .ok s1 hb → s1.devRead c q r.token (cancelOf r.hold) (n / 65536 + 3) base n [] = .ok s2 im →
      let mine := s2.images.filter fun i => i.ctx == c; let h := ((List.range 4097).find? fun k => decide (1 ≤ k) && !mine.any fun i => i.handle == k).getD 0
      mine.length < 4096 → (regStatus im c h base).1 = 0 → ∃ t, exec (.opRegister c q) s = .next t ∧ t.images = s2.images ++ [(regStatus im c h base).2]) ∧
  (∀ c q s r, s.opNow c q 2 = true → s.headRec c q = some r → s.preAdmit c q r = .go → recN r.raw.toNat 0x40 8 = 0 → (∀ g ∈ s.grids, g.ctx = c → g.img.handle ≠ recN r.raw.toNat 4 2) →
      ∃ t, exec (.opUnregister c q) s = .next t ∧ ∀ i ∈ t.images, ¬ (i.ctx = c ∧ i.handle = recN r.raw.toNat 4 2)) ∧
  (∀ c q s r, s.opNow c q 3 = true → s.headRec c q = some r → s.preAdmit c q r = .go → recN r.raw.toNat 0x40 8 = 0 → ∃ t, exec (.opMarker c q) s = .next t ∧ (∀ x ∈ (t.lq c q).recs, x.ring ≠ r.ring) ∧ t.grids = s.grids)) ∧
  ((∀ k s g, s.grid? k = some g → g.phase = .staging → ∃ t g', exec (.stagingClaimReady k) s = .next t ∧ t.grid? k = some g' ∧ g'.phase = .running) ∧
  (∀ k s g c vi v qn, s.grid? k = some g → s.placeNow k = true → s.placeNext g = some (c, vi, v, qn) → (∀ l ∈ (s.core c).l1, l.dirty = 0#128) →
      ∃ t b, exec (.placeBlock k) s = .next t ∧ t.blocks = s.blocks ++ [b] ∧ b.core = c ∧ b.lin = g.next ∧ b.grid = k ∧ b.variant = vi ∧ b.milestone = 0) ∧
  (∀ c s, s.spillNow c = true → ∃ t, exec (.rowSpill c) s = .next t ∧ ∀ b ∈ t.blocks, b.core = c → b.spillWait = false) ∧
  (∀ c k s b g m k' vi v e, s.mileNow c k = some (b, g, m, k') → (∀ w ∈ b.warps, ∀ o ∈ w.ops, o.err = none) → s.pickVariant b g m k' (fun _ => false) = some vi → g.img.vars[vi]? = some v → g.img.msOf v m = some e →
      ∃ t b', exec (.milestoneCommit c k) s = .next t ∧ t.block? c k = some b' ∧ b'.variant = vi ∧ b'.milestone = m) ∧
  (∀ c k s b g a, s.parkNow c k = some (b, g, a) → ∃ t, exec (.parkBlock c k) s = .next t ∧ SlotFree t c k ∧ ∃ v ∈ t.saved, v.grid = b.grid ∧ v.lin = b.lin ∧ v.parked = true) ∧
  (∀ c k s, s.sliceNow c k = true → ∃ t b, exec (.sliceEnd c k) s = .next t ∧ t.block? c k = some b ∧ b.slice = 0) ∧
  (∀ c k s b, s.block? c k = some b → b.preReq = false → (s.wantsOut b).isSome ∨ s.displacedNow b = true → ∃ t b', exec (.preempt c k) s = .next t ∧ t.block? c k = some b' ∧ b'.preReq = true) ∧
  (∀ c k s b g j va, s.block? c k = some b → b.preReq = true → s.saveReady b = true → b.stillOr = true → s.gridOf b = some g → s.saveSlot b.ctx (b.fsize g) = some (j, va) →
      ∃ t, exec (.preempt c k) s = .next t ∧ SlotFree t c k ∧ ∃ v ∈ t.saved, v.grid = b.grid ∧ v.lin = b.lin ∧ v.poolSlot = some j) ∧
  (∀ k l s g v c vi x qn, s.restoreNow k l = true → s.grid? k = some g → g.coop = false → (s.readySaved k).head? = some v → s.frameBad v.snap g v.frame.toNat = false → s.placeNext g = some (c, vi, x, qn) →
      ∃ t b, exec (.restoreBlock k l) s = .next t ∧ b ∈ t.blocks ∧ b.core = c ∧ ∀ y ∈ t.saved, ¬ (y.grid = k ∧ y.lin = l)) ∧
  (∀ c k s b g, s.block? c k = some b → s.blockOver b = true → s.gridOf b = some g → b.owed = none → (s.reg (ctxReg b.ctx 0x298)).getLsbD 4 = false → ∃ t, exec (.blockEnd c k) s = .next t ∧ SlotFree t c k) ∧
  (∀ k s g, s.grid? k = some g → g.phase = .aborting → g.closed = false → ∃ t g', exec (.gridAbort k) s = .next t ∧ t.grid? k = some g' ∧ g'.closed = true ∧ t.mem = s.mem) ∧
  (∀ k s g, s.grid? k = some g → s.retireNow g = true → g.snap = none → g.closes = [] → g.claims = [] → g.resv = [] → recN g.raw.toNat 0x40 8 = 0 → ∃ t, exec (.gridRetire k) s = .next t ∧ ∀ x ∈ t.grids, x.id ≠ k) ∧
  (∀ job jtag id dev s, (∀ g ∈ s.grids, g.jobid ≠ job ∨ g.jtag ≠ jtag) → ∃ t, exec (.dbarFabricArrival job jtag id dev) s = .next t ∧ t.jobPend = s.jobPend ++ [(job, jtag, id, dev)] ∧ t.blocks = s.blocks))

/-- R6, R240, R255, R311, R329, R403, R412, R414, R417-R426, R429, R445-R450, R453, R456-R466: under what it waits for, each event of the debugger, the host, the links, the clocks and the checkpoint happens, and does what its
rule says: PTBASE takes what is written; a ring is enabled; a frame is spilled; a watchpoint hit is taken; a wave freezes a context; a flit waits; a resume of the wave ends the freeze; a unit is asked to step; a trigger freezes;
a sample is taken; a dump leaves; log heads move; the host writes device memory; a mask waits and moves; translations of host memory leave, and that is answered; a link goes down, comes up, and asks for a bad flit again; a droop
stretches a domain's clock and passes, and a power limit counts in its lowered clk; a clock's value waits and stands; a lost lock shows; errors count, and a write clears the count; a checkpoint starts, is cut, completes; an image is
restored, or discarded; power is lost, the host resets; the device boots, takes a recovery image, and reports a measurement. -/
def Obligations.HostAndDeviceEventsComplete : Prop :=
  ((∀ fn c v s, c < 64 → s.stage = 3 → fn ≤ 16 → s.owner c = fn → ∃ t, exec (.registerWrite fn (c * 0x100000 + 0x200) v) s = .next t ∧ t.reg (ctxReg c 0x200) = v &&& 0x0000FFFFFFFFF001#64 ∧ t.blocks = s.blocks) ∧
  (∀ c k v s, s.regN (xrReg c k 1) % 2 = 0 → v.toNat % 2 = 1 → v.toNat / 2 ^ 12 % 16 ≠ 0 → 4 ≤ v.toNat / 2 ^ 8 % 16 → v.toNat / 2 ^ 8 % 16 ≤ 12 → ∃ t, exec (.xrEnable c k v) s = .next t ∧ t.regN (xrReg c k 1) % 2 = 1 ∧
      t.regN (xrReg c k 1) / 2 ^ 8 % 2 ^ 8 = v.toNat / 2 ^ 8 % 2 ^ 8) ∧
  (∀ c v s s1, (s.reg (ctxReg c 0x288)).getLsbD 0 = false → s.spillFrame c (v.toNat / 2 ^ 12 % 2 ^ 40 * 2 ^ 12) = some s1 → ∃ t, exec (.fspill c v) s = .next t ∧ t.reg (ctxReg c 0x288) = 0 ∧ t.mem = s1.mem ∧ t.blocks = s1.blocks) ∧
  (∀ h hs s, s.swHits = h :: hs → h.halt = true → h.w.ctx < 64 → s.rbState h.w.ctx = 0 → s.halts h.w.ctx 0x11 true = true → ∃ t, exec .sliceWatchLatch s = .next t ∧ t.swHits = hs ∧ Frozen t h.w.ctx) ∧
  (∀ l w j o ca au ad s c, s.jobCtxs j = [c] → s.rbState c = 0 → SMap.get s.lastWave c 0 < w → ∃ t, exec (.roadblockFlit l w j o ca au ad) s = .next t ∧ Frozen t c ∧ t.reg (ctxReg c 0x910) = ca) ∧
  (∀ l f c s, s.flitCtx f = some c → s.rbState c ≠ 0 → s.heldQ.length < 16384 → ∃ t, exec (.heldFlit l f) s = .next t ∧ t.heldQ = s.heldQ ++ [(l, f)] ∧ t.blocks = s.blocks) ∧
  (∀ c w s, s.rbState c = 2 → s.regN (ctxReg c 0x910) / 2 ^ 32 = w → s.heldQ = [] → s.remIn = [] → s.outbound = [] → (∀ b ∈ s.blocks, b.ctx ≠ c) →
      (∃ t, exec (.resume c w) s = .next t ∧ t.rbState c = 0 ∧ SMap.get t.lastWave c 0 = w) ∧
      ∀ l j, s.jobCtxs j = [c] → ∃ t, exec (.resumeFlit l w j) s = .next t ∧ t.rbState c = 0 ∧ SMap.get t.lastWave c 0 = w) ∧
  (∀ c s, s.rbState c = 2 → s.regN (ctxReg c 0xC10) % 4 ≠ 1 → s.regN (ctxReg c 0xC08) / 2 ^ 30 % 4 ≠ 3 → ∃ t, exec (.step c) s = .next t ∧ t.regN (ctxReg c 0xC10) % 4 = 1 ∧ t.blocks = s.blocks) ∧
  (∀ c s, c < 64 → s.rbState c = 0 → ∃ t, exec (.trigger c) s = .next t ∧ Frozen t c) ∧
  (∀ c s b, s.sampleSlot c = some b → ∃ t, exec (.traceSample c) s = .next t ∧ t.blocks = s.blocks ∧ (t.core c).sampleSlot = (b.slot + 1) % 8) ∧
  (∀ c s, (∀ b ∈ s.blocks, b.ctx ≠ c) → ∃ t x y z, exec (.dumpRequest c) s = .next t ∧ t.outs = s.outs ++ [.sideband x, .sideband y, .sideband z] ∧ t.blocks = s.blocks) ∧
  (∀ v s, v.toNat % 2 ^ 32 = s.regN 0x2B8 / 2 ^ 32 → ∃ t, exec (.audheadWrite v) s = .next t ∧ t.regN 0x2A8 = s.regN 0x2B8 / 2 ^ 32 ∧ t.blocks = s.blocks) ∧
  (∀ c v s, v.toNat % 2 ^ 32 = s.regN (ctxReg c 0x298) / 2 ^ 32 → ∃ t, exec (.profheadWrite c v) s = .next t ∧ t.regN (ctxReg c 0x2A0) = s.regN (ctxReg c 0x298) / 2 ^ 32 ∧ t.blocks = s.blocks)) ∧
  ((∀ fn addr d s a, fn ≤ 16 → BarReaches s fn addr d.length a → ∃ t, exec (.hostBarAccess fn true addr d) s = .next t ∧ (∀ k < d.length, Mem.get t.mem (a + k) = d.getD k 0) ∧ KeptOutside s.mem t.mem a d.length ∧ t.blocks = s.blocks) ∧
  (∀ f v s, 1 ≤ f → f ≤ 16 → (∀ k, 1 ≤ k → k ≤ 16 → k ≠ f → s.vfHas k = 0 ∧ s.vfWants k = 0) → v.toNat % 2 ^ 32 ≠ s.vfHas f → ∃ t, exec (.vfpartWrite f v) s = .next t ∧ t.vfHas f = s.vfHas f ∧ t.vfWants f = v.toNat % 2 ^ 32) ∧
  (∀ f s, s.moveNow f = true → s.vfWants f < 2 ^ 32 → ∃ t, exec (.vfpartMoveDone f) s = .next t ∧ t.vfHas f = s.vfWants f ∧ t.blocks = s.blocks) ∧
  (∀ pa n s, ∃ t, exec (.atsInvalidate pa n) s = .next t ∧ t.atsPend = true ∧ t.mem = s.mem ∧ ∀ k, ∀ e ∈ (t.core k).tlb, ¬ (e.pbase < 0x800000000000 + pa + n ∧ 0x800000000000 + pa < e.pbase + 2 ^ e.lg)) ∧
  (∀ s, s.atsPend = true → ∃ t, exec .atsInvalidateComplete s = .next t ∧ t.atsPend = false ∧ t.outs = s.outs ++ [.atsDone] ∧ t.blocks = s.blocks) ∧
  (∀ l s, s.regN (lkReg l) % 2 = 1 → (∀ o ∈ s.remOut, o.link ≠ l) → ∃ t, exec (.linkDown l) s = .next t ∧ t.regN (lkReg l) % 2 = 0 ∧ t.blocks = s.blocks) ∧
  (∀ l lat d s, l < 16 → ∃ t, exec (.linkTrained l lat d) s = .next t ∧ t.regN (lkReg l) % 2 = 1 ∧ t.regN (lkReg l) / 2 ^ 32 = lat % 2 ^ 16 ∧ t.blocks = s.blocks) ∧
  (∀ l f s, s.regN (lkReg l) % 2 = 1 → ∃ t, exec (.flitReceive l f false) s = .next t ∧ t.regN (lkReg l) / 2 ^ 16 % 2 ^ 16 = min (s.regN (lkReg l) / 2 ^ 16 % 2 ^ 16 + 1) 0xFFFF ∧ t.blocks = s.blocks) ∧
  (∀ d s, d < 40 → s.locked = false → d ∉ s.fw.droop → ∃ t, exec (.supplyDroop d) s = .next t ∧ t.fw.droop = d :: s.fw.droop ∧ t.blocks = s.blocks ∧ t.mem = s.mem) ∧
  (∀ d s, d ∈ s.fw.droop → ∃ t, exec (.droopPassed d) s = .next t ∧ d ∉ t.fw.droop ∧ t.blocks = s.blocks) ∧
  (∀ s, s.locked = false → (s.reg (devReg 0x400)).getLsbD 2 = true → ∃ t, exec .powerLimit s = .next t ∧ t.regN (devReg 0x408) / 2 ^ 32 = min (s.regN (devReg 0x408) / 2 ^ 32 + 1) 0xFFFFFFFF ∧ t.blocks = s.blocks) ∧
  (∀ v s, ∃ t, exec (.clkctlWrite v) s = .next t ∧ t.regN (devReg 0x400) = v.toNat % 8 + 8 ∧ t.blocks = s.blocks) ∧
  (∀ s, (s.reg (devReg 0x400)).getLsbD 3 = true → s.grids = [] → ∃ t, exec .clockChange s = .next t ∧ t.regN (devReg 0x400) = s.regN (devReg 0x400) % 8 ∧ t.blocks = s.blocks) ∧
  (∀ s, s.locked = true → ∃ t, exec .lockLost s = .next t ∧ t.locked = false ∧ (t.reg (devReg 0x408)).getLsbD 1 = true ∧ t.outs = s.outs ++ [.msix 0 0]) ∧
  (∀ l pa s, l < 8 → (∃ t, exec (.softError l true pa) s = .next t ∧ t.regN (devReg (0x600 + 8 * l)) % 2 ^ 32 = min (s.regN (devReg (0x600 + 8 * l)) % 2 ^ 32 + 1) 0xFFFFFFFF ∧ t.blocks = s.blocks) ∧
      ∃ t, exec (.serrcntClear l) s = .next t ∧ t.reg (devReg (0x600 + 8 * l)) = 0 ∧ t.blocks = s.blocks)) ∧
  ((∀ s, s.ckptState = 0 → (∃ t, exec .ckptHalt s = .next t ∧ t.ckptState = 1 ∧ t.fw.ckptHalted = true ∧ ∀ b ∈ t.blocks, b.state = .frozen) ∧
      (∃ t, exec .ckptContinue s = .next t ∧ t.ckptState = 1 ∧ t.fw.ckptHalted = false ∧ ∀ b ∈ t.blocks, b.state = .frozen) ∧ ∃ t, exec .ckptDiscard s = .next t ∧ (t.reg (devReg 0x508)).getLsbD 3 = false) ∧
  (∀ s, s.ckptState = 1 → s.fw.ckptCut = false → s.blocks = [] → s.saved = [] → ∃ t, exec .checkpointCut s = .next t ∧ t.fw.ckptCut = true ∧ t.remOut = [] ∧ ∀ r ∈ t.xreqs, r.started = false) ∧
  (∀ us s, s.ckptDone = true → s.fw.power = true → s.fw.resetPend = false → s.blocks = [] → s.grids = [] → ∃ t, exec (.checkpointComplete us) s = .next t ∧ t.ckptState = 0 ∧ (t.reg (devReg 0x508)).getLsbD 3 = true) ∧
  (∀ s, s.ckptState = 0 → (s.reg (devReg 0x508)).getLsbD 3 = true → (∀ c < 64, ∀ q < 64, (s.reg (lqReg c q 1)).getLsbD 0 = false) → ∃ t, exec .ckptRestore s = .next t ∧ t.ckptState = 2 ∧ t.mem = s.mem) ∧
  (∀ s, s.ckptState = 2 → ∃ t, exec .restoreComplete s = .next t ∧ t.ckptState = 0 ∧ t.blocks = s.blocks) ∧
  (∀ s, s.ckptState ≠ 1 → (s.ckptState ≠ 0 ∨ (s.reg (devReg 0x500)).getLsbD 8 = false) → ∃ t, exec .mainPowerLoss s = .next t ∧ t.blocks = [] ∧ t.grids = [] ∧ t.regs = State.reset.regs ∧ t.fw.power = false) ∧
  (∀ s, s.ckptState ≠ 1 → ∃ t, exec .hostReset s = .next t ∧ t.blocks = [] ∧ t.grids = [] ∧ t.regs = State.reset.regs ∧ t.fw.flash = s.fw.flash) ∧
  (∀ s, (s.stage = 0 → s.imageOk = true → ∃ t, exec .boot s = .next t ∧ t.stage = 1 ∧ t.fw.digest = sha3_512 s.fw.flash) ∧ (s.stage = 1 → ∃ t, exec .boot s = .next t ∧ t.stage = 2) ∧ (s.stage = 2 → ∃ t, exec .boot s = .next t ∧ t.stage = 3)) ∧
  (∀ img s, s.stage = 15 → ∃ t, exec (.recoveryImageWrite img) s = .next t ∧ t.stage = 0 ∧ t.fw.flash = img) ∧
  (∀ k s, 1 ≤ k → k ≤ 4 → s.stage ≠ 0 → s.stage ≠ 15 → ∃ t d g, exec (.spdmMeasurement k) s = .next t ∧ t.outs = s.outs ++ [.spdm k d g] ∧ t.blocks = s.blocks))
end

