-- ==== Sys2Proof/Laws/Maps.lean ====
section
/-! SUPPORT. Laws of sparse maps and of memory: read after write, and the canonical form that every memory operation keeps. -/
namespace Sys2Proof.Machine

/-! ### Sparse maps -/

@[simp] theorem SMap.get?_nil {α : Type} (i : Nat) : SMap.get? ([] : SMap α) i = none := rfl
@[simp] theorem SMap.get_nil {α : Type} (i : Nat) (d : α) : SMap.get ([] : SMap α) i d = d := rfl

theorem SMap.get?_put {α : Type} (m : SMap α) (i j : Nat) (v : α) :
    SMap.get? (SMap.put m i v) j = if i = j then some v else SMap.get? m j := by
  induction m with
  | nil => simp [SMap.put, SMap.get?]
  | cons x m ih =>
    obtain ⟨k, y⟩ := x
    simp only [SMap.put]
    split
    · simp [SMap.get?]
    · split
      · rename_i h1 h2
        have h2 : i = k := by simpa using h2
        subst h2
        by_cases hj : i = j <;> simp [SMap.get?, hj]
      · rename_i h1 h2
        simp only [SMap.get?, ih]
        by_cases hk : k = j
        · subst hk
          have : ¬ i = k := by simpa using h2
          simp [this]
        · simp [hk]

theorem SMap.get?_del {α : Type} (m : SMap α) (i j : Nat) :
    SMap.get? (SMap.del m i) j = if i = j then none else SMap.get? m j := by
  induction m with
  | nil => simp [SMap.del]
  | cons x m ih =>
    obtain ⟨k, y⟩ := x
    simp only [SMap.del]
    split
    · rename_i h1
      have h1 : k = i := by simpa using h1
      subst h1
      by_cases hj : k = j
      · subst hj; simpa using ih
      · simp [SMap.get?, hj, ih]
    · rename_i h1
      simp only [SMap.get?, ih]
      by_cases hk : k = j
      · subst hk
        have : ¬ i = k := fun e => h1 (by simp [e])
        simp [this]
      · simp [hk]

theorem SMap.get_put {α : Type} (m : SMap α) (i j : Nat) (v d : α) :
    SMap.get (SMap.put m i v) j d = if i = j then v else SMap.get m j d := by
  simp only [SMap.get, SMap.get?_put]
  split <;> rfl

theorem SMap.get_del {α : Type} (m : SMap α) (i j : Nat) (d : α) :
    SMap.get (SMap.del m i) j d = if i = j then d else SMap.get m j d := by
  simp only [SMap.get, SMap.get?_del]
  split <;> rfl

theorem SMap.get_putD {α : Type} [DecidableEq α] (m : SMap α) (i j : Nat) (v d : α) :
    SMap.get (SMap.putD m i d v) j d = if i = j then v else SMap.get m j d := by
  unfold SMap.putD
  split
  · rename_i h; subst h; exact SMap.get_del ..
  · exact SMap.get_put ..

@[simp] theorem SMap.get_put_same {α : Type} (m : SMap α) (i : Nat) (v d : α) : SMap.get (SMap.put m i v) i d = v := by
  simp [SMap.get_put]
@[simp] theorem SMap.get_putD_same {α : Type} [DecidableEq α] (m : SMap α) (i : Nat) (v d : α) :
    SMap.get (SMap.putD m i d v) i d = v := by simp [SMap.get_putD]

/-! ### Memory -/

/-- Read after write: the byte written, and every other byte as before. -/
theorem Mem.get_set (m : Mem) (a x : Nat) (b : Byte) : Mem.get (Mem.set m a b) x = if a = x then b else Mem.get m x := by
  unfold Mem.get Mem.set; exact SMap.get_putD ..

/-- A write of n bytes leaves every byte outside them as it was. -/
theorem Mem.get_writeN_other (m : Mem) (a v n x : Nat) (h : x < a ∨ a + n ≤ x) : Mem.get (Mem.writeN m a v n) x = Mem.get m x := by
  induction n generalizing m a v with
  | zero => rfl
  | succ n ih =>
    rw [Mem.writeN, ih _ _ _ (by omega), Mem.get_set]
    have : ¬ a = x := by omega
    simp [this]

/-- A byte of a write of n bytes. -/
theorem Mem.get_writeN (m : Mem) (a v n k : Nat) (h : k < n) : Mem.get (Mem.writeN m a v n) (a + k) = BitVec.ofNat 8 (v / 256 ^ k) := by
  induction n generalizing m a v k with
  | zero => omega
  | succ n ih =>
    rw [Mem.writeN]
    cases k with
    | zero => rw [Nat.add_zero, Mem.get_writeN_other _ _ _ _ _ (by omega), Mem.get_set]; simp
    | succ k =>
      have := ih (Mem.set m a (BitVec.ofNat 8 v)) (a + 1) (v / 256) k (by omega)
      rw [show a + (k + 1) = a + 1 + k by omega, this, Nat.pow_succ, Nat.mul_comm, Nat.div_div_eq_div_mul]

theorem Mem.readN_congr (m m' : Mem) (a n : Nat) (h : ∀ k, k < n → Mem.get m (a + k) = Mem.get m' (a + k)) :
    Mem.readN m a n = Mem.readN m' a n := by
  induction n generalizing a with
  | zero => rfl
  | succ n ih =>
    have h0 := h 0 (by omega)
    rw [Mem.readN, Mem.readN, show Mem.get m a = Mem.get m' a from h0,
      ih (a + 1) fun k hk => by have := h (k + 1) (by omega); rwa [show a + (k + 1) = a + 1 + k by omega] at this]

/-- Read after write of the same n bytes. -/
theorem Mem.readN_writeN (m : Mem) (a v n : Nat) : Mem.readN (Mem.writeN m a v n) a n = v % 256 ^ n := by
  induction n generalizing m a v with
  | zero => simp [Mem.readN, Nat.mod_one]
  | succ n ih =>
    rw [Mem.readN, Mem.writeN, ih, Mem.get_writeN_other _ _ _ _ _ (by omega), Mem.get_set]
    simp only [↓reduceIte, BitVec.toNat_ofNat]
    have : 256 ^ (n + 1) = 256 * 256 ^ n := by rw [Nat.pow_succ, Nat.mul_comm]
    rw [this, Nat.mod_mul]

theorem Mem.get_put_list (m : Mem) (a : Nat) (bs : List Byte) (x : Nat) (h : x < a ∨ a + bs.length ≤ x) :
    Mem.get (Mem.put m a bs) x = Mem.get m x := by
  induction bs generalizing m a with
  | nil => rfl
  | cons b bs ih =>
    simp only [List.length_cons] at h
    rw [Mem.put, ih _ _ (by omega), Mem.get_set]
    have : ¬ a = x := by omega
    simp [this]

/-! ### The canonical form -/

theorem Mem.nil_wf : Mem.wf [] := ⟨List.Pairwise.nil, by simp⟩

theorem Mem.mem_put {m : Mem} {a : Nat} {b : Byte} {c : Host.Cell} (h : c ∈ SMap.put m a b) : c = (a, b) ∨ c ∈ m := by
  induction m with
  | nil => simpa [SMap.put] using h
  | cons x m ih =>
    obtain ⟨k, y⟩ := x
    simp only [SMap.put] at h
    split at h
    · simpa using h
    · split at h
      · simp only [List.mem_cons] at h ⊢; rcases h with h | h <;> simp [h]
      · simp only [List.mem_cons] at h ⊢
        rcases h with h | h
        · simp [h]
        · rcases ih h with h | h <;> simp [h]

theorem Mem.mem_del {m : Mem} {a : Nat} {c : Host.Cell} (h : c ∈ SMap.del m a) : c ∈ m := by
  induction m with
  | nil => simp [SMap.del] at h
  | cons x m ih =>
    obtain ⟨k, y⟩ := x
    simp only [SMap.del] at h
    split at h
    · exact List.mem_cons_of_mem _ (ih h)
    · simp only [List.mem_cons] at h ⊢
      rcases h with h | h
      · exact Or.inl h
      · exact Or.inr (ih h)

theorem Mem.put_wf {m : Mem} {a : Nat} {b : Byte} (h : Mem.wf m) (hb : b ≠ 0#8) : Mem.wf (SMap.put m a b) := by
  refine ⟨?_, fun c hc => ?_⟩
  · obtain ⟨h1, -⟩ := h
    induction m with
    | nil => simp [SMap.put]
    | cons x m ih =>
      obtain ⟨k, y⟩ := x
      rw [List.pairwise_cons] at h1
      simp only [SMap.put]
      split
      · rename_i hlt
        rw [List.pairwise_cons]
        refine ⟨fun c hc => ?_, List.pairwise_cons.2 h1⟩
        simp only [List.mem_cons] at hc
        rcases hc with hc | hc
        · subst hc; exact hlt
        · exact Nat.lt_trans hlt (h1.1 c hc)
      · split
        · rename_i h2 h3
          have h3 : a = k := by simpa using h3
          subst h3
          exact List.pairwise_cons.2 ⟨fun c hc => h1.1 c hc, h1.2⟩
        · rename_i h2 h3
          rw [List.pairwise_cons]
          refine ⟨fun c hc => ?_, ih h1.2⟩
          rcases Mem.mem_put hc with hc | hc
          · subst hc
            have : ¬ a = k := by simpa using h3
            show k < a
            omega
          · exact h1.1 c hc
  · rcases Mem.mem_put hc with hc | hc
    · subst hc; exact hb
    · exact h.2 c hc

theorem Mem.del_wf {m : Mem} {a : Nat} (h : Mem.wf m) : Mem.wf (SMap.del m a) := by
  refine ⟨?_, fun c hc => h.2 c (Mem.mem_del hc)⟩
  obtain ⟨h1, -⟩ := h
  induction m with
  | nil => simp [SMap.del]
  | cons x m ih =>
    obtain ⟨k, y⟩ := x
    rw [List.pairwise_cons] at h1
    simp only [SMap.del]
    split
    · exact ih h1.2
    · exact List.pairwise_cons.2 ⟨fun c hc => h1.1 c (Mem.mem_del hc), ih h1.2⟩

/-- Writing a byte keeps the canonical form. -/
theorem Mem.set_wf {m : Mem} (a : Nat) (b : Byte) (h : Mem.wf m) : Mem.wf (Mem.set m a b) := by
  unfold Mem.set SMap.putD
  split
  · exact Mem.del_wf h
  · exact Mem.put_wf h ‹_›

/-- Writing n bytes keeps the canonical form. -/
theorem Mem.writeN_wf {m : Mem} (a v n : Nat) (h : Mem.wf m) : Mem.wf (Mem.writeN m a v n) := by
  induction n generalizing m a v with
  | zero => exact h
  | succ n ih => exact ih _ _ (Mem.set_wf _ _ h)

/-- Writing a list of bytes keeps the canonical form. -/
theorem Mem.putList_wf {m : Mem} (a : Nat) (bs : List Byte) (h : Mem.wf m) : Mem.wf (Mem.put m a bs) := by
  induction bs generalizing m a with
  | nil => exact h
  | cons b bs ih => exact ih _ (Mem.set_wf _ _ h)

/-- Dropping cells keeps the canonical form. -/
theorem Mem.filter_wf {m : Mem} (p : Host.Cell → Bool) (h : Mem.wf m) : Mem.wf (m.filter p) :=
  ⟨h.1.filter _, fun c hc => h.2 c (List.mem_filter.1 hc).1⟩

/-- Clearing n bytes keeps the canonical form. -/
theorem Mem.clear_wf {m : Mem} (a n : Nat) (h : Mem.wf m) : Mem.wf (Mem.clear m a n) := Mem.filter_wf _ h

/-- The memory after reset has the canonical form. -/
theorem reset_mem_wf : Mem.wf State.reset.mem := Mem.nil_wf

end Sys2Proof.Machine
end

