-- ==== Sys2Proof/Laws/State.lean ====
section
/-! SUPPORT. Laws of the state: what each update of a block, a warp, a thread or a register leaves, field by field, and what is read after it. -/
namespace Sys2Proof.Machine

/-! ### Blocks -/

/-- An update that keeps a block in its task slot. -/
def KeepsPlace (f : Block → Block) : Prop := ∀ b, (f b).core = b.core ∧ (f b).slot = b.slot

theorem find?_map_of_inv {α : Type} (p : α → Bool) (f : α → α) (l : List α) (h : ∀ x, p (f x) = p x) :
    (l.map f).find? p = (l.find? p).map f := by
  induction l with
  | nil => rfl
  | cons x l ih => simp only [List.map_cons, List.find?_cons, h]; cases p x <;> simp [ih]

theorem State.block?_modBlock (s : State) (c k c' k' : Nat) (f : Block → Block) (hf : KeepsPlace f) :
    (s.modBlock c k f).block? c' k' = if c = c' ∧ k = k' then (s.block? c' k').map f else s.block? c' k' := by
  unfold State.block? State.modBlock
  simp only
  split
  · rename_i h
    obtain ⟨rfl, rfl⟩ := h
    generalize s.blocks = l
    induction l with
    | nil => rfl
    | cons x l ih =>
      simp only [List.map_cons, List.find?_cons]
      cases hx : (x.core == c && x.slot == k) with
      | true =>
        have h1 : (f x).core = c ∧ (f x).slot = k := by
          have := hf x; simp only [Bool.and_eq_true, beq_iff_eq] at hx; exact ⟨by rw [this.1, hx.1], by rw [this.2, hx.2]⟩
        simp [h1.1, h1.2]
      | false => simp only [Bool.false_eq_true, if_false, hx]; exact ih
  · rename_i h
    generalize s.blocks = l
    induction l with
    | nil => rfl
    | cons x l ih =>
      simp only [List.map_cons, List.find?_cons]
      have h1 : ((if x.core == c && x.slot == k then f x else x).core == c' && (if x.core == c && x.slot == k then f x else x).slot == k')
          = (x.core == c' && x.slot == k') := by
        split
        · rw [(hf x).1, (hf x).2]
        · rfl
      rw [h1]
      cases hx : (x.core == c' && x.slot == k') with
      | true =>
        have : ¬ (x.core == c && x.slot == k) = true := by
          intro e
          simp only [Bool.and_eq_true, beq_iff_eq] at hx e
          exact h ⟨e.1.symm.trans hx.1, e.2.symm.trans hx.2⟩
        simp [this]
      | false => exact ih

@[simp] theorem State.modBlock_rest (s : State) (c k : Nat) (f : Block → Block) : { s.modBlock c k f with blocks := s.blocks } = s := rfl
@[simp] theorem State.modBlock_mem (s : State) (c k : Nat) (f : Block → Block) : (s.modBlock c k f).mem = s.mem := rfl
@[simp] theorem State.modBlock_regs (s : State) (c k : Nat) (f : Block → Block) : (s.modBlock c k f).regs = s.regs := rfl
@[simp] theorem State.modBlock_cur (s : State) (c k : Nat) (f : Block → Block) : (s.modBlock c k f).cur = s.cur := rfl
@[simp] theorem State.modBlock_grids (s : State) (c k : Nat) (f : Block → Block) : (s.modBlock c k f).grids = s.grids := rfl
@[simp] theorem State.modBlock_poolBad (s : State) (c k : Nat) (f : Block → Block) : (s.modBlock c k f).poolBad = s.poolBad := rfl
@[simp] theorem State.modBlock_poison (s : State) (c k : Nat) (f : Block → Block) : (s.modBlock c k f).poison = s.poison := rfl
@[simp] theorem State.modBlock_remOut (s : State) (c k : Nat) (f : Block → Block) : (s.modBlock c k f).remOut = s.remOut := rfl
@[simp] theorem State.modBlock_xreqs (s : State) (c k : Nat) (f : Block → Block) : (s.modBlock c k f).xreqs = s.xreqs := rfl
@[simp] theorem State.modBlock_nextId (s : State) (c k : Nat) (f : Block → Block) : (s.modBlock c k f).nextId = s.nextId := rfl
@[simp] theorem State.modBlock_clk (s : State) (c k : Nat) (f : Block → Block) : (s.modBlock c k f).clk = s.clk := rfl
@[simp] theorem State.modBlock_cores (s : State) (c k : Nat) (f : Block → Block) : (s.modBlock c k f).cores = s.cores := rfl
@[simp] theorem State.modBlock_queues (s : State) (c k : Nat) (f : Block → Block) : (s.modBlock c k f).queues = s.queues := rfl
@[simp] theorem State.modBlock_freps (s : State) (c k : Nat) (f : Block → Block) : (s.modBlock c k f).freps = s.freps := rfl

@[simp] theorem State.modBlock_reg (s : State) (c k : Nat) (f : Block → Block) (a : Nat) : (s.modBlock c k f).reg a = s.reg a := rfl
@[simp] theorem State.modBlock_regN (s : State) (c k : Nat) (f : Block → Block) (a : Nat) : (s.modBlock c k f).regN a = s.regN a := rfl
@[simp] theorem State.modBlock_grid? (s : State) (c k : Nat) (f : Block → Block) (g : Nat) : (s.modBlock c k f).grid? g = s.grid? g := rfl

@[simp] theorem Block.modWarp_core (b : Block) (w : Nat) (f : Warp → Warp) : (b.modWarp w f).core = b.core := rfl
@[simp] theorem Block.modWarp_slot (b : Block) (w : Nat) (f : Warp → Warp) : (b.modWarp w f).slot = b.slot := rfl
@[simp] theorem Block.modWarp_ctx (b : Block) (w : Nat) (f : Warp → Warp) : (b.modWarp w f).ctx = b.ctx := rfl
@[simp] theorem Block.modWarp_grid (b : Block) (w : Nat) (f : Warp → Warp) : (b.modWarp w f).grid = b.grid := rfl
@[simp] theorem Block.modWarp_traps (b : Block) (w : Nat) (f : Warp → Warp) : (b.modWarp w f).traps = b.traps := rfl
@[simp] theorem Block.modWarp_rest (b : Block) (w : Nat) (f : Warp → Warp) : { b.modWarp w f with warps := b.warps } = b := rfl
theorem Block.modWarp_warps (b : Block) (w k : Nat) (f : Warp → Warp) :
    (b.modWarp w f).warps[k]? = if w = k then (b.warps[k]?).map f else b.warps[k]? := by
  simp only [Block.modWarp, List.getElem?_modify]; split <;> simp
@[simp] theorem Block.modThread_core (b : Block) (w l : Nat) (f : Thread → Thread) : (b.modThread w l f).core = b.core := rfl
@[simp] theorem Block.modThread_slot (b : Block) (w l : Nat) (f : Thread → Thread) : (b.modThread w l f).slot = b.slot := rfl
@[simp] theorem Block.modThread_traps (b : Block) (w l : Nat) (f : Thread → Thread) : (b.modThread w l f).traps = b.traps := rfl
@[simp] theorem Block.modThread_rest (b : Block) (w l : Nat) (f : Thread → Thread) : { b.modThread w l f with warps := b.warps } = b := rfl
/-- A thread of a block after a thread of it has changed. -/
theorem Block.thread?_modThread (b : Block) (w l w' l' : Nat) (f : Thread → Thread) :
    (b.modThread w l f).thread? w' l' = if w = w' ∧ l = l' then (b.thread? w' l').map f else b.thread? w' l' := by
  unfold Block.thread? Block.modThread
  rw [Block.modWarp_warps]
  by_cases hw : w = w'
  · subst hw
    cases b.warps[w]? with
    | none => simp
    | some x =>
      simp only [if_true, Option.map_some, Option.bind_some, List.getElem?_modify]
      by_cases hl : l = l' <;> simp [hl]
  · simp [hw]

theorem keepsPlace_modThread (w l : Nat) (f : Thread → Thread) : KeepsPlace fun b => b.modThread w l f := fun _ => ⟨rfl, rfl⟩
theorem keepsPlace_modWarp (w : Nat) (f : Warp → Warp) : KeepsPlace fun b => b.modWarp w f := fun _ => ⟨rfl, rfl⟩

theorem Block.urge_eq (b : Block) : b.urge = { b with urgent := b.urge.urgent } := by
  unfold Block.urge
  simp only
  split
  · rfl
  · split <;> rfl

/-! ### Threads -/

@[simp] theorem State.modThread_rest (s : State) (t : TRef) (f : Thread → Thread) : { s.modThread t f with blocks := s.blocks } = s := rfl
@[simp] theorem State.modThread_mem (s : State) (t : TRef) (f : Thread → Thread) : (s.modThread t f).mem = s.mem := rfl
@[simp] theorem State.modThread_regs (s : State) (t : TRef) (f : Thread → Thread) : (s.modThread t f).regs = s.regs := rfl
@[simp] theorem State.modThread_cur (s : State) (t : TRef) (f : Thread → Thread) : (s.modThread t f).cur = s.cur := rfl
@[simp] theorem State.modThread_grids (s : State) (t : TRef) (f : Thread → Thread) : (s.modThread t f).grids = s.grids := rfl
@[simp] theorem State.modThread_nextId (s : State) (t : TRef) (f : Thread → Thread) : (s.modThread t f).nextId = s.nextId := rfl
@[simp] theorem State.modThread_reg (s : State) (t : TRef) (f : Thread → Thread) (a : Nat) : (s.modThread t f).reg a = s.reg a := rfl
@[simp] theorem State.modThread_regN (s : State) (t : TRef) (f : Thread → Thread) (a : Nat) : (s.modThread t f).regN a = s.regN a := rfl

theorem State.block?_modThread (s : State) (t : TRef) (f : Thread → Thread) (c k : Nat) :
    (s.modThread t f).block? c k = if t.core = c ∧ t.slot = k then (s.block? c k).map fun b => b.modThread t.warp t.lane f else s.block? c k :=
  State.block?_modBlock s t.core t.slot c k _ (keepsPlace_modThread _ _ _)

@[simp] theorem State.block?_modThread_same (s : State) (t : TRef) (f : Thread → Thread) :
    (s.modThread t f).block? t.core t.slot = (s.block? t.core t.slot).map fun b => b.modThread t.warp t.lane f := by
  rw [State.block?_modThread]; simp

theorem State.thread?_eq (s : State) (t : TRef) : s.thread? t = (s.block? t.core t.slot).bind fun b => b.thread? t.warp t.lane := by
  unfold State.thread? State.warp? Block.thread?
  cases s.block? t.core t.slot <;> rfl

/-- A thread after a thread has changed. -/
theorem State.thread?_modThread (s : State) (t u : TRef) (f : Thread → Thread) :
    (s.modThread t f).thread? u = if t = u then (s.thread? u).map f else s.thread? u := by
  rw [State.thread?_eq, State.thread?_eq, State.block?_modThread]
  by_cases hb : t.core = u.core ∧ t.slot = u.slot
  · rw [if_pos hb]
    cases s.block? u.core u.slot with
    | none => simp
    | some b =>
      simp only [Option.map_some, Option.bind_some, Block.thread?_modThread]
      by_cases hw : t.warp = u.warp ∧ t.lane = u.lane
      · have : t = u := by cases t; cases u; simp_all
        simp [this]
      · have : ¬ t = u := fun e => hw (by subst e; exact ⟨rfl, rfl⟩)
        simp [hw, this]
  · have : ¬ t = u := fun e => hb (by subst e; exact ⟨rfl, rfl⟩)
    rw [if_neg hb, if_neg this]

@[simp] theorem State.thread?_modThread_same (s : State) (t : TRef) (f : Thread → Thread) : (s.modThread t f).thread? t = (s.thread? t).map f := by
  rw [State.thread?_modThread]; simp

theorem At.block_thread {s : State} {t : TRef} {b : Block} {w : Warp} {th : Thread} (h : At s t b w th) : b.thread? t.warp t.lane = some th := by
  simp [Block.thread?, h.warp, h.thread]
theorem At.thread? {s : State} {t : TRef} {b : Block} {w : Warp} {th : Thread} (h : At s t b w th) : s.thread? t = some th := by
  rw [State.thread?_eq, h.block]; exact h.block_thread
theorem At.warp? {s : State} {t : TRef} {b : Block} {w : Warp} {th : Thread} (h : At s t b w th) : s.warp? t = some w := by
  simp [State.warp?, h.block, h.warp]
theorem At.pcOf {s : State} {t : TRef} {b : Block} {w : Warp} {th : Thread} (h : At s t b w th) : s.pcOf t = th.pc := by
  simp [State.pcOf, h.thread?]
theorem At.ctxOf {s : State} {t : TRef} {b : Block} {w : Warp} {th : Thread} (h : At s t b w th) : s.ctxOf t = b.ctx := by
  simp [State.ctxOf, h.block]

/-- The thread after it has changed. -/
theorem At.modThread {s : State} {t : TRef} {b : Block} {w : Warp} {th : Thread} (h : At s t b w th) (f : Thread → Thread) :
    At (s.modThread t f) t (b.modThread t.warp t.lane f) { w with threads := w.threads.modify t.lane f } (f th) where
  block := by simp [h.block]
  warp := by unfold Block.modThread; rw [Block.modWarp_warps]; simp [h.warp]
  thread := by simp [h.thread]

/-! ### Every other field of the state, update by update -/

@[simp] theorem State.modBlock_staging (s : State) (c k : Nat) (f : Block → Block) : (s.modBlock c k f).staging = s.staging := rfl
@[simp] theorem State.modBlock_accBad (s : State) (c k : Nat) (f : Block → Block) : (s.modBlock c k f).accBad = s.accBad := rfl
@[simp] theorem State.modBlock_l2 (s : State) (c k : Nat) (f : Block → Block) : (s.modBlock c k f).l2 = s.l2 := rfl
@[simp] theorem State.modBlock_l2out (s : State) (c k : Nat) (f : Block → Block) : (s.modBlock c k f).l2out = s.l2out := rfl
@[simp] theorem State.modBlock_metaC (s : State) (c k : Nat) (f : Block → Block) : (s.modBlock c k f).metaC = s.metaC := rfl
@[simp] theorem State.modBlock_hostMem (s : State) (c k : Nat) (f : Block → Block) : (s.modBlock c k f).hostMem = s.hostMem := rfl
@[simp] theorem State.modBlock_saved (s : State) (c k : Nat) (f : Block → Block) : (s.modBlock c k f).saved = s.saved := rfl
@[simp] theorem State.modBlock_quads (s : State) (c k : Nat) (f : Block → Block) : (s.modBlock c k f).quads = s.quads := rfl
@[simp] theorem State.modBlock_l2tlb (s : State) (c k : Nat) (f : Block → Block) : (s.modBlock c k f).l2tlb = s.l2tlb := rfl
@[simp] theorem State.modBlock_pteCache (s : State) (c k : Nat) (f : Block → Block) : (s.modBlock c k f).pteCache = s.pteCache := rfl
@[simp] theorem State.modBlock_images (s : State) (c k : Nat) (f : Block → Block) : (s.modBlock c k f).images = s.images := rfl
@[simp] theorem State.modBlock_rrNext (s : State) (c k : Nat) (f : Block → Block) : (s.modBlock c k f).rrNext = s.rrNext := rfl
@[simp] theorem State.modBlock_remIn (s : State) (c k : Nat) (f : Block → Block) : (s.modBlock c k f).remIn = s.remIn := rfl
@[simp] theorem State.modBlock_outbound (s : State) (c k : Nat) (f : Block → Block) : (s.modBlock c k f).outbound = s.outbound := rfl
@[simp] theorem State.modBlock_heldQ (s : State) (c k : Nat) (f : Block → Block) : (s.modBlock c k f).heldQ = s.heldQ := rfl
@[simp] theorem State.modBlock_swHits (s : State) (c k : Nat) (f : Block → Block) : (s.modBlock c k f).swHits = s.swHits := rfl
@[simp] theorem State.modBlock_outs (s : State) (c k : Nat) (f : Block → Block) : (s.modBlock c k f).outs = s.outs := rfl
@[simp] theorem State.modBlock_atsPend (s : State) (c k : Nat) (f : Block → Block) : (s.modBlock c k f).atsPend = s.atsPend := rfl
@[simp] theorem State.modBlock_dumps (s : State) (c k : Nat) (f : Block → Block) : (s.modBlock c k f).dumps = s.dumps := rfl
@[simp] theorem State.modBlock_jobPend (s : State) (c k : Nat) (f : Block → Block) : (s.modBlock c k f).jobPend = s.jobPend := rfl
@[simp] theorem State.modBlock_lastWave (s : State) (c k : Nat) (f : Block → Block) : (s.modBlock c k f).lastWave = s.lastWave := rfl
@[simp] theorem State.modBlock_fw (s : State) (c k : Nat) (f : Block → Block) : (s.modBlock c k f).fw = s.fw := rfl
@[simp] theorem State.modBlock_time (s : State) (c k : Nat) (f : Block → Block) : (s.modBlock c k f).time = s.time := rfl
@[simp] theorem State.modBlock_inputs (s : State) (c k : Nat) (f : Block → Block) : (s.modBlock c k f).inputs = s.inputs := rfl
@[simp] theorem State.modBlock_tileStall (s : State) (c k : Nat) (f : Block → Block) : (s.modBlock c k f).tileStall = s.tileStall := rfl
@[simp] theorem State.modBlock_tileTrap (s : State) (c k : Nat) (f : Block → Block) : (s.modBlock c k f).tileTrap = s.tileTrap := rfl
@[simp] theorem State.modBlock_free (s : State) (c k : Nat) (f : Block → Block) : (s.modBlock c k f).free = s.free := rfl
@[simp] theorem State.modThread_staging (s : State) (t : TRef) (f : Thread → Thread) : (s.modThread t f).staging = s.staging := rfl
@[simp] theorem State.modThread_poison (s : State) (t : TRef) (f : Thread → Thread) : (s.modThread t f).poison = s.poison := rfl
@[simp] theorem State.modThread_poolBad (s : State) (t : TRef) (f : Thread → Thread) : (s.modThread t f).poolBad = s.poolBad := rfl
@[simp] theorem State.modThread_accBad (s : State) (t : TRef) (f : Thread → Thread) : (s.modThread t f).accBad = s.accBad := rfl
@[simp] theorem State.modThread_l2 (s : State) (t : TRef) (f : Thread → Thread) : (s.modThread t f).l2 = s.l2 := rfl
@[simp] theorem State.modThread_l2out (s : State) (t : TRef) (f : Thread → Thread) : (s.modThread t f).l2out = s.l2out := rfl
@[simp] theorem State.modThread_metaC (s : State) (t : TRef) (f : Thread → Thread) : (s.modThread t f).metaC = s.metaC := rfl
@[simp] theorem State.modThread_hostMem (s : State) (t : TRef) (f : Thread → Thread) : (s.modThread t f).hostMem = s.hostMem := rfl
@[simp] theorem State.modThread_saved (s : State) (t : TRef) (f : Thread → Thread) : (s.modThread t f).saved = s.saved := rfl
@[simp] theorem State.modThread_cores (s : State) (t : TRef) (f : Thread → Thread) : (s.modThread t f).cores = s.cores := rfl
@[simp] theorem State.modThread_quads (s : State) (t : TRef) (f : Thread → Thread) : (s.modThread t f).quads = s.quads := rfl
@[simp] theorem State.modThread_l2tlb (s : State) (t : TRef) (f : Thread → Thread) : (s.modThread t f).l2tlb = s.l2tlb := rfl
@[simp] theorem State.modThread_pteCache (s : State) (t : TRef) (f : Thread → Thread) : (s.modThread t f).pteCache = s.pteCache := rfl
@[simp] theorem State.modThread_images (s : State) (t : TRef) (f : Thread → Thread) : (s.modThread t f).images = s.images := rfl
@[simp] theorem State.modThread_queues (s : State) (t : TRef) (f : Thread → Thread) : (s.modThread t f).queues = s.queues := rfl
@[simp] theorem State.modThread_rrNext (s : State) (t : TRef) (f : Thread → Thread) : (s.modThread t f).rrNext = s.rrNext := rfl
@[simp] theorem State.modThread_xreqs (s : State) (t : TRef) (f : Thread → Thread) : (s.modThread t f).xreqs = s.xreqs := rfl
@[simp] theorem State.modThread_freps (s : State) (t : TRef) (f : Thread → Thread) : (s.modThread t f).freps = s.freps := rfl
@[simp] theorem State.modThread_remOut (s : State) (t : TRef) (f : Thread → Thread) : (s.modThread t f).remOut = s.remOut := rfl
@[simp] theorem State.modThread_remIn (s : State) (t : TRef) (f : Thread → Thread) : (s.modThread t f).remIn = s.remIn := rfl
@[simp] theorem State.modThread_outbound (s : State) (t : TRef) (f : Thread → Thread) : (s.modThread t f).outbound = s.outbound := rfl
@[simp] theorem State.modThread_heldQ (s : State) (t : TRef) (f : Thread → Thread) : (s.modThread t f).heldQ = s.heldQ := rfl
@[simp] theorem State.modThread_swHits (s : State) (t : TRef) (f : Thread → Thread) : (s.modThread t f).swHits = s.swHits := rfl
@[simp] theorem State.modThread_outs (s : State) (t : TRef) (f : Thread → Thread) : (s.modThread t f).outs = s.outs := rfl
@[simp] theorem State.modThread_atsPend (s : State) (t : TRef) (f : Thread → Thread) : (s.modThread t f).atsPend = s.atsPend := rfl
@[simp] theorem State.modThread_dumps (s : State) (t : TRef) (f : Thread → Thread) : (s.modThread t f).dumps = s.dumps := rfl
@[simp] theorem State.modThread_jobPend (s : State) (t : TRef) (f : Thread → Thread) : (s.modThread t f).jobPend = s.jobPend := rfl
@[simp] theorem State.modThread_lastWave (s : State) (t : TRef) (f : Thread → Thread) : (s.modThread t f).lastWave = s.lastWave := rfl
@[simp] theorem State.modThread_fw (s : State) (t : TRef) (f : Thread → Thread) : (s.modThread t f).fw = s.fw := rfl
@[simp] theorem State.modThread_clk (s : State) (t : TRef) (f : Thread → Thread) : (s.modThread t f).clk = s.clk := rfl
@[simp] theorem State.modThread_time (s : State) (t : TRef) (f : Thread → Thread) : (s.modThread t f).time = s.time := rfl
@[simp] theorem State.modThread_inputs (s : State) (t : TRef) (f : Thread → Thread) : (s.modThread t f).inputs = s.inputs := rfl
@[simp] theorem State.modThread_tileStall (s : State) (t : TRef) (f : Thread → Thread) : (s.modThread t f).tileStall = s.tileStall := rfl
@[simp] theorem State.modThread_tileTrap (s : State) (t : TRef) (f : Thread → Thread) : (s.modThread t f).tileTrap = s.tileTrap := rfl
@[simp] theorem State.modThread_free (s : State) (t : TRef) (f : Thread → Thread) : (s.modThread t f).free = s.free := rfl
@[simp] theorem State.modGrid_mem (s : State) (g : Nat) (f : Grid → Grid) : (s.modGrid g f).mem = s.mem := rfl
@[simp] theorem State.modGrid_staging (s : State) (g : Nat) (f : Grid → Grid) : (s.modGrid g f).staging = s.staging := rfl
@[simp] theorem State.modGrid_poison (s : State) (g : Nat) (f : Grid → Grid) : (s.modGrid g f).poison = s.poison := rfl
@[simp] theorem State.modGrid_poolBad (s : State) (g : Nat) (f : Grid → Grid) : (s.modGrid g f).poolBad = s.poolBad := rfl
@[simp] theorem State.modGrid_accBad (s : State) (g : Nat) (f : Grid → Grid) : (s.modGrid g f).accBad = s.accBad := rfl
@[simp] theorem State.modGrid_l2 (s : State) (g : Nat) (f : Grid → Grid) : (s.modGrid g f).l2 = s.l2 := rfl
@[simp] theorem State.modGrid_l2out (s : State) (g : Nat) (f : Grid → Grid) : (s.modGrid g f).l2out = s.l2out := rfl
@[simp] theorem State.modGrid_metaC (s : State) (g : Nat) (f : Grid → Grid) : (s.modGrid g f).metaC = s.metaC := rfl
@[simp] theorem State.modGrid_hostMem (s : State) (g : Nat) (f : Grid → Grid) : (s.modGrid g f).hostMem = s.hostMem := rfl
@[simp] theorem State.modGrid_regs (s : State) (g : Nat) (f : Grid → Grid) : (s.modGrid g f).regs = s.regs := rfl
@[simp] theorem State.modGrid_blocks (s : State) (g : Nat) (f : Grid → Grid) : (s.modGrid g f).blocks = s.blocks := rfl
@[simp] theorem State.modGrid_saved (s : State) (g : Nat) (f : Grid → Grid) : (s.modGrid g f).saved = s.saved := rfl
@[simp] theorem State.modGrid_cores (s : State) (g : Nat) (f : Grid → Grid) : (s.modGrid g f).cores = s.cores := rfl
@[simp] theorem State.modGrid_quads (s : State) (g : Nat) (f : Grid → Grid) : (s.modGrid g f).quads = s.quads := rfl
@[simp] theorem State.modGrid_l2tlb (s : State) (g : Nat) (f : Grid → Grid) : (s.modGrid g f).l2tlb = s.l2tlb := rfl
@[simp] theorem State.modGrid_pteCache (s : State) (g : Nat) (f : Grid → Grid) : (s.modGrid g f).pteCache = s.pteCache := rfl
@[simp] theorem State.modGrid_images (s : State) (g : Nat) (f : Grid → Grid) : (s.modGrid g f).images = s.images := rfl
@[simp] theorem State.modGrid_queues (s : State) (g : Nat) (f : Grid → Grid) : (s.modGrid g f).queues = s.queues := rfl
@[simp] theorem State.modGrid_rrNext (s : State) (g : Nat) (f : Grid → Grid) : (s.modGrid g f).rrNext = s.rrNext := rfl
@[simp] theorem State.modGrid_xreqs (s : State) (g : Nat) (f : Grid → Grid) : (s.modGrid g f).xreqs = s.xreqs := rfl
@[simp] theorem State.modGrid_freps (s : State) (g : Nat) (f : Grid → Grid) : (s.modGrid g f).freps = s.freps := rfl
@[simp] theorem State.modGrid_remOut (s : State) (g : Nat) (f : Grid → Grid) : (s.modGrid g f).remOut = s.remOut := rfl
@[simp] theorem State.modGrid_remIn (s : State) (g : Nat) (f : Grid → Grid) : (s.modGrid g f).remIn = s.remIn := rfl
@[simp] theorem State.modGrid_outbound (s : State) (g : Nat) (f : Grid → Grid) : (s.modGrid g f).outbound = s.outbound := rfl
@[simp] theorem State.modGrid_heldQ (s : State) (g : Nat) (f : Grid → Grid) : (s.modGrid g f).heldQ = s.heldQ := rfl
@[simp] theorem State.modGrid_swHits (s : State) (g : Nat) (f : Grid → Grid) : (s.modGrid g f).swHits = s.swHits := rfl
@[simp] theorem State.modGrid_outs (s : State) (g : Nat) (f : Grid → Grid) : (s.modGrid g f).outs = s.outs := rfl
@[simp] theorem State.modGrid_atsPend (s : State) (g : Nat) (f : Grid → Grid) : (s.modGrid g f).atsPend = s.atsPend := rfl
@[simp] theorem State.modGrid_dumps (s : State) (g : Nat) (f : Grid → Grid) : (s.modGrid g f).dumps = s.dumps := rfl
@[simp] theorem State.modGrid_jobPend (s : State) (g : Nat) (f : Grid → Grid) : (s.modGrid g f).jobPend = s.jobPend := rfl
@[simp] theorem State.modGrid_lastWave (s : State) (g : Nat) (f : Grid → Grid) : (s.modGrid g f).lastWave = s.lastWave := rfl
@[simp] theorem State.modGrid_fw (s : State) (g : Nat) (f : Grid → Grid) : (s.modGrid g f).fw = s.fw := rfl
@[simp] theorem State.modGrid_clk (s : State) (g : Nat) (f : Grid → Grid) : (s.modGrid g f).clk = s.clk := rfl
@[simp] theorem State.modGrid_time (s : State) (g : Nat) (f : Grid → Grid) : (s.modGrid g f).time = s.time := rfl
@[simp] theorem State.modGrid_inputs (s : State) (g : Nat) (f : Grid → Grid) : (s.modGrid g f).inputs = s.inputs := rfl
@[simp] theorem State.modGrid_cur (s : State) (g : Nat) (f : Grid → Grid) : (s.modGrid g f).cur = s.cur := rfl
@[simp] theorem State.modGrid_tileStall (s : State) (g : Nat) (f : Grid → Grid) : (s.modGrid g f).tileStall = s.tileStall := rfl
@[simp] theorem State.modGrid_tileTrap (s : State) (g : Nat) (f : Grid → Grid) : (s.modGrid g f).tileTrap = s.tileTrap := rfl
@[simp] theorem State.modGrid_nextId (s : State) (g : Nat) (f : Grid → Grid) : (s.modGrid g f).nextId = s.nextId := rfl
@[simp] theorem State.modGrid_free (s : State) (g : Nat) (f : Grid → Grid) : (s.modGrid g f).free = s.free := rfl
@[simp] theorem State.modCore_mem (s : State) (c : Nat) (f : CoreSt → CoreSt) : (s.modCore c f).mem = s.mem := rfl
@[simp] theorem State.modCore_staging (s : State) (c : Nat) (f : CoreSt → CoreSt) : (s.modCore c f).staging = s.staging := rfl
@[simp] theorem State.modCore_poison (s : State) (c : Nat) (f : CoreSt → CoreSt) : (s.modCore c f).poison = s.poison := rfl
@[simp] theorem State.modCore_poolBad (s : State) (c : Nat) (f : CoreSt → CoreSt) : (s.modCore c f).poolBad = s.poolBad := rfl
@[simp] theorem State.modCore_accBad (s : State) (c : Nat) (f : CoreSt → CoreSt) : (s.modCore c f).accBad = s.accBad := rfl
@[simp] theorem State.modCore_l2 (s : State) (c : Nat) (f : CoreSt → CoreSt) : (s.modCore c f).l2 = s.l2 := rfl
@[simp] theorem State.modCore_l2out (s : State) (c : Nat) (f : CoreSt → CoreSt) : (s.modCore c f).l2out = s.l2out := rfl
@[simp] theorem State.modCore_metaC (s : State) (c : Nat) (f : CoreSt → CoreSt) : (s.modCore c f).metaC = s.metaC := rfl
@[simp] theorem State.modCore_hostMem (s : State) (c : Nat) (f : CoreSt → CoreSt) : (s.modCore c f).hostMem = s.hostMem := rfl
@[simp] theorem State.modCore_regs (s : State) (c : Nat) (f : CoreSt → CoreSt) : (s.modCore c f).regs = s.regs := rfl
@[simp] theorem State.modCore_blocks (s : State) (c : Nat) (f : CoreSt → CoreSt) : (s.modCore c f).blocks = s.blocks := rfl
@[simp] theorem State.modCore_saved (s : State) (c : Nat) (f : CoreSt → CoreSt) : (s.modCore c f).saved = s.saved := rfl
@[simp] theorem State.modCore_quads (s : State) (c : Nat) (f : CoreSt → CoreSt) : (s.modCore c f).quads = s.quads := rfl
@[simp] theorem State.modCore_l2tlb (s : State) (c : Nat) (f : CoreSt → CoreSt) : (s.modCore c f).l2tlb = s.l2tlb := rfl
@[simp] theorem State.modCore_pteCache (s : State) (c : Nat) (f : CoreSt → CoreSt) : (s.modCore c f).pteCache = s.pteCache := rfl
@[simp] theorem State.modCore_images (s : State) (c : Nat) (f : CoreSt → CoreSt) : (s.modCore c f).images = s.images := rfl
@[simp] theorem State.modCore_grids (s : State) (c : Nat) (f : CoreSt → CoreSt) : (s.modCore c f).grids = s.grids := rfl
@[simp] theorem State.modCore_queues (s : State) (c : Nat) (f : CoreSt → CoreSt) : (s.modCore c f).queues = s.queues := rfl
@[simp] theorem State.modCore_rrNext (s : State) (c : Nat) (f : CoreSt → CoreSt) : (s.modCore c f).rrNext = s.rrNext := rfl
@[simp] theorem State.modCore_xreqs (s : State) (c : Nat) (f : CoreSt → CoreSt) : (s.modCore c f).xreqs = s.xreqs := rfl
@[simp] theorem State.modCore_freps (s : State) (c : Nat) (f : CoreSt → CoreSt) : (s.modCore c f).freps = s.freps := rfl
@[simp] theorem State.modCore_remOut (s : State) (c : Nat) (f : CoreSt → CoreSt) : (s.modCore c f).remOut = s.remOut := rfl
@[simp] theorem State.modCore_remIn (s : State) (c : Nat) (f : CoreSt → CoreSt) : (s.modCore c f).remIn = s.remIn := rfl
@[simp] theorem State.modCore_outbound (s : State) (c : Nat) (f : CoreSt → CoreSt) : (s.modCore c f).outbound = s.outbound := rfl
@[simp] theorem State.modCore_heldQ (s : State) (c : Nat) (f : CoreSt → CoreSt) : (s.modCore c f).heldQ = s.heldQ := rfl
@[simp] theorem State.modCore_swHits (s : State) (c : Nat) (f : CoreSt → CoreSt) : (s.modCore c f).swHits = s.swHits := rfl
@[simp] theorem State.modCore_outs (s : State) (c : Nat) (f : CoreSt → CoreSt) : (s.modCore c f).outs = s.outs := rfl
@[simp] theorem State.modCore_atsPend (s : State) (c : Nat) (f : CoreSt → CoreSt) : (s.modCore c f).atsPend = s.atsPend := rfl
@[simp] theorem State.modCore_dumps (s : State) (c : Nat) (f : CoreSt → CoreSt) : (s.modCore c f).dumps = s.dumps := rfl
@[simp] theorem State.modCore_jobPend (s : State) (c : Nat) (f : CoreSt → CoreSt) : (s.modCore c f).jobPend = s.jobPend := rfl
@[simp] theorem State.modCore_lastWave (s : State) (c : Nat) (f : CoreSt → CoreSt) : (s.modCore c f).lastWave = s.lastWave := rfl
@[simp] theorem State.modCore_fw (s : State) (c : Nat) (f : CoreSt → CoreSt) : (s.modCore c f).fw = s.fw := rfl
@[simp] theorem State.modCore_clk (s : State) (c : Nat) (f : CoreSt → CoreSt) : (s.modCore c f).clk = s.clk := rfl
@[simp] theorem State.modCore_time (s : State) (c : Nat) (f : CoreSt → CoreSt) : (s.modCore c f).time = s.time := rfl
@[simp] theorem State.modCore_inputs (s : State) (c : Nat) (f : CoreSt → CoreSt) : (s.modCore c f).inputs = s.inputs := rfl
@[simp] theorem State.modCore_cur (s : State) (c : Nat) (f : CoreSt → CoreSt) : (s.modCore c f).cur = s.cur := rfl
@[simp] theorem State.modCore_tileStall (s : State) (c : Nat) (f : CoreSt → CoreSt) : (s.modCore c f).tileStall = s.tileStall := rfl
@[simp] theorem State.modCore_tileTrap (s : State) (c : Nat) (f : CoreSt → CoreSt) : (s.modCore c f).tileTrap = s.tileTrap := rfl
@[simp] theorem State.modCore_nextId (s : State) (c : Nat) (f : CoreSt → CoreSt) : (s.modCore c f).nextId = s.nextId := rfl
@[simp] theorem State.modCore_free (s : State) (c : Nat) (f : CoreSt → CoreSt) : (s.modCore c f).free = s.free := rfl
@[simp] theorem State.modQuad_mem (s : State) (q : Nat) (f : QuadSt → QuadSt) : (s.modQuad q f).mem = s.mem := rfl
@[simp] theorem State.modQuad_staging (s : State) (q : Nat) (f : QuadSt → QuadSt) : (s.modQuad q f).staging = s.staging := rfl
@[simp] theorem State.modQuad_poison (s : State) (q : Nat) (f : QuadSt → QuadSt) : (s.modQuad q f).poison = s.poison := rfl
@[simp] theorem State.modQuad_poolBad (s : State) (q : Nat) (f : QuadSt → QuadSt) : (s.modQuad q f).poolBad = s.poolBad := rfl
@[simp] theorem State.modQuad_accBad (s : State) (q : Nat) (f : QuadSt → QuadSt) : (s.modQuad q f).accBad = s.accBad := rfl
@[simp] theorem State.modQuad_l2 (s : State) (q : Nat) (f : QuadSt → QuadSt) : (s.modQuad q f).l2 = s.l2 := rfl
@[simp] theorem State.modQuad_l2out (s : State) (q : Nat) (f : QuadSt → QuadSt) : (s.modQuad q f).l2out = s.l2out := rfl
@[simp] theorem State.modQuad_metaC (s : State) (q : Nat) (f : QuadSt → QuadSt) : (s.modQuad q f).metaC = s.metaC := rfl
@[simp] theorem State.modQuad_hostMem (s : State) (q : Nat) (f : QuadSt → QuadSt) : (s.modQuad q f).hostMem = s.hostMem := rfl
@[simp] theorem State.modQuad_regs (s : State) (q : Nat) (f : QuadSt → QuadSt) : (s.modQuad q f).regs = s.regs := rfl
@[simp] theorem State.modQuad_blocks (s : State) (q : Nat) (f : QuadSt → QuadSt) : (s.modQuad q f).blocks = s.blocks := rfl
@[simp] theorem State.modQuad_saved (s : State) (q : Nat) (f : QuadSt → QuadSt) : (s.modQuad q f).saved = s.saved := rfl
@[simp] theorem State.modQuad_cores (s : State) (q : Nat) (f : QuadSt → QuadSt) : (s.modQuad q f).cores = s.cores := rfl
@[simp] theorem State.modQuad_l2tlb (s : State) (q : Nat) (f : QuadSt → QuadSt) : (s.modQuad q f).l2tlb = s.l2tlb := rfl
@[simp] theorem State.modQuad_pteCache (s : State) (q : Nat) (f : QuadSt → QuadSt) : (s.modQuad q f).pteCache = s.pteCache := rfl
@[simp] theorem State.modQuad_images (s : State) (q : Nat) (f : QuadSt → QuadSt) : (s.modQuad q f).images = s.images := rfl
@[simp] theorem State.modQuad_grids (s : State) (q : Nat) (f : QuadSt → QuadSt) : (s.modQuad q f).grids = s.grids := rfl
@[simp] theorem State.modQuad_queues (s : State) (q : Nat) (f : QuadSt → QuadSt) : (s.modQuad q f).queues = s.queues := rfl
@[simp] theorem State.modQuad_rrNext (s : State) (q : Nat) (f : QuadSt → QuadSt) : (s.modQuad q f).rrNext = s.rrNext := rfl
@[simp] theorem State.modQuad_xreqs (s : State) (q : Nat) (f : QuadSt → QuadSt) : (s.modQuad q f).xreqs = s.xreqs := rfl
@[simp] theorem State.modQuad_freps (s : State) (q : Nat) (f : QuadSt → QuadSt) : (s.modQuad q f).freps = s.freps := rfl
@[simp] theorem State.modQuad_remOut (s : State) (q : Nat) (f : QuadSt → QuadSt) : (s.modQuad q f).remOut = s.remOut := rfl
@[simp] theorem State.modQuad_remIn (s : State) (q : Nat) (f : QuadSt → QuadSt) : (s.modQuad q f).remIn = s.remIn := rfl
@[simp] theorem State.modQuad_outbound (s : State) (q : Nat) (f : QuadSt → QuadSt) : (s.modQuad q f).outbound = s.outbound := rfl
@[simp] theorem State.modQuad_heldQ (s : State) (q : Nat) (f : QuadSt → QuadSt) : (s.modQuad q f).heldQ = s.heldQ := rfl
@[simp] theorem State.modQuad_swHits (s : State) (q : Nat) (f : QuadSt → QuadSt) : (s.modQuad q f).swHits = s.swHits := rfl
@[simp] theorem State.modQuad_outs (s : State) (q : Nat) (f : QuadSt → QuadSt) : (s.modQuad q f).outs = s.outs := rfl
@[simp] theorem State.modQuad_atsPend (s : State) (q : Nat) (f : QuadSt → QuadSt) : (s.modQuad q f).atsPend = s.atsPend := rfl
@[simp] theorem State.modQuad_dumps (s : State) (q : Nat) (f : QuadSt → QuadSt) : (s.modQuad q f).dumps = s.dumps := rfl
@[simp] theorem State.modQuad_jobPend (s : State) (q : Nat) (f : QuadSt → QuadSt) : (s.modQuad q f).jobPend = s.jobPend := rfl
@[simp] theorem State.modQuad_lastWave (s : State) (q : Nat) (f : QuadSt → QuadSt) : (s.modQuad q f).lastWave = s.lastWave := rfl
@[simp] theorem State.modQuad_fw (s : State) (q : Nat) (f : QuadSt → QuadSt) : (s.modQuad q f).fw = s.fw := rfl
@[simp] theorem State.modQuad_clk (s : State) (q : Nat) (f : QuadSt → QuadSt) : (s.modQuad q f).clk = s.clk := rfl
@[simp] theorem State.modQuad_time (s : State) (q : Nat) (f : QuadSt → QuadSt) : (s.modQuad q f).time = s.time := rfl
@[simp] theorem State.modQuad_inputs (s : State) (q : Nat) (f : QuadSt → QuadSt) : (s.modQuad q f).inputs = s.inputs := rfl
@[simp] theorem State.modQuad_cur (s : State) (q : Nat) (f : QuadSt → QuadSt) : (s.modQuad q f).cur = s.cur := rfl
@[simp] theorem State.modQuad_tileStall (s : State) (q : Nat) (f : QuadSt → QuadSt) : (s.modQuad q f).tileStall = s.tileStall := rfl
@[simp] theorem State.modQuad_tileTrap (s : State) (q : Nat) (f : QuadSt → QuadSt) : (s.modQuad q f).tileTrap = s.tileTrap := rfl
@[simp] theorem State.modQuad_nextId (s : State) (q : Nat) (f : QuadSt → QuadSt) : (s.modQuad q f).nextId = s.nextId := rfl
@[simp] theorem State.modQuad_free (s : State) (q : Nat) (f : QuadSt → QuadSt) : (s.modQuad q f).free = s.free := rfl
@[simp] theorem State.setReg_mem (s : State) (a : Nat) (v : Dword) : (s.setReg a v).mem = s.mem := rfl
@[simp] theorem State.setReg_staging (s : State) (a : Nat) (v : Dword) : (s.setReg a v).staging = s.staging := rfl
@[simp] theorem State.setReg_poison (s : State) (a : Nat) (v : Dword) : (s.setReg a v).poison = s.poison := rfl
@[simp] theorem State.setReg_poolBad (s : State) (a : Nat) (v : Dword) : (s.setReg a v).poolBad = s.poolBad := rfl
@[simp] theorem State.setReg_accBad (s : State) (a : Nat) (v : Dword) : (s.setReg a v).accBad = s.accBad := rfl
@[simp] theorem State.setReg_l2 (s : State) (a : Nat) (v : Dword) : (s.setReg a v).l2 = s.l2 := rfl
@[simp] theorem State.setReg_l2out (s : State) (a : Nat) (v : Dword) : (s.setReg a v).l2out = s.l2out := rfl
@[simp] theorem State.setReg_metaC (s : State) (a : Nat) (v : Dword) : (s.setReg a v).metaC = s.metaC := rfl
@[simp] theorem State.setReg_hostMem (s : State) (a : Nat) (v : Dword) : (s.setReg a v).hostMem = s.hostMem := rfl
@[simp] theorem State.setReg_blocks (s : State) (a : Nat) (v : Dword) : (s.setReg a v).blocks = s.blocks := rfl
@[simp] theorem State.setReg_saved (s : State) (a : Nat) (v : Dword) : (s.setReg a v).saved = s.saved := rfl
@[simp] theorem State.setReg_cores (s : State) (a : Nat) (v : Dword) : (s.setReg a v).cores = s.cores := rfl
@[simp] theorem State.setReg_quads (s : State) (a : Nat) (v : Dword) : (s.setReg a v).quads = s.quads := rfl
@[simp] theorem State.setReg_l2tlb (s : State) (a : Nat) (v : Dword) : (s.setReg a v).l2tlb = s.l2tlb := rfl
@[simp] theorem State.setReg_pteCache (s : State) (a : Nat) (v : Dword) : (s.setReg a v).pteCache = s.pteCache := rfl
@[simp] theorem State.setReg_images (s : State) (a : Nat) (v : Dword) : (s.setReg a v).images = s.images := rfl
@[simp] theorem State.setReg_grids (s : State) (a : Nat) (v : Dword) : (s.setReg a v).grids = s.grids := rfl
@[simp] theorem State.setReg_queues (s : State) (a : Nat) (v : Dword) : (s.setReg a v).queues = s.queues := rfl
@[simp] theorem State.setReg_rrNext (s : State) (a : Nat) (v : Dword) : (s.setReg a v).rrNext = s.rrNext := rfl
@[simp] theorem State.setReg_xreqs (s : State) (a : Nat) (v : Dword) : (s.setReg a v).xreqs = s.xreqs := rfl
@[simp] theorem State.setReg_freps (s : State) (a : Nat) (v : Dword) : (s.setReg a v).freps = s.freps := rfl
@[simp] theorem State.setReg_remOut (s : State) (a : Nat) (v : Dword) : (s.setReg a v).remOut = s.remOut := rfl
@[simp] theorem State.setReg_remIn (s : State) (a : Nat) (v : Dword) : (s.setReg a v).remIn = s.remIn := rfl
@[simp] theorem State.setReg_outbound (s : State) (a : Nat) (v : Dword) : (s.setReg a v).outbound = s.outbound := rfl
@[simp] theorem State.setReg_heldQ (s : State) (a : Nat) (v : Dword) : (s.setReg a v).heldQ = s.heldQ := rfl
@[simp] theorem State.setReg_swHits (s : State) (a : Nat) (v : Dword) : (s.setReg a v).swHits = s.swHits := rfl
@[simp] theorem State.setReg_outs (s : State) (a : Nat) (v : Dword) : (s.setReg a v).outs = s.outs := rfl
@[simp] theorem State.setReg_atsPend (s : State) (a : Nat) (v : Dword) : (s.setReg a v).atsPend = s.atsPend := rfl
@[simp] theorem State.setReg_dumps (s : State) (a : Nat) (v : Dword) : (s.setReg a v).dumps = s.dumps := rfl
@[simp] theorem State.setReg_jobPend (s : State) (a : Nat) (v : Dword) : (s.setReg a v).jobPend = s.jobPend := rfl
@[simp] theorem State.setReg_lastWave (s : State) (a : Nat) (v : Dword) : (s.setReg a v).lastWave = s.lastWave := rfl
@[simp] theorem State.setReg_fw (s : State) (a : Nat) (v : Dword) : (s.setReg a v).fw = s.fw := rfl
@[simp] theorem State.setReg_clk (s : State) (a : Nat) (v : Dword) : (s.setReg a v).clk = s.clk := rfl
@[simp] theorem State.setReg_time (s : State) (a : Nat) (v : Dword) : (s.setReg a v).time = s.time := rfl
@[simp] theorem State.setReg_inputs (s : State) (a : Nat) (v : Dword) : (s.setReg a v).inputs = s.inputs := rfl
@[simp] theorem State.setReg_cur (s : State) (a : Nat) (v : Dword) : (s.setReg a v).cur = s.cur := rfl
@[simp] theorem State.setReg_tileStall (s : State) (a : Nat) (v : Dword) : (s.setReg a v).tileStall = s.tileStall := rfl
@[simp] theorem State.setReg_tileTrap (s : State) (a : Nat) (v : Dword) : (s.setReg a v).tileTrap = s.tileTrap := rfl
@[simp] theorem State.setReg_nextId (s : State) (a : Nat) (v : Dword) : (s.setReg a v).nextId = s.nextId := rfl
@[simp] theorem State.setReg_free (s : State) (a : Nat) (v : Dword) : (s.setReg a v).free = s.free := rfl
@[simp] theorem State.modGrid_rest (s : State) (g : Nat) (f : Grid → Grid) : { s.modGrid g f with grids := s.grids } = s := rfl
@[simp] theorem State.modCore_rest (s : State) (c : Nat) (f : CoreSt → CoreSt) : { s.modCore c f with cores := s.cores } = s := rfl
@[simp] theorem State.modQuad_rest (s : State) (q : Nat) (f : QuadSt → QuadSt) : { s.modQuad q f with quads := s.quads } = s := rfl
@[simp] theorem State.setReg_rest (s : State) (a : Nat) (v : Dword) : { s.setReg a v with regs := s.regs } = s := rfl

end Sys2Proof.Machine
end

