-- ==== Sys2Proof/Laws/Issue.lean ====
section
/-! SUPPORT. What issuing an instruction for one thread does, said once: the operations on one thread leave everything else as it was, and the
instruction's effect decides the next state. -/
namespace Sys2Proof.Machine

variable {s s' s'' : State} {t : TRef} {b b' b'' : Block} {w w' w'' : Warp} {th th' th'' : Thread}

/-! ### Local changes compose -/

theorem Local.trans (h1 : Local s s' t b w b' w' th') (h2 : Local s' s'' t b' w' b'' w'' th'') : Local s s'' t b w b'' w'' th'' where
  rest := by have := h2.rest; have := h1.rest; grind
  healed x h := h1.healed x (h2.healed x h)
  others c k h := (h2.others c k h).trans (h1.others c k h)
  at_ := h2.at_
  block := by have := h2.block; have := h1.block; grind
  traps k hk := by
    have hs : w'.hsel = w.hsel := by have := h1.warp; grind
    exact (h2.traps k (by rw [hs]; exact hk)).trans (h1.traps k hk)
  warps k h := (h2.warps k h).trans (h1.warps k h)
  warp := by have := h2.warp; have := h1.warp; grind
  lanes l h := (h2.lanes l h).trans (h1.lanes l h)

theorem Local.refl (h : At s t b w th) : Local s s t b w b w th :=
  ⟨rfl, fun _ h => h, fun _ _ _ => rfl, h, rfl, fun _ _ => rfl, fun _ _ => rfl, rfl, fun _ _ => rfl⟩

/-- A change of a thread is local. -/
theorem Local.modThread (h : At s t b w th) (f : Thread → Thread) :
    Local s (s.modThread t f) t b w (b.modThread t.warp t.lane f) { w with threads := w.threads.modify t.lane f } (f th) where
  rest := rfl
  healed _ h := h
  others c k hk := by rw [State.block?_modThread, if_neg hk]
  at_ := h.modThread f
  block := rfl
  traps _ _ := rfl
  warps k hk := by unfold Block.modThread; rw [Block.modWarp_warps, if_neg (Ne.symm hk)]
  warp := rfl
  lanes l hl := by simp [Ne.symm hl]

/-- A change of a block that keeps it in place and changes nothing but one thread, its warp's progress, the urgent warp and the trap rows is local. -/
theorem Local.modBlock (h : At s t b w th) (f : Block → Block) (hf : KeepsPlace f)
    (hb : { f b with warps := b.warps, urgent := b.urgent, traps := b.traps } = b)
    (hr : ∀ k, (∀ r, r < 32 → k ≠ w.hsel.getD 0 * 1024 + r * 32 + t.lane) → SMap.get (f b).traps k 0 = SMap.get b.traps k 0)
    (hw : (f b).warps[t.warp]? = some w') (ho : ∀ k, k ≠ t.warp → (f b).warps[k]? = b.warps[k]?)
    (hw2 : { w' with threads := w.threads, progress := w.progress } = w) (ht : w'.threads[t.lane]? = some th')
    (hl : ∀ l, l ≠ t.lane → w'.threads[l]? = w.threads[l]?) :
    Local s (s.modBlock t.core t.slot f) t b w (f b) w' th' where
  rest := rfl
  healed _ h := h
  others c k hk := by rw [State.block?_modBlock _ _ _ _ _ _ hf, if_neg hk]
  at_ := ⟨by rw [State.block?_modBlock _ _ _ _ _ _ hf]; simp [h.block], hw, ht⟩
  block := hb
  traps := hr
  warps := ho
  warp := hw2
  lanes := hl

/-- The warp after one instruction of a thread has issued. -/
def Warp.counted (w : Warp) (l : Nat) : Warp :=
  { w with progress := w.progress + 1,
           threads := w.threads.modify l fun th => { th with pend := th.pend.map (fun p => { p with la := p.la - 1 }), waited := 0 } }
/-- The thread after its instruction has issued. -/
def Thread.counted (th : Thread) : Thread := { th with pend := th.pend.map (fun p => { p with la := p.la - 1 }), waited := 0 }
/-- The block after one instruction of a thread has issued. -/
def Block.counted (b : Block) (w l : Nat) : Block := (b.modWarp w fun x => x.counted l).urge

theorem State.countIssue_eq (s : State) (t : TRef) : s.countIssue t = s.modBlock t.core t.slot fun b => b.counted t.warp t.lane := rfl

/-- Issuing is local (R85, R119). -/
theorem Local.countIssue (h : At s t b w th) :
    Local s (s.countIssue t) t b w (b.counted t.warp t.lane) (w.counted t.lane) th.counted := by
  rw [State.countIssue_eq]
  refine Local.modBlock h (fun b => b.counted t.warp t.lane) (fun x => ?_) ?_ ?_ ?_ ?_ rfl ?_ ?_
  · simp only [Block.counted]; rw [Block.urge_eq]; exact ⟨rfl, rfl⟩
  · simp only [Block.counted]; rw [Block.urge_eq]; rfl
  · intro k _; simp only [Block.counted]; rw [Block.urge_eq]; rfl
  · simp only [Block.counted]; rw [Block.urge_eq]; simp only [Block.modWarp_warps]; simp [h.warp]
  · intro k hk; simp only [Block.counted]; rw [Block.urge_eq]; simp only [Block.modWarp_warps]; rw [if_neg (Ne.symm hk)]
  · simp [Warp.counted, h.thread, Thread.counted]
  · intro l hl; simp [Warp.counted, Ne.symm hl]

/-! ### Registers and predicates -/

/-- A register as its thread names it (R77, R384). -/
theorem At.rv (h : At s t b w th) (r : VReg) : s.rv t r =
    if r = 255#8 then 0 else if th.hmode = true ∧ r.toNat < 32 then SMap.get b.traps (w.hsel.getD 0 * 1024 + r.toNat * 32 + t.lane) 0
    else SMap.get th.regs r.toNat 0 := by
  unfold State.rv
  rw [h.block]
  simp [Block.vget, h.warp, h.thread]

/-- A predicate as its thread names it: p7 reads true (R77). -/
theorem At.pget (h : At s t b w th) (p : PReg) : s.pget t p = (p == 7#3 || th.pred.getLsbD p.toNat) := by
  unfold State.pget; rw [h.thread?]

/-- The thread after a write of a register. -/
def Thread.wrote (th : Thread) (d : VReg) (v : Word) : Thread :=
  if d = 255#8 ∨ (th.hmode = true ∧ d.toNat < 32) ∨ th.mapped d = true then th else { th with regs := SMap.putD th.regs d.toNat 0 v }

theorem modify_self {α : Type} (l : List α) (i : Nat) (f : α → α) (x : α) (h : l[i]? = some x) (hf : f x = x) : l.modify i f = l := by
  apply List.ext_getElem?
  intro j
  rw [List.getElem?_modify]
  by_cases hj : i = j
  · subst hj; simp [h, hf]
  · simp [hj]

theorem keepsPlace_vset (w l : Nat) (d : VReg) (v : Word) : KeepsPlace fun b => b.vset w l d v := by
  intro b; simp only [Block.vset]
  split
  · exact ⟨rfl, rfl⟩
  · split
    · exact ⟨rfl, rfl⟩
    · split
      · exact ⟨rfl, rfl⟩
      · split
        · exact ⟨rfl, rfl⟩
        · split <;> exact ⟨rfl, rfl⟩

theorem Block.vset_eq (hw : b.warps[t.warp]? = some w) (ht : w.threads[t.lane]? = some th) (d : VReg) (v : Word) :
    b.vset t.warp t.lane d v =
      if d = 255#8 then b
      else if th.hmode = true ∧ d.toNat < 32 then { b with traps := SMap.putD b.traps (w.hsel.getD 0 * 1024 + d.toNat * 32 + t.lane) 0 v }
      else if th.mapped d = true then b
      else b.modThread t.warp t.lane fun th => { th with regs := SMap.putD th.regs d.toNat 0 v } := by
  simp [Block.vset, hw, ht]

/-- Writing a register is local. -/
theorem Local.wv (h : At s t b w th) (d : VReg) (v : Word) :
    Local s (s.wv t d v) t b w (b.vset t.warp t.lane d v) { w with threads := w.threads.modify t.lane fun _ => th.wrote d v } (th.wrote d v) := by
  have hm : ∀ (l : Nat), l ≠ t.lane → (w.threads.modify t.lane fun _ => th.wrote d v)[l]? = w.threads[l]? := by
    intro l hl; simp [Ne.symm hl]
  have hv := Block.vset_eq h.warp h.thread d v
  by_cases hc : d = 255#8 ∨ th.mapped d = true ∧ ¬ (th.hmode = true ∧ d.toNat < 32)
  · have hb : b.vset t.warp t.lane d v = b := by
      rw [hv]; rcases hc with hc | hc
      · rw [if_pos hc]
      · rw [if_neg hc.2, if_pos hc.1]; split <;> rfl
    have hs := modify_self w.threads t.lane (fun _ => th.wrote d v) th h.thread
      (by rcases hc with hc | hc <;> simp [Thread.wrote, hc])
    refine Local.modBlock h (fun b => b.vset t.warp t.lane d v) (keepsPlace_vset _ _ _ _) ?_ ?_ ?_ ?_ rfl ?_ hm
    · simp only [hb]
    · intro k hk; simp only [hb]
    · simp only [hb, hs]; exact h.warp
    · intro k hk; simp only [hb]
    · simp [h.thread]
  · have h1 : ¬ d = 255#8 := fun e => hc (Or.inl e)
    by_cases h2 : th.hmode = true ∧ d.toNat < 32
    · have hb : b.vset t.warp t.lane d v = { b with traps := SMap.putD b.traps (w.hsel.getD 0 * 1024 + d.toNat * 32 + t.lane) 0 v } := by
        rw [hv, if_neg h1, if_pos h2]
      have hs := modify_self w.threads t.lane (fun _ => th.wrote d v) th h.thread (by simp [Thread.wrote, h2])
      refine Local.modBlock h (fun b => b.vset t.warp t.lane d v) (keepsPlace_vset _ _ _ _) ?_ ?_ ?_ ?_ rfl ?_ hm
      · simp only [hb]
      · intro k hk; simp only [hb]; exact (SMap.get_putD ..).trans (if_neg fun e => hk _ h2.2 e.symm)
      · simp only [hb, hs]; exact h.warp
      · intro k hk; simp only [hb]
      · simp [h.thread]
    · have h3 : ¬ th.mapped d = true := fun e => hc (Or.inr ⟨e, h2⟩)
      have hb : b.vset t.warp t.lane d v = b.modThread t.warp t.lane fun th => { th with regs := SMap.putD th.regs d.toNat 0 v } := by
        rw [hv, if_neg h1, if_neg h2, if_neg h3]
      refine Local.modBlock h (fun b => b.vset t.warp t.lane d v) (keepsPlace_vset _ _ _ _) ?_ ?_ ?_ ?_ rfl ?_ hm
      · simp only [hb]; rfl
      · intro k hk; simp only [hb]; rfl
      · simp only [hb]; unfold Block.modThread
        rw [Block.modWarp_warps, if_pos rfl, h.warp]
        simp only [Option.map_some, Option.some.injEq]
        congr 1
        apply List.ext_getElem?
        intro j
        rw [List.getElem?_modify, List.getElem?_modify]
        by_cases hj : t.lane = j
        · subst hj; simp [h.thread, Thread.wrote, h1, h2, h3]
        · simp [hj]
      · intro k hk; simp only [hb]; unfold Block.modThread; rw [Block.modWarp_warps, if_neg (Ne.symm hk)]
      · simp [h.thread]

/-- A register after a write: v255 and a mapped register discard it (R77, R349). -/
theorem rv_wv (h : At s t b w th) (d r : VReg) (v : Word) (hm : th.mapped d = false) :
    (s.wv t d v).rv t r = if d = r ∧ d ≠ 255#8 then v else s.rv t r := by
  rw [(Local.wv h d v).at_.rv, h.rv, Block.vset_eq h.warp h.thread]
  by_cases hd : d = 255#8
  · subst hd; simp [Thread.wrote]
  · by_cases hr : r = 255#8
    · simp [hr, hd]
    · simp only [hd, hr, if_false, Thread.wrote, hm, false_or, ne_eq, not_false_eq_true, and_true, Bool.false_eq_true, or_false]
      have hinj : ∀ a : VReg, a.toNat = r.toNat → a = r := fun a => BitVec.eq_of_toNat_eq
      by_cases h1 : th.hmode = true ∧ d.toNat < 32
      · simp only [h1, and_self, if_true, true_and]
        by_cases h2 : r.toNat < 32
        · simp only [h2, if_true]
          rw [SMap.get_putD]
          by_cases he : d = r
          · simp [he]
          · have : ¬ w.hsel.getD 0 * 1024 + d.toNat * 32 + t.lane = w.hsel.getD 0 * 1024 + r.toNat * 32 + t.lane := by
              intro e; exact he (hinj d (by omega))
            rw [if_neg this, if_neg he]
        · have : ¬ d = r := by intro e; rw [e] at h1; exact h2 h1.2
          rw [if_neg this]; simp [h2]
      · simp only [h1, if_false]
        by_cases h2 : th.hmode = true ∧ r.toNat < 32
        · have : ¬ d = r := by intro e; rw [e] at h1; exact h1 h2
          simp [h2, this, Block.modThread]
        · simp only [h2, if_false]
          rw [SMap.get_putD]
          by_cases he : d = r
          · simp [he]
          · have : ¬ d.toNat = r.toNat := fun e => he (hinj d e)
            simp [this, he]

/-! ### Issue -/

/-- A thread without a consumer binding has no mapped register. -/
theorem mapped_of_nil (h : th.binds = []) (r : VReg) : th.mapped r = false := by simp [Thread.mapped, h]

/-- A source of a thread without a consumer binding is its register. -/
theorem src_of_nil (h : At s t b w th) (hb : th.binds = []) (k : Nat) (r : VReg) : s.src t k r = s.rv t r := by
  unfold State.src; rw [h.thread?]; simp [mapped_of_nil hb]

theorem ready_watch (h : At s t b w th) {cl : LaClass} (hr : s.ready t cl = true) : th.watch = none := by
  unfold State.ready at hr
  rw [h.block] at hr
  simp only [h.warp, h.thread, Bool.and_eq_true, Option.isNone_iff_eq_none] at hr
  exact hr.1.1.1.2

/-- A thread without a waiting watchpoint cause has none to raise. -/
theorem finishWatch_none (h : At s t b w th) (hw : th.watch = none) : s.finishWatch t = s := by
  unfold State.finishWatch; rw [h.thread?]; simp [hw]

/-- What an effect on one thread makes of the state, when the instruction is at pc. -/
def effOver (s0 : State) (t : TRef) (i : Instr) (h : Hdr) (hmode : Bool) (ctx : Nat) (pc : Dword) : Eff → State
  | .done s1 => (s1.adv t (pc + 8)).finishWatch t
  | .goto s1 p => (s1.adv t p).finishWatch t
  | .stay s1 => if i.laClass == .long && !hmode && s0.rbState ctx == 0 && (match s1.thread? t with
      | some x => x.st == .parked && x.wait.any fun w => w.kind == .access | none => false) then s0.issueHeld t i h else s1
  | .trap s1 c => s1.deliver t c false

theorem rbState_countIssue (s : State) (t : TRef) (c : Nat) : (s.countIssue t).rbState c = s.rbState c := rfl

/-- The instruction of a thread that issues alone: its effect on the state that has counted the issue decides everything (R84). -/
theorem issue_alone {i : Instr} {h : Hdr} {joins : Bool} {eff : State → TRef → Bool → Eff} (ha : Alone i s t b w th) (hg : s.guard t h = true) :
    s.issue i h joins eff t = effOver (s.countIssue t) t i h th.hmode b.ctx th.pc (eff (s.countIssue t) t true) := by
  unfold State.issue
  have hmap : ∀ r, th.mapped r = false := mapped_of_nil ha.unbound
  have hany : (i.fields.any fun f => f.n != 1 && (List.range f.n).any fun k => th.mapped (f.reg + BitVec.ofNat 8 k)) = false := by simp [hmap]
  simp only [ha.at_.block, ha.at_.warp, ha.at_.thread, ha.first, ha.running, ha.priv, ha.alloc, ha.window, ha.words, hg, hany, ha.unbound,
    Option.isSome_none, Bool.false_eq_true, if_false, bne_self_eq_false, Bool.and_false, Bool.not_true, Bool.false_and,
    List.isEmpty_nil]
  cases he : eff (s.countIssue t) t true with
  | stay s3 => simp only [effOver, rbState_countIssue]; rfl
  | _ => simp only [effOver]

theorem runThreads_alone {i : Instr} {h : Hdr} {joins : Bool} {eff : State → TRef → Bool → Eff} (ha : Alone i s t b w th) (hg : s.guard t h = true) :
    runThreads i h joins eff s = .next (effOver (s.countIssue t) t i h th.hmode b.ctx th.pc (eff (s.countIssue t) t true)) := by
  unfold runThreads
  have : s.goes t i = true := by simp [State.goes, ha.ready, ha.clear]
  rw [ha.convoy]
  simp only [runOver, List.filter_cons, this, if_true, List.filter_nil, List.map_cons, List.map_nil, List.foldl_cons, List.foldl_nil, beq_self_eq_true, issue_alone ha hg]

theorem runGuarded_alone {i : Instr} {h : Hdr} {eff : State → TRef → Eff} (ha : Alone i s t b w th) (hg : s.guard t h = true) :
    runGuarded i h eff s = .next (effOver (s.countIssue t) t i h th.hmode b.ctx th.pc (eff (s.countIssue t) t)) := by
  unfold runGuarded; exact runThreads_alone ha hg

theorem runThreadsIf_alone {i : Instr} {h : Hdr} {ok : TRef → Bool} {eff : State → TRef → Eff} (ha : Alone i s t b w th) (hg : s.guard t h = true)
    (hok : ok t = true) :
    runThreadsIf i h ok eff s = .next (effOver (s.countIssue t) t i h th.hmode b.ctx th.pc (eff (s.countIssue t) t)) := by
  unfold runThreadsIf
  have : s.goes t i = true := by simp [State.goes, ha.ready, ha.clear]
  rw [ha.convoy]
  simp only [runOver, List.filter_cons, this, hok, Bool.or_true, Bool.true_or, Bool.true_and, if_true, List.filter_nil, List.map_cons, List.map_nil, List.foldl_cons,
    List.foldl_nil, beq_self_eq_true, issue_alone ha hg]

/-- The thread after it goes on at a PC is local. -/
theorem Local.adv (h : At s t b w th) (pc : Dword) :
    Local s (s.adv t pc) t b w (b.modThread t.warp t.lane fun th => { th with pc := pc, st := .running, wait := none, taken := [], waited := 0 })
      { w with threads := w.threads.modify t.lane fun th => { th with pc := pc, st := .running, wait := none, taken := [], waited := 0 } }
      { th with pc := pc, st := .running, wait := none, taken := [], waited := 0 } := Local.modThread h _

/-- Going on changes no register. -/
theorem rv_modThread (h : At s t b w th) (f : Thread → Thread) (hf : (f th).regs = th.regs) (hm : (f th).hmode = th.hmode) (r : VReg) :
    (s.modThread t f).rv t r = s.rv t r := by
  rw [(Local.modThread h f).at_.rv, h.rv]
  simp [hf, hm, Block.modThread]

theorem rv_countIssue (h : At s t b w th) (r : VReg) : (s.countIssue t).rv t r = s.rv t r := by
  rw [(Local.countIssue h).at_.rv, h.rv]
  have ht : (b.counted t.warp t.lane).traps = b.traps := by simp only [Block.counted]; rw [Block.urge_eq]; rfl
  simp [Thread.counted, Warp.counted, ht]

theorem pget_countIssue (h : At s t b w th) (p : PReg) : (s.countIssue t).pget t p = s.pget t p := by
  rw [(Local.countIssue h).at_.pget, h.pget]; rfl

/-! ### Short instructions -/

theorem counted_traps (b : Block) (w l : Nat) : (b.counted w l).traps = b.traps := by
  simp only [Block.counted]; rw [Block.urge_eq]; rfl

theorem At.counted (h : At s t b w th) : At (s.countIssue t) t (b.counted t.warp t.lane) (w.counted t.lane) th.counted := (Local.countIssue h).at_

/-- The block after an effect on it that is local, when the effect is a change of the thread alone. -/
theorem went_modThread (h : At s t b w th) (f : Thread → Thread) (pc : Dword) (hf : f th.counted = { th.counted with regs := (f th.counted).regs, pred := (f th.counted).pred }) :
    ∃ b' w' th', Went s (((s.countIssue t).modThread t f).adv t pc) t b w th pc b' w' th' ∧ th'.regs = (f th.counted).regs ∧ th'.pred = (f th.counted).pred ∧ b'.traps = b.traps := by
  have l1 := Local.countIssue h
  have l2 := Local.modThread l1.at_ f
  have l3 := Local.adv l2.at_ pc
  refine ⟨_, _, _, ⟨(l1.trans l2).trans l3, ?_, fun _ => counted_traps ..⟩, rfl, rfl, counted_traps ..⟩
  rw [hf]; rfl

/-- A register write and going on. -/
theorem went_wv (h : At s t b w th) (d : VReg) (v : Word) (pc : Dword) :
    ∃ b' w' th', Went s (((s.countIssue t).wv t d v).adv t pc) t b w th pc b' w' th' ∧ th'.pred = th.pred := by
  have l1 := Local.countIssue h
  have l2 := Local.wv l1.at_ d v
  have l3 := Local.adv l2.at_ pc
  refine ⟨_, _, _, ⟨(l1.trans l2).trans l3, ?_, fun hh => ?_⟩, ?_⟩
  · simp only [Thread.wrote]; split <;> rfl
  · have e := Block.vset_eq l1.at_.warp l1.at_.thread d v
    have : ∀ x : Block, (x.modThread t.warp t.lane fun th => { th with pc := pc, st := .running, wait := none, taken := [], waited := 0 }).traps = x.traps := fun _ => rfl
    rw [this, e]
    have hh2 : ¬ (th.counted.hmode = true ∧ d.toNat < 32) := by simp [Thread.counted, hh]
    rw [if_neg hh2]
    split
    · exact counted_traps ..
    · split <;> exact counted_traps ..
  · simp only [Thread.wrote]; split <;> rfl

theorem rv_adv (h : At s t b w th) (pc : Dword) (r : VReg) : (s.adv t pc).rv t r = s.rv t r := rv_modThread h _ rfl rfl r

/-- A short instruction that writes one register, issued alone: it completes with the value that its function gives (R84, R157). -/
theorem aluOp_alone {i : Instr} {h : Hdr} {d : VReg} {f : State → TRef → Word} (ha : Alone i s t b w th) (hg : s.guard t h = true) :
    ∃ s' b' w' th', aluOp i h d f s = .next s' ∧ Went s s' t b w th (th.pc + 8) b' w' th' ∧ th'.pred = th.pred ∧
      ∀ r, s'.rv t r = if d = r ∧ d ≠ 255#8 then f (s.countIssue t) t else s.rv t r := by
  have hc := ha.at_.counted
  obtain ⟨b', w', th', hw, hp⟩ := went_wv ha.at_ d (f (s.countIssue t) t) (th.pc + 8)
  refine ⟨_, b', w', th', ?_, hw, hp, fun r => ?_⟩
  · unfold aluOp
    rw [runGuarded_alone ha hg]
    simp only [effOver]
    rw [finishWatch_none hw.loc.at_]
    rw [hw.thread]
    show th.watch = none
    exact ready_watch ha.at_ ha.ready
  · have l2 := Local.wv hc d (f (s.countIssue t) t)
    rw [rv_adv l2.at_, rv_wv hc d r _ (mapped_of_nil ha.unbound d), rv_countIssue ha.at_]

/-! ### GoesOn, by the shape of the effect -/

/-- The k-th source, once the issue has counted, is the register as it was. -/
theorem src_counted {i : Instr} (ha : Alone i s t b w th) (k : Nat) (r : VReg) : (s.countIssue t).src t k r = s.rv t r := by
  rw [src_of_nil ha.at_.counted (by simpa [Thread.counted] using ha.unbound), rv_countIssue ha.at_]

/-- An instruction whose effect changes its thread's registers and predicates alone, and completes. -/
theorem goesOn_done {i : Instr} {h : Hdr} {eff : State → TRef → Eff} {s1 : State} {post : State → Thread → Prop} (hi : Issues i h s t b w th)
    (hx : exec i s = runGuarded i h eff s) (he : eff (s.countIssue t) t = .done s1)
    (hw : ∃ b' w' th', Went s (s1.adv t (th.pc + 8)) t b w th (th.pc + 8) b' w' th' ∧ post (s1.adv t (th.pc + 8)) th') :
    GoesOn i s t b w th (th.pc + 8) post := by
  obtain ⟨b', w', th', h1, h2⟩ := hw
  refine ⟨_, b', w', th', ?_, h1, h2⟩
  rw [hx, runGuarded_alone hi.toAlone hi.guard, he]
  simp only [effOver]
  rw [finishWatch_none h1.loc.at_]
  rw [h1.thread]
  show th.watch = none
  exact ready_watch hi.at_ hi.ready

/-- An instruction that writes one register. -/
theorem goesOn_wv {i : Instr} {h : Hdr} {d : VReg} {v : Word} {eff : State → TRef → Eff} {P : Word → Prop} (hi : Issues i h s t b w th)
    (hx : exec i s = runGuarded i h eff s) (he : eff (s.countIssue t) t = .done ((s.countIssue t).wv t d v)) (hp : P v) :
    GoesOn i s t b w th (th.pc + 8) fun s' th' =>
      (d ≠ 255#8 → P (s'.rv t d)) ∧ (∀ r, r ≠ d ∨ d = 255#8 → s'.rv t r = s.rv t r) ∧ th'.pred = th.pred := by
  refine goesOn_done hi hx he ?_
  obtain ⟨b', w', th', h1, h2⟩ := went_wv hi.at_ d v (th.pc + 8)
  have hr : ∀ r, (((s.countIssue t).wv t d v).adv t (th.pc + 8)).rv t r = if d = r ∧ d ≠ 255#8 then v else s.rv t r := by
    intro r
    rw [rv_adv (Local.wv hi.at_.counted d v).at_, rv_wv hi.at_.counted d r _ (mapped_of_nil hi.unbound d), rv_countIssue hi.at_]
  refine ⟨b', w', th', h1, fun hd => ?_, fun r h => ?_, h2⟩
  · rw [hr, if_pos ⟨rfl, hd⟩]; exact hp
  · rw [hr, if_neg]; grind

/-- An instruction that changes its thread's predicates alone. -/
theorem goesOn_pred {i : Instr} {h : Hdr} {f : Thread → Thread} {eff : State → TRef → Eff} {post : State → Thread → Prop} (hi : Issues i h s t b w th)
    (hx : exec i s = runGuarded i h eff s) (he : eff (s.countIssue t) t = .done ((s.countIssue t).modThread t f))
    (hf : f th.counted = { th.counted with pred := (f th.counted).pred })
    (hp : ∀ s' b' w' th', At s' t b' w' th' → (∀ r, s'.rv t r = s.rv t r) → th'.pred = (f th.counted).pred → post s' th') :
    GoesOn i s t b w th (th.pc + 8) post := by
  refine goesOn_done hi hx he ?_
  obtain ⟨b', w', th', h1, h2, h3, h4⟩ := went_modThread hi.at_ f (th.pc + 8) (by rw [hf])
  refine ⟨b', w', th', h1, hp _ _ _ _ h1.loc.at_ (fun r => ?_) h3⟩
  rw [rv_adv (Local.modThread hi.at_.counted f).at_, rv_modThread hi.at_.counted f (by rw [hf]) (by rw [hf]), rv_countIssue hi.at_]

end Sys2Proof.Machine
end

