-- ==== Sys2Proof/Laws/Memory.lean ====
section
/-! SUPPORT. What the operations on memory, caches and translation buffers leave unchanged: everything else. -/
namespace Sys2Proof.Machine

variable {s s' s'' : State} {t : TRef} {b b' : Block} {w w' : Warp} {th th' : Thread}

@[refl] theorem MemOnly.refl (s : State) : MemOnly s s := ⟨rfl, fun _ => rfl⟩
theorem MemOnly.trans (h1 : MemOnly s s') (h2 : MemOnly s' s'') : MemOnly s s'' :=
  ⟨by have := h1.rest; have := h2.rest; grind, fun c => by have := h1.core c; have := h2.core c; grind⟩

/-- Any change of those fields alone. -/
theorem memOnly_with (s : State) (m : Mem) (p : List Nat) (l : SMap L2Line) (o : List (Nat × L2Line × Bool)) (c : SMap (List Nat)) (h : SMap Byte)
    (q : SMap QuadSt) (t : SMap (List TlbEnt)) (e : SMap (List (Nat × Nat × Dword))) :
    MemOnly s { s with mem := m, poison := p, l2 := l, l2out := o, metaC := c, hostMem := h, quads := q, l2tlb := t, pteCache := e } := ⟨rfl, fun _ => rfl⟩
theorem memOnly_foldl {α : Type} (f : State → α → State) (hf : ∀ s a, MemOnly s (f s a)) : ∀ (l : List α) (s : State), MemOnly s (l.foldl f s)
  | [], _ => MemOnly.refl _
  | a :: l, s => (hf s a).trans (memOnly_foldl f hf l (f s a))

/-- Nothing changed but what the L2 knows of lines, metadata and host memory (R235, R309, R329). -/
structure L2Only (s s' : State) : Prop where
  rest : { s' with l2 := s.l2, l2out := s.l2out, metaC := s.metaC, hostMem := s.hostMem } = s
theorem L2Only.refl (s : State) : L2Only s s := ⟨rfl⟩
theorem L2Only.trans (h1 : L2Only s s') (h2 : L2Only s' s'') : L2Only s s'' := ⟨by have := h1.rest; have := h2.rest; grind⟩
theorem L2Only.memOnly (h : L2Only s s') : MemOnly s s' := by
  have e := h.rest
  refine ⟨by grind, fun c => ?_⟩
  have : s'.cores = s.cores := by grind
  unfold State.core; rw [this]
theorem L2Only.mem (h : L2Only s s') : s'.mem = s.mem := by have := h.rest; grind
theorem L2Only.cores (h : L2Only s s') : s'.cores = s.cores := by have := h.rest; grind
theorem L2Only.core (h : L2Only s s') (c : Nat) : s'.core c = s.core c := by unfold State.core; rw [h.cores]
theorem L2Only.poison (h : L2Only s s') : s'.poison = s.poison := by have := h.rest; grind
theorem L2Only.hasCw (h : L2Only s s') : s'.hasCw = s.hasCw := by unfold State.hasCw; rw [show s'.regs = s.regs by have := h.rest; grind]
theorem l2Only_l2Use (s : State) (ctx k lo n : Nat) (w : Bool) (attr : BitVec 10) : L2Only s (s.l2Use ctx k lo n w attr) := by
  unfold State.l2Use; split <;> exact ⟨rfl⟩
theorem l2Only_touchL2 (s : State) (ctx pa n : Nat) (w : Bool) (attr : BitVec 10) : L2Only s (s.touchL2 ctx pa n w attr) := by
  unfold State.touchL2
  generalize linesOf pa n = ls
  induction ls generalizing s with
  | nil => exact L2Only.refl _
  | cons k ls ih => exact (l2Only_l2Use ..).trans (ih _)
theorem l2Only_l2Last (s : State) (pa : Nat) : L2Only s (s.l2Last pa) := by unfold State.l2Last; split <;> exact ⟨rfl⟩
theorem l2Only_hinted (s : State) (pa : Nat) (h : Hint) : L2Only s (s.hinted pa h) := by
  unfold State.hinted; split
  · exact l2Only_l2Last ..
  · exact L2Only.refl _
theorem l2Only_hostKeep (s : State) (pa n : Nat) : L2Only s (s.hostKeep pa n) := ⟨rfl⟩

@[simp] theorem core_modCore (s : State) (c : Nat) (f : CoreSt → CoreSt) : (s.modCore c f).core c = f (s.core c) := by
  simp [State.modCore, State.core, SMap.get, SMap.get?_put]
theorem core_modCore_ne (s : State) (c d : Nat) (f : CoreSt → CoreSt) (h : c ≠ d) : (s.modCore c f).core d = s.core d := by
  simp [State.modCore, State.core, SMap.get, SMap.get?_put, h]
/-- A change of a core's caches alone. -/
theorem memOnly_modCore (s : State) (c : Nat) (f : CoreSt → CoreSt) (hf : ∀ x, { f x with l1 := x.l1, tlb := x.tlb, rcache := x.rcache } = x) :
    MemOnly s (s.modCore c f) := by
  refine ⟨rfl, fun d => ?_⟩
  by_cases h : c = d
  · subst h; rw [core_modCore]; exact hf _
  · rw [core_modCore_ne _ _ _ _ h]
theorem memOnly_modQuad (s : State) (q : Nat) (f : QuadSt → QuadSt) : MemOnly s (s.modQuad q f) := memOnly_with ..
theorem memOnly_touchL2 (s : State) (ctx pa n : Nat) (w : Bool) (attr : BitVec 10) : MemOnly s (s.touchL2 ctx pa n w attr) := (l2Only_touchL2 ..).memOnly
theorem memOnly_hinted (s : State) (pa : Nat) (h : Hint) : MemOnly s (s.hinted pa h) := (l2Only_hinted ..).memOnly
theorem memOnly_rawWrite (s : State) (pa v n : Nat) : MemOnly s (s.rawWrite pa v n) := memOnly_with ..
theorem memOnly_poisonMeta (s : State) (a : Nat) : MemOnly s (s.poisonMeta a) := memOnly_with ..

theorem memOnly_lineWrite (s : State) (ctx pa v n : Nat) : MemOnly s (s.lineWrite ctx pa v n) := by
  unfold State.lineWrite
  split
  · exact memOnly_rawWrite ..
  · split
    · exact memOnly_with ..
    · split
      · exact (memOnly_poisonMeta ..).trans (s' := s.poisonMeta _) (memOnly_with ..)
      · dsimp only; split
        · exact MemOnly.trans (s' := { s with mem := _ }) (memOnly_with ..) (memOnly_rawWrite ..)
        · exact memOnly_rawWrite ..

theorem memOnly_linesWrite (k : Nat) : ∀ (s : State) (ctx pa v n : Nat), MemOnly s (s.linesWrite ctx pa v n k) := by
  induction k with
  | zero => intro s ctx pa v n; rfl
  | succ k ih =>
    intro s ctx pa v n; simp only [State.linesWrite]; split
    · rfl
    · exact (memOnly_lineWrite ..).trans (ih ..)

/-- A write changes memory and the L2's knowledge alone. -/
theorem memOnly_pwrite (s : State) (ctx pa v n : Nat) (attr : BitVec 10) : MemOnly s (s.pwrite ctx pa v n attr) := by
  have h0 : ∀ b : Bool, MemOnly s (if b then s.hostKeep pa n else s) := fun b => by cases b; rfl; exact (l2Only_hostKeep ..).memOnly
  have h1 : ∀ s1 : State, MemOnly s1 (if s1.hasCw then s1.linesWrite ctx pa v n (n / 512 + 2) else s1.rawWrite pa v n) := fun s1 => by
    split
    · exact memOnly_linesWrite ..
    · exact memOnly_rawWrite ..
  unfold State.pwrite; dsimp only
  split
  · exact ((h0 _).trans (h1 _)).trans (memOnly_touchL2 ..)
  · exact (h0 _).trans (h1 _)

theorem memOnly_ueRead (s : State) (pa n : Nat) : MemOnly s (s.ueRead pa n) := by
  unfold State.ueRead; split
  · rfl
  · refine memOnly_foldl _ (fun s k => ?_) _ _
    split
    · split
      · exact memOnly_poisonMeta ..
      · rfl
    · rfl

/-! ### Translation -/

/-- Nothing changed but translation buffers (R249). -/
structure TlbOnly (s s' : State) : Prop where
  rest : { s' with cores := s.cores, quads := s.quads, l2tlb := s.l2tlb, pteCache := s.pteCache } = s
  core : ∀ c, { s'.core c with tlb := (s.core c).tlb } = s.core c

theorem TlbOnly.refl (s : State) : TlbOnly s s := ⟨rfl, fun _ => rfl⟩
theorem TlbOnly.trans (h1 : TlbOnly s s') (h2 : TlbOnly s' s'') : TlbOnly s s'' :=
  ⟨by have := h1.rest; have := h2.rest; grind, fun c => by have := h1.core c; have := h2.core c; grind⟩
theorem TlbOnly.memOnly (h : TlbOnly s s') : MemOnly s s' :=
  ⟨by have := h.rest; grind, fun c => by have := h.core c; grind⟩
theorem TlbOnly.mem (h : TlbOnly s s') : s'.mem = s.mem := by have := h.rest; grind
theorem TlbOnly.poison (h : TlbOnly s s') : s'.poison = s.poison := by have := h.rest; grind
theorem TlbOnly.l1 (h : TlbOnly s s') (c : Nat) : (s'.core c).l1 = (s.core c).l1 := by have := h.core c; grind

theorem tlbOnly_tlbAdd (s : State) (e : TlbEnt) (b : Tlb) : TlbOnly s (s.tlbAdd e b) := by
  cases b with
  | core c =>
    refine ⟨rfl, fun d => ?_⟩
    by_cases h : c = d
    · subst h; simp [State.tlbAdd]
    · simp [State.tlbAdd, core_modCore_ne _ _ _ _ h]
  | quad q => exact ⟨rfl, fun _ => rfl⟩
  | l2 k => exact ⟨rfl, fun _ => rfl⟩

theorem tlbOnly_pte (s : State) (e : SMap (List (Nat × Nat × Dword))) : TlbOnly s { s with pteCache := e } := ⟨rfl, fun _ => rfl⟩

theorem tlbOnly_pteAdd (s : State) (e : SMap (List (Nat × Nat × Dword))) (x : TlbEnt) (b : Tlb) : TlbOnly s (({ s with pteCache := e } : State).tlbAdd x b) :=
  (tlbOnly_pte s e).trans (tlbOnly_tlbAdd _ x b)

theorem tlbOnly_pageWalk (s : State) (q ctx va : Nat) : TlbOnly s (s.pageWalk q ctx va).1 := by
  unfold State.pageWalk; dsimp only
  split
  · exact TlbOnly.refl _
  · split
    · exact tlbOnly_pte ..
    · split
      · exact tlbOnly_pte ..
      · dsimp only; exact tlbOnly_pteAdd ..

/-- A translation changes translation buffers alone (R249). -/
theorem tlbOnly_translate (s : State) (b : Tlb) (ctx va : Nat) (k : Acc) : TlbOnly s (s.translate b ctx va k).1 := by
  unfold State.translate; dsimp only
  split
  · exact TlbOnly.refl _
  · split
    · exact TlbOnly.refl _
    · split
      · split
        · exact TlbOnly.refl _
        · exact tlbOnly_tlbAdd ..
      · have h := tlbOnly_pageWalk s b.quarter ctx va
        split
        · dsimp only; split
          · exact h
          · exact h.trans (tlbOnly_tlbAdd ..)
        · exact h

/-- A translation changes translation buffers alone (R249). -/
theorem memOnly_translate (s : State) (b : Tlb) (ctx va : Nat) (k : Acc) : MemOnly s (s.translate b ctx va k).1 := (tlbOnly_translate ..).memOnly

theorem memOnly_wbBytes (s : State) (l : L1Line) (m : BitVec 128) : MemOnly s (s.wbBytes l m) := by
  unfold State.wbBytes
  refine memOnly_foldl _ (fun s k => ?_) _ _
  split
  · exact memOnly_pwrite ..
  · rfl

theorem memOnly_l1Put (s : State) (c : Nat) (l : L1Line) : MemOnly s (s.l1Put c l) := by
  unfold State.l1Put; dsimp only
  split
  · exact memOnly_modCore _ _ _ fun _ => rfl
  · split
    · exact memOnly_modCore _ _ _ fun _ => rfl
    · exact (memOnly_wbBytes ..).trans (memOnly_modCore _ _ _ fun _ => rfl)

theorem memOnly_l1Drop (s : State) (c l : Nat) : MemOnly s (s.l1Drop c l) := memOnly_modCore _ _ _ fun _ => rfl
theorem memOnly_l1Upd (s : State) (c : Nat) (l : L1Line) : MemOnly s (s.l1Upd c l) := memOnly_modCore _ _ _ fun _ => rfl
theorem memOnly_l1Flush (s : State) (c : Nat) : MemOnly s (s.l1Flush c) := by
  unfold State.l1Flush
  exact (memOnly_foldl (fun s l => s.wbBytes l l.dirty) (fun _ _ => memOnly_wbBytes ..) _ _).trans (memOnly_modCore _ _ _ fun _ => rfl)
theorem memOnly_l1DropClean (s : State) (c : Nat) : MemOnly s (s.l1DropClean c) := memOnly_modCore _ _ _ fun _ => rfl
theorem memOnly_rcEmpty (s : State) (c ctx : Nat) : MemOnly s (s.rcEmpty c ctx) := memOnly_modCore _ _ _ fun _ => rfl
theorem memOnly_rcWrite (s : State) (c ctx va n : Nat) : MemOnly s (s.rcWrite c ctx va n) := by
  unfold State.rcWrite; split
  · rfl
  · exact memOnly_modCore _ _ _ fun _ => rfl
theorem memOnly_acquire (s : State) (c ctx : Nat) (sc : Scope) : MemOnly s (s.acquire c ctx sc) := by
  unfold State.acquire; split
  · rfl
  · exact ((memOnly_l1Flush ..).trans (memOnly_l1DropClean ..)).trans (memOnly_rcEmpty ..)
theorem memOnly_release (s : State) (c : Nat) (sc : Scope) : MemOnly s (s.release c sc) := by
  unfold State.release; split
  · rfl
  · exact memOnly_l1Flush ..
theorem memOnly_l1Fill (s : State) (c ctx pa : Nat) (attr : BitVec 10) : MemOnly s (s.l1Fill c ctx pa attr) := (memOnly_touchL2 ..).trans (memOnly_l1Put ..)
theorem memOnly_l1Load (s : State) (c ctx pa n : Nat) (h : Hint) (attr : BitVec 10) : MemOnly s (s.l1Load c ctx pa n h attr).1 := by
  unfold State.l1Load; dsimp only
  split
  · split
    · exact memOnly_ueRead ..
    · split
      · rfl
      · split
        · exact memOnly_l1Fill ..
        · exact (memOnly_touchL2 ..).trans (memOnly_hinted ..)
  · split
    · exact (memOnly_l1Put ..).trans (memOnly_hinted ..)
    · rfl
theorem memOnly_homeLoad (s : State) (ctx pa n : Nat) (h : Hint) (attr : BitVec 10) : MemOnly s (s.homeLoad ctx pa n h attr).1 := by
  unfold State.homeLoad; split
  · exact memOnly_ueRead ..
  · dsimp only; split
    · exact (memOnly_touchL2 ..).trans (memOnly_hinted ..)
    · rfl
theorem memOnly_l1Store (s : State) (c ctx pa n v : Nat) (h : Hint) (wb : Bool) (attr : BitVec 10) : MemOnly s (s.l1Store c ctx pa n v h wb attr) := by
  unfold State.l1Store; dsimp only
  split
  · exact memOnly_l1Put ..
  · refine MemOnly.trans ?_ (memOnly_hinted ..)
    split
    · exact memOnly_pwrite ..
    · exact (memOnly_l1Upd ..).trans (memOnly_pwrite ..)
theorem memOnly_l1Atomic (s : State) (c pa : Nat) : MemOnly s (s.l1Atomic c pa) := by
  unfold State.l1Atomic; split
  · rfl
  · exact (memOnly_wbBytes ..).trans (memOnly_l1Upd ..)
theorem memOnly_l1Home (s : State) (c pa n : Nat) : MemOnly s (s.l1Home c pa n) := by
  unfold State.l1Home; split
  · rfl
  · exact memOnly_foldl _ (fun _ _ => memOnly_l1Atomic ..) _ _

/-- The blocks stay. -/
theorem MemOnly.blocks (h : MemOnly s s') : s'.blocks = s.blocks := by have := h.rest; grind
theorem MemOnly.grids (h : MemOnly s s') : s'.grids = s.grids := by have := h.rest; grind
theorem MemOnly.regs (h : MemOnly s s') : s'.regs = s.regs := by have := h.rest; grind
theorem MemOnly.at_ {t : TRef} {b : Block} {w : Warp} {th : Thread} (h : MemOnly s s') (ha : At s t b w th) : At s' t b w th := by
  refine ⟨?_, ha.warp, ha.thread⟩
  have := ha.block
  unfold State.block? at *
  rw [h.blocks]; exact this

/-! ### What the device holds for a core, without compressible windows -/

theorem MemOnly.hasCw (h : MemOnly s s') : s'.hasCw = s.hasCw := by unfold State.hasCw; rw [h.regs]

/-- Without windows a write stores its bytes, heals the sectors it covers, and leaves the cores alone (R240). -/
theorem pwrite_plain (hc : s.hasCw = false) (ctx pa v n : Nat) (attr : BitVec 10) : L2Only (s.rawWrite pa v n) (s.pwrite ctx pa v n attr) := by
  have h0 : ∀ b : Bool, L2Only (s.rawWrite pa v n) ((if b then s.hostKeep pa n else s).rawWrite pa v n) := fun b => by cases b <;> exact ⟨rfl⟩
  have h1 : ∀ b : Bool, (if b then s.hostKeep pa n else s).hasCw = false := fun b => by cases b <;> exact hc
  unfold State.pwrite; dsimp only
  rw [h1]
  simp only [Bool.false_eq_true, if_false]
  split
  · exact (h0 _).trans (l2Only_touchL2 ..)
  · exact h0 _
theorem mem_pwrite (hc : s.hasCw = false) (ctx pa v n : Nat) (attr : BitVec 10) : (s.pwrite ctx pa v n attr).mem = Mem.writeN s.mem pa v n :=
  (pwrite_plain hc ..).mem
theorem cores_pwrite (hc : s.hasCw = false) (ctx pa v n : Nat) (attr : BitVec 10) : (s.pwrite ctx pa v n attr).cores = s.cores :=
  (pwrite_plain hc ..).cores

theorem wbBytes_go (l : L1Line) (m : BitVec 128) : ∀ (js : List Nat) (s : State), s.hasCw = false → (∀ j ∈ js, j < 128) →
    let s' := js.foldl (fun s j => if m.getLsbD j then s.pwrite l.ctx (128 * l.line + j) (l.byte j).toNat 1 l.attr else s) s
    s'.cores = s.cores ∧ s'.hasCw = false ∧ ∀ a, Mem.get s'.mem a = if a / 128 = l.line ∧ a % 128 ∈ js ∧ m.getLsbD (a % 128) = true then l.byte (a % 128) else Mem.get s.mem a
  | [], s, hc, _ => ⟨rfl, hc, fun a => by simp⟩
  | j :: js, s, hc, hj => by
    simp only [List.foldl_cons]
    have hj128 : j < 128 := hj j (by simp)
    by_cases hm : m.getLsbD j = true
    · simp only [hm, if_true]
      have hc' : (s.pwrite l.ctx (128 * l.line + j) (l.byte j).toNat 1 l.attr).hasCw = false := by rw [(memOnly_pwrite ..).hasCw]; exact hc
      obtain ⟨h1, h2, h3⟩ := wbBytes_go l m js _ hc' (fun k hk => hj k (by simp [hk]))
      refine ⟨h1.trans (cores_pwrite hc ..), h2, fun a => ?_⟩
      rw [h3 a, mem_pwrite hc]
      simp only [Mem.writeN, Mem.get_set, BitVec.ofNat_toNat, BitVec.setWidth_eq, List.mem_cons]
      by_cases ha : a / 128 = l.line
      · by_cases hk : a % 128 = j
        · have : 128 * l.line + j = a := by omega
          simp [ha, hk, this, hm]
        · have : ¬ 128 * l.line + j = a := by omega
          simp [ha, hk, this]
      · have : ¬ 128 * l.line + j = a := by omega
        simp [ha, this]
    · rw [if_neg hm]
      obtain ⟨h1, h2, h3⟩ := wbBytes_go l m js s hc (fun k hk => hj k (by simp [hk]))
      refine ⟨h1, h2, fun a => ?_⟩
      rw [h3 a]
      by_cases hk : a % 128 = j
      · simp [hk, hm]
      · simp [hk]

/-- Writing back some bytes of a line puts them in memory (R232). -/
theorem get_wbBytes (hc : s.hasCw = false) (l : L1Line) (m : BitVec 128) (a : Nat) :
    Mem.get (s.wbBytes l m).mem a = if a / 128 = l.line ∧ m.getLsbD (a % 128) = true then l.byte (a % 128) else Mem.get s.mem a := by
  obtain ⟨_, _, h⟩ := wbBytes_go l m (List.range 128) s hc (fun j hj => by simpa using hj)
  rw [State.wbBytes, h a]
  have : a % 128 < 128 := Nat.mod_lt _ (by decide)
  simp [this]
theorem cores_wbBytes (hc : s.hasCw = false) (l : L1Line) (m : BitVec 128) : (s.wbBytes l m).cores = s.cores :=
  (wbBytes_go l m (List.range 128) s hc (fun j hj => by simpa using hj)).1

theorem find_line {ls : List L1Line} (h : L1Once ls) {l : L1Line} (hl : l ∈ ls) : ls.find? (fun x => x.line == l.line) = some l := by
  induction ls with
  | nil => simp at hl
  | cons y ls ih =>
    unfold L1Once at h ih
    simp only [List.map_cons, List.nodup_cons, List.mem_map, not_exists, not_and] at h
    rw [List.find?_cons]
    rcases List.mem_cons.mp hl with rfl | hl'
    · simp
    · have : ¬ y.line = l.line := fun e => h.1 l hl' e.symm
      rw [show (y.line == l.line) = false by simpa using this]; exact ih h.2 hl'

theorem core_wbBytes (hc : s.hasCw = false) (l : L1Line) (m : BitVec 128) (c : Nat) : (s.wbBytes l m).core c = s.core c := by
  unfold State.core; rw [cores_wbBytes hc]

theorem L2Only.backed (h : L2Only s s') (c a : Nat) : s'.backed c a = s.backed c a := by
  unfold State.backed State.l1?; rw [h.core, h.mem]

/-- What is held for a core depends on its lines and on memory alone. -/
theorem backed_eq (s : State) (c a : Nat) : s.backed c a =
    match (s.core c).l1.find? (fun l => l.line == a / 128) with
    | some l => if l.dirty.getLsbD (a % 128) then l.byte (a % 128) else Mem.get s.mem a
    | none => Mem.get s.mem a := rfl

theorem find_filter_ne (ls : List L1Line) (k n : Nat) (h : n ≠ k) : (ls.filter fun x => x.line != k).find? (fun x => x.line == n) = ls.find? (fun x => x.line == n) := by
  induction ls with
  | nil => rfl
  | cons y ls ih => grind

theorem find_filter_eq (ls : List L1Line) (k : Nat) : (ls.filter fun x => x.line != k).find? (fun x => x.line == k) = none := by
  induction ls with
  | nil => rfl
  | cons y ls ih => grind

/-- Putting a line changes what is held in that line alone; a victim's dirty bytes go to memory (R230, R232). -/
theorem backed_l1Put (hc : s.hasCw = false) (c : Nat) (h1 : L1Once (s.core c).l1) (l : L1Line) (a : Nat) : (s.l1Put c l).backed c a =
    if a / 128 = l.line then (if l.dirty.getLsbD (a % 128) then l.byte (a % 128) else Mem.get s.mem a) else s.backed c a := by
  have hm : ∀ f : CoreSt → CoreSt, ∀ s : State, (s.modCore c f).mem = s.mem := fun _ _ => rfl
  have hput : ∀ (s0 : State), s0.mem = s.mem → (s0.modCore c fun x => { x with l1 := ((s.core c).l1.filter fun x => x.line != l.line) ++ [l] }).backed c a =
      if a / 128 = l.line then (if l.dirty.getLsbD (a % 128) then l.byte (a % 128) else Mem.get s.mem a) else s.backed c a := by
    intro s0 h0
    rw [backed_eq, backed_eq, core_modCore, hm, h0]
    simp only [List.find?_append]
    by_cases ha : a / 128 = l.line
    · rw [ha, find_filter_eq]; simp
    · rw [find_filter_ne _ _ _ ha]
      have : ¬ l.line = a / 128 := Ne.symm ha
      simp [this, ha]
  unfold State.l1Put; dsimp only
  split
  · exact hput s rfl
  · split
    · exact hput s rfl
    · next v hv =>
      have hvm : v ∈ (s.core c).l1.filter fun x => x.line != l.line := by
        have : v ∈ ((s.core c).l1.filter fun x => x.line != l.line).filter fun x => x.line % 256 == l.line % 256 := by
          generalize ((s.core c).l1.filter fun x => x.line != l.line).filter (fun x => x.line % 256 == l.line % 256) = ys at hv ⊢
          cases hf : ys.find? fun x => x.dirty == 0#128 with
          | some y => rw [hf] at hv; simp at hv; subst hv; exact List.mem_of_find?_eq_some hf
          | none => rw [hf] at hv; simp at hv; exact List.mem_of_mem_head? hv
        exact (List.mem_filter.mp this).1
      have hvl : v ∈ (s.core c).l1 ∧ v.line ≠ l.line := by simpa using hvm
      rw [backed_eq, core_modCore, hm, get_wbBytes hc, backed_eq]
      simp only [List.find?_append]
      by_cases ha : a / 128 = l.line
      · have h2 : ¬ l.line = v.line := Ne.symm hvl.2
        rw [ha, find_filter_ne _ _ _ h2, find_filter_eq]
        simp [h2]
      · by_cases hav : a / 128 = v.line
        · rw [hav, find_filter_eq]
          have : ¬ l.line = v.line := Ne.symm hvl.2
          simp [this, find_line h1 hvl.1, hvl.2]
        · rw [find_filter_ne _ _ _ hav, find_filter_ne _ _ _ ha]
          have : ¬ l.line = a / 128 := Ne.symm ha
          simp [this, ha, hav]

/-! ### Lines and their bytes -/

theorem setBits_testBit (d v a n k : Nat) : (d - (d >>> a % 2 ^ n) <<< a + (v % 2 ^ n) <<< a).testBit k =
    if a ≤ k ∧ k < a + n then v.testBit (k - a) else d.testBit k := by
  have hd : d = (d >>> (a + n)) * 2 ^ (a + n) + (d >>> a % 2 ^ n) * 2 ^ a + d % 2 ^ a := by
    rw [Nat.shiftRight_eq_div_pow, Nat.shiftRight_eq_div_pow]
    have h1 := Nat.div_add_mod d (2 ^ a)
    have h2 := Nat.div_add_mod (d / 2 ^ a) (2 ^ n)
    have h3 : d / 2 ^ (a + n) = d / 2 ^ a / 2 ^ n := by rw [Nat.div_div_eq_div_mul, Nat.pow_add]
    rw [h3, Nat.pow_add]
    generalize d / 2 ^ a / 2 ^ n = x at *
    generalize d / 2 ^ a % 2 ^ n = y at *
    rw [← h2] at h1
    have : x * (2 ^ a * 2 ^ n) = 2 ^ a * (2 ^ n * x) := by rw [Nat.mul_comm, Nat.mul_assoc]
    rw [Nat.mul_add] at h1
    rw [this, Nat.mul_comm y]; omega
  have he : d - (d >>> a % 2 ^ n) <<< a + (v % 2 ^ n) <<< a = 2 ^ a * (2 ^ n * (d >>> (a + n)) + v % 2 ^ n) + d % 2 ^ a := by
    rw [Nat.shiftLeft_eq, Nat.shiftLeft_eq, Nat.mul_add, ← Nat.mul_assoc, ← Nat.pow_add, Nat.mul_comm (2 ^ (a + n)), Nat.mul_comm (2 ^ a) (v % 2 ^ n)]
    omega
  rw [he, Nat.testBit_two_pow_mul_add _ (Nat.mod_lt _ (Nat.two_pow_pos a))]
  by_cases h1 : k < a
  · have : ¬ a ≤ k := by omega
    simp [h1, this]
  · simp only [h1, if_false]
    rw [Nat.testBit_two_pow_mul_add _ (Nat.mod_lt _ (Nat.two_pow_pos n))]
    by_cases h2 : k - a < n
    · have : a ≤ k ∧ k < a + n := by omega
      simp [h2, this]
    · have h3 : ¬ (a ≤ k ∧ k < a + n) := by omega
      simp only [h2, if_false, h3, Nat.testBit_shiftRight]
      congr 1; omega

theorem byte_eq_of_testBit (x y : Byte) (h : ∀ k, k < 8 → x.getLsbD k = y.getLsbD k) : x = y := BitVec.eq_of_getLsbD_eq h

/-- A byte of a line after n bytes from j are replaced. -/
theorem lineSet_byte (d : BitVec 1024) (j n v k : Nat) (hk : k < 128) :
    (lineSet d j n v).extractLsb' (8 * k) 8 = if j ≤ k ∧ k < j + n then BitVec.ofNat 8 (v >>> (8 * (k - j))) else d.extractLsb' (8 * k) 8 := by
  apply byte_eq_of_testBit
  intro i hi
  rw [BitVec.getLsbD_extractLsb']
  simp only [hi, decide_true, Bool.true_and, lineSet, BitVec.getLsbD_ofNat]
  have h1 : 8 * k + i < 1024 := by omega
  simp only [h1, decide_true, Bool.true_and]
  rw [setBits_testBit]
  by_cases h : j ≤ k ∧ k < j + n
  · have h2 : 8 * j ≤ 8 * k + i ∧ 8 * k + i < 8 * j + 8 * n := by omega
    rw [if_pos h2, if_pos h, BitVec.getLsbD_ofNat, Nat.testBit_shiftRight]
    simp only [hi, decide_true, Bool.true_and]
    congr 1; omega
  · have h2 : ¬ (8 * j ≤ 8 * k + i ∧ 8 * k + i < 8 * j + 8 * n) := by omega
    rw [if_neg h2, if_neg h, BitVec.getLsbD_extractLsb']
    simp [hi, BitVec.testBit_toNat]

theorem maskN_bit (j n k : Nat) (hk : k < 128) : (maskN j n).getLsbD k = decide (j ≤ k ∧ k < j + n) := by
  unfold maskN
  rw [BitVec.getLsbD_ofNat, Nat.testBit_shiftLeft]
  by_cases h : j ≤ k
  · simp [h, hk, Nat.testBit_two_pow_sub_one]; omega
  · simp [h]

theorem once_l1Put (c : Nat) (h1 : L1Once (s.core c).l1) (l : L1Line) : L1Once ((s.l1Put c l).core c).l1 := by
  have hf : ∀ (p : L1Line → Bool) ls, L1Once ls → L1Once (ls.filter p) := fun p ls h => List.Nodup.sublist (List.filter_sublist.map _) h
  have hr : L1Once ((s.core c).l1.filter fun x => x.line != l.line) := hf _ _ h1
  have ha : ∀ ls, L1Once ls → (∀ x ∈ ls, x.line ≠ l.line) → L1Once (ls ++ [l]) := by
    intro ls h2 h3
    unfold L1Once at *
    rw [List.map_append, List.nodup_append]
    exact ⟨h2, by simp, by simpa using h3⟩
  unfold State.l1Put; dsimp only
  split
  · rw [core_modCore]; exact ha _ hr (by simp)
  · split
    · rw [core_modCore]; exact ha _ hr (by simp)
    · rw [core_modCore]; exact ha _ (hf _ _ hr) (by simp)

/-- The held line of a store that passes L1 by: the stored bytes are no longer dirty (R231, R271). -/
theorem heldFold (j v : Nat) : ∀ (n : Nat) (l : L1Line),
    let x := (List.range n).foldl (fun (x : L1Line) i => if (x.valid ||| x.dirty).getLsbD (j + i) then { x with data := lineSet x.data (j + i) 1 (v >>> (8 * i)) } else x) l
    x.line = l.line ∧ x.dirty = l.dirty ∧ x.valid = l.valid ∧ x.ctx = l.ctx ∧ ∀ k, k < 128 → ¬ (j ≤ k ∧ k < j + n) → x.byte k = l.byte k := by
  intro n
  induction n with
  | zero => intro l; simp
  | succ n ih =>
    intro l
    obtain ⟨h1, h2, h3, h4, h5⟩ := ih l
    rw [List.range_succ, List.foldl_append]
    simp only [List.foldl_cons, List.foldl_nil]
    split
    · refine ⟨h1, h2, h3, h4, fun k hk hn => ?_⟩
      show (lineSet _ (j + n) 1 _).extractLsb' (8 * k) 8 = _
      rw [lineSet_byte _ _ _ _ _ hk, if_neg (by omega)]
      exact h5 k hk (by omega)
    · exact ⟨h1, h2, h3, h4, fun k hk hn => h5 k hk (by omega)⟩

theorem backed_pwrite (hc : s.hasCw = false) (ctx pa v n : Nat) (attr : BitVec 10) (c a : Nat) : (s.pwrite ctx pa v n attr).backed c a =
    match (s.core c).l1.find? (fun l => l.line == a / 128) with
    | some l => if l.dirty.getLsbD (a % 128) then l.byte (a % 128) else Mem.get (Mem.writeN s.mem pa v n) a
    | none => Mem.get (Mem.writeN s.mem pa v n) a := by
  rw [backed_eq, mem_pwrite hc]
  have : (s.pwrite ctx pa v n attr).core c = s.core c := by unfold State.core; rw [cores_pwrite hc]
  rw [this]

theorem find_map_upd (ls : List L1Line) (l : L1Line) (k n : Nat) (hk : l.line = k) : (ls.map fun y => if y.line == k then l else y).find? (fun x => x.line == n) =
    if n = k ∧ (ls.find? fun x => x.line == n).isSome then some l else ls.find? (fun x => x.line == n) := by
  induction ls with
  | nil => simp
  | cons y ls ih => grind

/-- A store gives its bytes to what the device holds for its core, and changes no other byte (R231, R232, R271). -/
theorem backed_l1Store (hc : s.hasCw = false) (c : Nat) (h1 : L1Once (s.core c).l1) (ctx pa n v : Nat) (h : Hint) (wb : Bool) (attr : BitVec 10)
    (hfit : pa % 128 + n ≤ 128) (a : Nat) :
    (s.l1Store c ctx pa n v h wb attr).backed c a = if pa ≤ a ∧ a < pa + n then BitVec.ofNat 8 (v >>> (8 * (a - pa))) else s.backed c a := by
  have ham : a % 128 < 128 := Nat.mod_lt _ (by decide)
  have hin : (pa ≤ a ∧ a < pa + n) ↔ (a / 128 = pa / 128 ∧ pa % 128 ≤ a % 128 ∧ a % 128 < pa % 128 + n) := by omega
  unfold State.l1Store; dsimp only
  split
  · -- into L1
    rw [backed_l1Put hc c h1]
    generalize hl : (s.l1? c pa).getD ⟨pa / 128, 0, 0, 0, ctx, attr⟩ = l
    have hll : l.line = pa / 128 := by
      rw [← hl]; cases hf : s.l1? c pa with
      | none => rfl
      | some y => unfold State.l1? at hf; have := List.find?_some hf; simpa using this
    simp only [hll]
    by_cases hq : a / 128 = pa / 128
    · simp only [hq, if_true, BitVec.getLsbD_or, maskN_bit _ _ _ ham]
      have hb : L1Line.byte { line := pa / 128, data := lineSet l.data (pa % 128) n v, valid := l.valid, dirty := l.dirty ||| maskN (pa % 128) n, ctx := l.ctx, attr := l.attr } (a % 128) =
          if pa % 128 ≤ a % 128 ∧ a % 128 < pa % 128 + n then BitVec.ofNat 8 (v >>> (8 * (a % 128 - pa % 128))) else l.byte (a % 128) := lineSet_byte _ _ _ _ _ ham
      simp only [hb]
      by_cases hr : pa % 128 ≤ a % 128 ∧ a % 128 < pa % 128 + n
      · have := hin.mpr ⟨hq, hr⟩
        have e : a - pa = a % 128 - pa % 128 := by omega
        simp [hr, this, e]
      · have hn : ¬ (pa ≤ a ∧ a < pa + n) := fun x => hr (hin.mp x).2
        simp only [hr, decide_false, Bool.or_false, hn, if_false]
        rw [backed_eq]
        unfold State.l1? at hl
        rw [hq]
        cases hf : (s.core c).l1.find? fun x => x.line == pa / 128 with
        | none => rw [hf] at hl; simp at hl; subst hl; simp
        | some y => rw [hf] at hl; simp at hl; subst hl; rfl
    · have hn : ¬ (pa ≤ a ∧ a < pa + n) := fun x => hq (hin.mp x).1
      simp [hq, hn]
  · -- past L1
    rw [(l2Only_hinted ..).backed]
    have hw : Mem.get (Mem.writeN s.mem pa v n) a = if pa ≤ a ∧ a < pa + n then BitVec.ofNat 8 (v >>> (8 * (a - pa))) else Mem.get s.mem a := by
      split
      · next hr =>
        have := Mem.get_writeN s.mem pa v n (a - pa) (by omega)
        rw [show pa + (a - pa) = a by omega] at this
        rw [this, Nat.shiftRight_eq_div_pow, show (256 : Nat) = 2 ^ 8 from rfl, ← Nat.pow_mul]
      · exact Mem.get_writeN_other _ _ _ _ _ (by omega)
    split
    · next hnone =>
      rw [backed_pwrite hc, backed_eq, hw]
      unfold State.l1? at hnone
      by_cases hr : pa ≤ a ∧ a < pa + n
      · rw [(hin.mp hr).1, hnone]
      · simp only [hr, if_false]
    · next l hsome =>
      obtain ⟨e1, e2, e3, e4, e5⟩ := heldFold (pa % 128) v n l
      revert e1 e2 e3 e4 e5
      generalize (List.range n).foldl (fun (x : L1Line) i => if (x.valid ||| x.dirty).getLsbD (pa % 128 + i) then { x with data := lineSet x.data (pa % 128 + i) 1 (v >>> (8 * i)) } else x) l = x
      intro e1 e2 e3 e4 e5
      have hl : l.line = pa / 128 := by unfold State.l1? at hsome; have := List.find?_some hsome; simpa using this
      have hc2 : ∀ l', (s.l1Upd c l').hasCw = false := fun l' => hc
      have hm2 : ∀ l', (s.l1Upd c l').mem = s.mem := fun l' => rfl
      rw [backed_pwrite (hc2 _), hm2, hw]
      simp only [State.l1Upd, core_modCore, e1, e2, e3, hl]
      rw [find_map_upd _ _ (pa / 128) _ (by rfl)]
      by_cases hq : a / 128 = pa / 128
      · unfold State.l1? at hsome
        simp only [hq, hsome, Option.isSome_some, and_self, if_true]
        rw [backed_eq, hq, hsome]
        simp only [BitVec.getLsbD_and, BitVec.getLsbD_not, ham, decide_true, Bool.true_and, maskN_bit _ _ _ ham]
        by_cases hr : pa % 128 ≤ a % 128 ∧ a % 128 < pa % 128 + n
        · have := hin.mpr ⟨hq, hr⟩
          simp [hr, this]
        · have hn : ¬ (pa ≤ a ∧ a < pa + n) := fun x => hr (hin.mp x).2
          simp only [hr, decide_false, Bool.not_false, Bool.and_true, hn, if_false]
          have := e5 (a % 128) ham hr
          unfold L1Line.byte at *
          simp only [this]
      · have hn : ¬ (pa ≤ a ∧ a < pa + n) := fun x => hq (hin.mp x).1
        simp only [hq, false_and, if_false, hn]
        rw [backed_eq]

theorem flush_go : ∀ (ls : List L1Line) (s : State), s.hasCw = false → L1Once ls →
    let s' := ls.foldl (fun s l => s.wbBytes l l.dirty) s
    s'.cores = s.cores ∧ s'.hasCw = false ∧ ∀ a, Mem.get s'.mem a = match ls.find? (fun l => l.line == a / 128) with
      | some l => if l.dirty.getLsbD (a % 128) then l.byte (a % 128) else Mem.get s.mem a
      | none => Mem.get s.mem a
  | [], s, hc, _ => ⟨rfl, hc, fun a => rfl⟩
  | y :: ls, s, hc, h1 => by
    simp only [List.foldl_cons]
    have hc' : (s.wbBytes y y.dirty).hasCw = false := by rw [(memOnly_wbBytes ..).hasCw]; exact hc
    have h1' : (∀ x ∈ ls, ¬ x.line = y.line) ∧ L1Once ls := by simpa [L1Once] using h1
    obtain ⟨e1, e2, e3⟩ := flush_go ls _ hc' h1'.2
    refine ⟨e1.trans (cores_wbBytes hc ..), e2, fun a => ?_⟩
    rw [e3 a, get_wbBytes hc, List.find?_cons]
    by_cases hy : y.line = a / 128
    · have hn : ls.find? (fun l => l.line == a / 128) = none := by
        rw [List.find?_eq_none]; intro x hx; simpa [← hy] using h1'.1 x hx
      rw [hn]; simp [hy]
    · have : ¬ a / 128 = y.line := Ne.symm hy
      rw [show (y.line == a / 128) = false by simpa using hy]
      simp [this]

theorem l1Flush_lines (hc : s.hasCw = false) (c : Nat) (h1 : L1Once (s.core c).l1) :
    ((s.l1Flush c).core c).l1 = (s.core c).l1.map fun l => { l with valid := l.valid ||| l.dirty, dirty := 0#128 } := by
  obtain ⟨e1, _, _⟩ := flush_go _ s hc h1
  unfold State.l1Flush
  rw [core_modCore]
  unfold State.core at *
  simp only [e1]

/-- Writing back dirty bytes changes nothing that the device holds for a core (R232). -/
theorem backed_l1Flush (hc : s.hasCw = false) (c : Nat) (h1 : L1Once (s.core c).l1) (a : Nat) : (s.l1Flush c).backed c a = s.backed c a := by
  obtain ⟨e1, _, e3⟩ := flush_go _ s hc h1
  have hm : (s.l1Flush c).mem = ((s.core c).l1.foldl (fun s l => s.wbBytes l l.dirty) s).mem := rfl
  rw [backed_eq, backed_eq, l1Flush_lines hc c h1, hm, e3]
  rw [List.find?_map]
  have : ((fun (l : L1Line) => l.line == a / 128) ∘ fun (l : L1Line) => { l with valid := l.valid ||| l.dirty, dirty := 0#128 }) = fun (l : L1Line) => l.line == a / 128 := rfl
  rw [this]
  cases (s.core c).l1.find? fun l => l.line == a / 128 <;> simp

theorem once_l1Flush (hc : s.hasCw = false) (c : Nat) (h1 : L1Once (s.core c).l1) : L1Once ((s.l1Flush c).core c).l1 := by
  rw [l1Flush_lines hc c h1]; simpa [L1Once, Function.comp_def] using h1

theorem backed_l1DropClean (c : Nat) (h1 : L1Once (s.core c).l1) (a : Nat) : (s.l1DropClean c).backed c a = s.backed c a := by
  have hm : (s.l1DropClean c).mem = s.mem := rfl
  have hl : ((s.l1DropClean c).core c).l1 = (s.core c).l1.filter fun l => l.dirty != 0#128 := by simp [State.l1DropClean]
  rw [backed_eq, backed_eq, hm, hl]
  generalize (s.core c).l1 = ls at h1
  induction ls with
  | nil => rfl
  | cons y ls ih =>
    have h1' : (∀ x ∈ ls, ¬ x.line = y.line) ∧ L1Once ls := by simpa [L1Once] using h1
    have ih := ih h1'.2
    by_cases hy : y.line = a / 128
    · have hn : ∀ p : L1Line → Bool, (ls.filter p).find? (fun l => l.line == a / 128) = none := by
        intro p; rw [List.find?_eq_none]; intro x hx; simpa [← hy] using h1'.1 x (List.mem_filter.mp hx).1
      by_cases hd : y.dirty = 0#128
      · simp [hd, hn, hy]
      · simp [hd, hy]
    · by_cases hd : y.dirty = 0#128
      · simpa [hd, hy] using ih
      · simpa [hd, hy] using ih

theorem once_filter {ls : List L1Line} (h : L1Once ls) (p : L1Line → Bool) : L1Once (ls.filter p) := List.Nodup.sublist (List.filter_sublist.map _) h

theorem once_l1DropClean (c : Nat) (h1 : L1Once (s.core c).l1) : L1Once ((s.l1DropClean c).core c).l1 := by
  simpa [State.l1DropClean] using once_filter h1 _

/-- An acquire changes nothing that the device holds for its core (R231, R232). -/
theorem backed_acquire (hc : s.hasCw = false) (c : Nat) (h1 : L1Once (s.core c).l1) (ctx : Nat) (sc : Scope) (a : Nat) :
    (s.acquire c ctx sc).backed c a = s.backed c a := by
  have hr : ∀ s : State, (s.rcEmpty c ctx).backed c a = s.backed c a := by
    intro s; rw [backed_eq, backed_eq]; simp [State.rcEmpty]
  unfold State.acquire
  split
  · rfl
  · rw [hr, backed_l1DropClean c (once_l1Flush hc c h1), backed_l1Flush hc c h1]
/-- A release changes nothing that the device holds for its core (R231, R232). -/
theorem backed_release (hc : s.hasCw = false) (c : Nat) (h1 : L1Once (s.core c).l1) (sc : Scope) (a : Nat) :
    (s.release c sc).backed c a = s.backed c a := by
  unfold State.release; split
  · rfl
  · exact backed_l1Flush hc c h1 a
theorem once_release (hc : s.hasCw = false) (c : Nat) (h1 : L1Once (s.core c).l1) (sc : Scope) : L1Once ((s.release c sc).core c).l1 := by
  unfold State.release; split
  · exact h1
  · exact once_l1Flush hc c h1
theorem once_acquire (hc : s.hasCw = false) (c : Nat) (h1 : L1Once (s.core c).l1) (ctx : Nat) (sc : Scope) : L1Once ((s.acquire c ctx sc).core c).l1 := by
  have hr : ∀ s : State, ((s.rcEmpty c ctx).core c).l1 = (s.core c).l1 := by intro s; simp [State.rcEmpty]
  unfold State.acquire
  split
  · exact h1
  · rw [hr]; exact once_l1DropClean c (once_l1Flush hc c h1)
theorem backed_rcWrite (c ctx va n a : Nat) : (s.rcWrite c ctx va n).backed c a = s.backed c a := by
  unfold State.rcWrite; split
  · rfl
  · rw [backed_eq, backed_eq]; simp

theorem leNat_byte : ∀ (bs : List Byte) (i : Nat), i < bs.length → BitVec.ofNat 8 (leNat bs >>> (8 * i)) = bs.getD i 0#8
  | b :: bs, 0, _ => by
    simp only [leNat, Nat.mul_zero, Nat.shiftRight_zero, List.getD_cons_zero]
    apply BitVec.eq_of_toNat_eq; simp [BitVec.toNat_ofNat, Nat.add_mul_mod_self_left]; exact b.isLt
  | b :: bs, i + 1, h => by
    have e : leNat (b :: bs) >>> (8 * (i + 1)) = leNat bs >>> (8 * i) := by
      simp only [leNat, Nat.shiftRight_eq_div_pow]
      rw [show 2 ^ (8 * (i + 1)) = 256 * 2 ^ (8 * i) by rw [Nat.mul_succ, Nat.pow_add]; omega, ← Nat.div_div_eq_div_mul,
        Nat.add_mul_div_left _ _ (by decide), Nat.div_eq_of_lt b.isLt, Nat.zero_add]
    rw [e, leNat_byte bs i (by simpa using h)]; simp

/-- A dirty byte stays above what memory gives (R232). -/
theorem under_dirty (c pa n i : Nat) (l : L1Line) (hl : s.l1? c pa = some l) (hi : i < n) (hd : l.dirty.getLsbD ((pa + i) % 128) = true) :
    BitVec.ofNat 8 (s.under c pa n >>> (8 * i)) = l.byte ((pa + i) % 128) := by
  unfold State.under
  rw [hl]
  simp only
  rw [leNat_byte _ _ (by simpa using hi)]
  simp [hi, hd]

/-- A fill changes nothing that the device holds for its core (R230, R232). -/
theorem backed_l1Fill (hc : s.hasCw = false) (c ctx pa : Nat) (attr : BitVec 10) (h1 : L1Once (s.core c).l1) (a : Nat) :
    (s.l1Fill c ctx pa attr).backed c a = s.backed c a := by
  have ham : a % 128 < 128 := Nat.mod_lt _ (by decide)
  unfold State.l1Fill; dsimp only
  have hb : pa / 32 * 32 / 128 = pa / 128 := by omega
  have hs : s.l1? c (pa / 32 * 32) = s.l1? c pa := by unfold State.l1?; rw [hb]
  have ht := l2Only_touchL2 s ctx (pa / 32 * 32) 32 false attr
  rw [backed_l1Put (by rw [ht.hasCw]; exact hc) c (by rw [ht.core]; exact h1), ht.backed, ht.mem]
  generalize hl : (s.l1? c pa).getD ⟨pa / 128, 0, 0, 0, ctx, attr⟩ = l
  have hll : l.line = pa / 128 := by
    rw [← hl]; cases hf : s.l1? c pa with
    | none => rfl
    | some y => unfold State.l1? at hf; have := List.find?_some hf; simpa using this
  simp only [hll]
  by_cases hq : a / 128 = pa / 128
  · rw [if_pos hq]
    have hby : L1Line.byte { line := pa / 128, data := lineSet l.data (pa / 32 * 32 % 128) 32 (s.under c (pa / 32 * 32) 32), valid := l.valid ||| maskN (pa / 32 * 32 % 128) 32, dirty := l.dirty, ctx := l.ctx, attr := l.attr } (a % 128) =
        (lineSet l.data (pa / 32 * 32 % 128) 32 (s.under c (pa / 32 * 32) 32)).extractLsb' (8 * (a % 128)) 8 := rfl
    rw [backed_eq, hq]
    unfold State.l1? at hl
    cases hf : (s.core c).l1.find? fun x => x.line == pa / 128 with
    | none => rw [hf] at hl; simp at hl; subst hl; simp
    | some y =>
      rw [hf] at hl; simp at hl; subst hl
      simp only
      split
      · next hd =>
        have hd' : y.dirty.getLsbD (a % 128) = true := hd
        rw [hby, lineSet_byte _ _ _ _ _ ham]
        split
        · next hr =>
          have hi : a % 128 - pa / 32 * 32 % 128 < 32 := by omega
          have hx : (pa / 32 * 32 + (a % 128 - pa / 32 * 32 % 128)) % 128 = a % 128 := by omega
          have := under_dirty c (pa / 32 * 32) 32 (a % 128 - pa / 32 * 32 % 128) y (by rw [hs]; exact hf) hi (by rw [hx]; exact hd')
          rw [this, hx]
        · rfl
      · rfl
  · rw [if_neg hq]

theorem once_l1Fill (c ctx pa : Nat) (attr : BitVec 10) (h1 : L1Once (s.core c).l1) : L1Once ((s.l1Fill c ctx pa attr).core c).l1 := by
  unfold State.l1Fill; dsimp only
  exact once_l1Put c (by rw [(l2Only_touchL2 ..).core]; exact h1) _

/-- A load changes nothing that the device holds for its core. -/
theorem backed_l1Load (hc : s.hasCw = false) (c ctx pa n : Nat) (h : Hint) (attr : BitVec 10) (h1 : L1Once (s.core c).l1) (a : Nat) :
    (s.l1Load c ctx pa n h attr).1.backed c a = s.backed c a := by
  unfold State.l1Load; dsimp only
  split
  · split
    · unfold State.ueRead; rw [hc]; rfl
    · split
      · rfl
      · split
        · exact backed_l1Fill hc c ctx pa attr h1 a
        · dsimp only; rw [(l2Only_hinted ..).backed, (l2Only_touchL2 ..).backed]
  · split
    · next l hl =>
      dsimp only
      rw [(l2Only_hinted ..).backed, backed_l1Put hc c h1]
      unfold State.l1? at hl
      have hll : l.line = pa / 128 := by have := List.find?_some hl; simpa using this
      split
      · next hq =>
        rw [backed_eq, hq, hll, hl]
      · rfl
    · rfl
/-- A load at the home slice changes nothing that the device holds for a core. -/
theorem backed_homeLoad (hc : s.hasCw = false) (ctx pa n : Nat) (h : Hint) (attr : BitVec 10) (c a : Nat) :
    (s.homeLoad ctx pa n h attr).1.backed c a = s.backed c a := by
  unfold State.homeLoad; split
  · unfold State.ueRead; rw [hc]; rfl
  · dsimp only; split
    · rw [(l2Only_hinted ..).backed, (l2Only_touchL2 ..).backed]
    · rfl

/-- An atomic's clearing of its sectors in L1 changes nothing that the device holds for its core (R230). -/
theorem backed_l1Atomic (hc : s.hasCw = false) (c pa : Nat) (a : Nat) : (s.l1Atomic c pa).backed c a = s.backed c a := by
  have ham : a % 128 < 128 := Nat.mod_lt _ (by decide)
  unfold State.l1Atomic
  split
  · rfl
  · next l hl =>
    dsimp only
    have hll : l.line = pa / 128 := by unfold State.l1? at hl; have := List.find?_some hl; simpa using this
    have hcore : ∀ m, (s.wbBytes l m).core c = s.core c := fun m => core_wbBytes hc l m c
    rw [backed_eq]
    simp only [State.l1Upd, core_modCore, hcore]
    rw [find_map_upd _ _ l.line _ (by rfl)]
    have hm : ∀ f, ((s.wbBytes l (l.dirty &&& maskN (pa / 32 * 32 % 128) 32)).modCore c f).mem = (s.wbBytes l (l.dirty &&& maskN (pa / 32 * 32 % 128) 32)).mem := fun _ => rfl
    rw [hm, get_wbBytes hc, backed_eq]
    unfold State.l1? at hl
    by_cases hq : a / 128 = pa / 128
    · rw [hq, hll, hl]
      simp only [Option.isSome_some, and_self, if_true, BitVec.getLsbD_and, BitVec.getLsbD_not, ham, decide_true, Bool.true_and, true_and]
      have hbyte : L1Line.byte { line := l.line, data := l.data, valid := l.valid &&& ~~~maskN (pa / 32 * 32 % 128) 32, dirty := l.dirty &&& ~~~maskN (pa / 32 * 32 % 128) 32, ctx := l.ctx, attr := l.attr } (a % 128) = l.byte (a % 128) := rfl
      cases l.dirty.getLsbD (a % 128) <;> cases (maskN (pa / 32 * 32 % 128) 32).getLsbD (a % 128) <;> simp [L1Line.byte]
    · have : ¬ a / 128 = l.line := by rw [hll]; exact hq
      simp [this]

theorem once_l1Upd (c : Nat) (h1 : L1Once (s.core c).l1) (l : L1Line) : L1Once ((s.l1Upd c l).core c).l1 := by
  simp only [State.l1Upd, core_modCore, L1Once, List.map_map]
  have : (L1Line.line ∘ fun (y : L1Line) => if y.line == l.line then l else y) = L1Line.line := by
    funext y; simp only [Function.comp]; split
    · next h => simpa using (by simpa using h : y.line = l.line).symm
    · rfl
  rw [this]; exact h1
theorem once_l1Atomic (hc : s.hasCw = false) (c pa : Nat) (h1 : L1Once (s.core c).l1) : L1Once ((s.l1Atomic c pa).core c).l1 := by
  unfold State.l1Atomic
  split
  · exact h1
  · exact once_l1Upd c (by rw [core_wbBytes hc]; exact h1) _
/-- Clearing the L1 before an access at the home slice changes nothing that the device holds for its core (R230, R318). -/
theorem l1Home_plain (hc : s.hasCw = false) (c pa n : Nat) (h1 : L1Once (s.core c).l1) :
    L1Once ((s.l1Home c pa n).core c).l1 ∧ ∀ a, (s.l1Home c pa n).backed c a = s.backed c a := by
  unfold State.l1Home
  split
  · exact ⟨h1, fun _ => rfl⟩
  · next hne =>
    clear hne
    generalize List.range _ = ks
    induction ks generalizing s with
    | nil => exact ⟨h1, fun _ => rfl⟩
    | cons k ks ih =>
      have := ih (s := s.l1Atomic c (pa + 32 * k)) (by rw [(memOnly_l1Atomic ..).hasCw]; exact hc) (once_l1Atomic hc c _ h1)
      exact ⟨this.1, fun a => (this.2 a).trans (backed_l1Atomic hc c _ a)⟩

/-! ### Translation and the blocks -/

theorem TlbOnly.backed (h : TlbOnly s s') (c a : Nat) : s'.backed c a = s.backed c a := by rw [backed_eq, backed_eq, h.l1, h.mem]

theorem tlbAdd_blocks (s : State) (B : List Block) (e : TlbEnt) (b : Tlb) : ({ s with blocks := B } : State).tlbAdd e b = { s.tlbAdd e b with blocks := B } := by
  cases b <;> rfl

theorem pageWalk_blocks (s : State) (B : List Block) (q ctx va : Nat) :
    ({ s with blocks := B } : State).pageWalk q ctx va = ({ (s.pageWalk q ctx va).1 with blocks := B }, (s.pageWalk q ctx va).2) := by
  unfold State.pageWalk; dsimp only
  have e1 : ∀ a, ({ s with blocks := B } : State).pread a 8 = s.pread a 8 := fun _ => rfl
  have e2 : ({ s with blocks := B } : State).allotted ctx = s.allotted ctx := rfl
  have e3 : ∀ a, ({ s with blocks := B } : State).regN a = s.regN a := fun _ => rfl
  simp only [e1, e2, e3]
  split
  · rfl
  · split
    · rfl
    · split <;> rfl

/-- A translation does not look at the blocks. -/
theorem translate_blocks (s : State) (B : List Block) (b : Tlb) (ctx va : Nat) (k : Acc) :
    ({ s with blocks := B } : State).translate b ctx va k = ({ (s.translate b ctx va k).1 with blocks := B }, (s.translate b ctx va k).2) := by
  unfold State.translate; dsimp only
  have e1 : ∀ b, ({ s with blocks := B } : State).tlb b = s.tlb b := fun b => by cases b <;> rfl
  simp only [e1, pageWalk_blocks]
  split
  · rfl
  · split
    · rfl
    · split
      · cases b <;> rfl
      · split
        · cases b <;> rfl
        · rfl

theorem ctxOf_counted (h : At s t b w th) : (s.countIssue t).ctxOf t = b.ctx := by
  have := h.counted.block
  unfold State.ctxOf; rw [this]
  simp only [Block.counted]; rw [Block.urge_eq]; rfl

/-- A mapped address passes its checks when its instruction issues (R266). -/
theorem vaCheck_maps (h : At s t b w th) {va n : Nat} {k : Acc} {pa : Nat} {attr : BitVec 10} (hm : Maps s t va n k pa attr) (pc : Dword) (kind : Nat) :
    ∃ s1, (s.countIssue t).vaCheck t pc va n k kind = .ok s1 pa attr ∧ TlbOnly (s.countIssue t) s1 := by
  have hctx : s.ctxOf t = b.ctx := h.ctxOf
  have ht := tlbOnly_translate (s.countIssue t) (.core t.core) b.ctx va k
  have hp := hm.page
  rw [hctx] at hp
  have e : (s.countIssue t).translate (.core t.core) b.ctx va k =
    ({ (s.translate (.core t.core) b.ctx va k).1 with blocks := (s.countIssue t).blocks }, (s.translate (.core t.core) b.ctx va k).2) :=
    translate_blocks s _ _ _ _ _
  refine ⟨((s.countIssue t).translate (.core t.core) b.ctx va k).1, ?_, ht⟩
  unfold State.vaCheck
  rw [hm.canonical, ctxOf_counted h]
  simp only [Bool.not_true, Bool.false_eq_true, if_false, hm.aligned, bne_self_eq_false]
  rw [e, hp]

/-- A change of a thread after changes of memory is a change of memory after a change of the thread. -/
theorem memOnly_modThread (h : MemOnly s s') (t : TRef) (f : Thread → Thread) : MemOnly (s.modThread t f) (s'.modThread t f) := by
  have hb := h.blocks
  have hr := h.rest
  refine ⟨?_, fun c => h.core c⟩
  unfold State.modThread State.modBlock
  rw [hb]
  grind

theorem finishWatch_went (h : At s t b w th) (hw : th.watch = none) : s.finishWatch t = s := finishWatch_none h hw

/-- A long-latency instruction whose effect changes memory alone and gives its thread pending destinations. -/
theorem goesOnLong_done {i : Instr} {h : Hdr} {eff : State → TRef → Eff} {s2 : State} {f : Thread → Thread} {new : List Pend} {post : State → Prop}
    (hi : Issues i h s t b w th) (hx : exec i s = runGuarded i h eff s) (he : eff (s.countIssue t) t = .done (s2.modThread t f))
    (hm : MemOnly (s.countIssue t) s2) (hf : f th.counted = { th.counted with pend := th.counted.pend ++ new })
    (hp : post ((s2.modThread t f).adv t (th.pc + 8))) : GoesOnLong i s t b w th new post := by
  have hc := hi.at_.counted
  have l2 := Local.modThread hc f
  have l3 := Local.adv l2.at_ (th.pc + 8)
  have hmm : MemOnly (((s.countIssue t).modThread t f).adv t (th.pc + 8)) ((s2.modThread t f).adv t (th.pc + 8)) :=
    memOnly_modThread (memOnly_modThread hm t f) t _
  have l := ((Local.countIssue hi.at_).trans l2).trans l3
  have hw : (f th.counted).watch = none := by rw [hf]; show th.watch = none; exact ready_watch hi.at_ hi.ready
  have e : exec i s = .next ((s2.modThread t f).adv t (th.pc + 8)) := by
    rw [hx, runGuarded_alone hi.toAlone hi.guard, he]
    simp only [effOver]
    rw [finishWatch_none (hmm.at_ l3.at_) hw]
  rw [hf] at l
  exact ⟨_, _, _, _, e, l, counted_traps .., hmm, hp⟩

/-- An instruction whose effect changes memory alone. -/
theorem goesOnMem_done {i : Instr} {h : Hdr} {eff : State → TRef → Eff} {s2 : State} {post : State → Thread → Prop}
    (hi : Issues i h s t b w th) (hx : exec i s = runGuarded i h eff s) (he : eff (s.countIssue t) t = .done s2)
    (hm : MemOnly (s.countIssue t) s2)
    (hp : ∀ th', th'.regs = th.regs → th'.pred = th.pred → post (s2.adv t (th.pc + 8)) th') : GoesOnMem i s t b w th (th.pc + 8) post := by
  have hc := hi.at_.counted
  have l3 := Local.adv hc (th.pc + 8)
  have hmm : MemOnly ((s.countIssue t).adv t (th.pc + 8)) (s2.adv t (th.pc + 8)) := memOnly_modThread hm t _
  refine ⟨(s.countIssue t).adv t (th.pc + 8), s2.adv t (th.pc + 8), _, _, _, ?_, ⟨(Local.countIssue hi.at_).trans l3, rfl, fun _ => counted_traps ..⟩, hmm, hp _ rfl rfl⟩
  rw [hx, runGuarded_alone hi.toAlone hi.guard, he]
  simp only [effOver]
  rw [finishWatch_none (hmm.at_ l3.at_) (show th.watch = none from ready_watch hi.at_ hi.ready)]

/-- Going on changes nothing that the device holds. -/
theorem backed_modThread (s : State) (t : TRef) (f : Thread → Thread) (c a : Nat) : (s.modThread t f).backed c a = s.backed c a := rfl

/-! ### Plain memory stays plain -/

theorem MemOnly.watchHit (h : MemOnly s s') (c ctx va n : Nat) (r w : Bool) : s'.watchHit c ctx va n r w = s.watchHit c ctx va n r w := by
  have e : (s'.core c).dbg = (s.core c).dbg := by have := h.core c; grind
  unfold State.watchHit; rw [e]

theorem clean_pwrite (hc : s.hasCw = false) (hp : s.poison = []) (ctx pa v n : Nat) (attr : BitVec 10) : (s.pwrite ctx pa v n attr).poison = [] := by
  rw [(pwrite_plain hc ..).poison]; simp [State.rawWrite, hp]

/-- No window and no poison. -/
def CleanMem (s : State) : Prop := s.hasCw = false ∧ s.poison = []

theorem L2Only.cleanMem (h : L2Only s s') (hc : CleanMem s) : CleanMem s' := ⟨by rw [h.hasCw]; exact hc.1, by rw [h.poison]; exact hc.2⟩
theorem CleanMem.pwrite (h : CleanMem s) (ctx pa v n : Nat) (attr : BitVec 10) : CleanMem (s.pwrite ctx pa v n attr) :=
  ⟨by rw [(memOnly_pwrite ..).hasCw]; exact h.1, clean_pwrite h.1 h.2 ..⟩
theorem CleanMem.modCore (h : CleanMem s) (c : Nat) (f : CoreSt → CoreSt) : CleanMem (s.modCore c f) := ⟨h.1, h.2⟩
theorem CleanMem.foldl {α : Type} (f : State → α → State) (hf : ∀ s a, CleanMem s → CleanMem (f s a)) : ∀ (l : List α) (s : State), CleanMem s → CleanMem (l.foldl f s)
  | [], _, h => h
  | a :: l, s, h => CleanMem.foldl f hf l _ (hf s a h)
theorem CleanMem.wbBytes (h : CleanMem s) (l : L1Line) (m : BitVec 128) : CleanMem (s.wbBytes l m) := by
  unfold State.wbBytes
  refine CleanMem.foldl _ (fun s j h => ?_) _ _ h
  split
  · exact h.pwrite ..
  · exact h
theorem CleanMem.l1Put (h : CleanMem s) (c : Nat) (l : L1Line) : CleanMem (s.l1Put c l) := by
  unfold State.l1Put; dsimp only
  split
  · exact h.modCore ..
  · split
    · exact h.modCore ..
    · exact (h.wbBytes _ _).modCore ..
theorem CleanMem.l1Flush (h : CleanMem s) (c : Nat) : CleanMem (s.l1Flush c) :=
  (CleanMem.foldl (fun s l => s.wbBytes l l.dirty) (fun _ _ h => h.wbBytes _ _) _ _ h).modCore ..
theorem CleanMem.acquire (h : CleanMem s) (c ctx : Nat) (sc : Scope) : CleanMem (s.acquire c ctx sc) := by
  unfold State.acquire; split
  · exact h
  · exact ((h.l1Flush c).modCore ..).modCore ..
theorem CleanMem.release (h : CleanMem s) (c : Nat) (sc : Scope) : CleanMem (s.release c sc) := by
  unfold State.release; split
  · exact h
  · exact h.l1Flush c
theorem CleanMem.l1Atomic (h : CleanMem s) (c pa : Nat) : CleanMem (s.l1Atomic c pa) := by
  unfold State.l1Atomic; split
  · exact h
  · exact (h.wbBytes _ _).modCore ..
theorem CleanMem.l1Home (h : CleanMem s) (c pa n : Nat) : CleanMem (s.l1Home c pa n) := by
  unfold State.l1Home; split
  · exact h
  · exact CleanMem.foldl _ (fun _ _ h => h.l1Atomic ..) _ _ h
theorem CleanMem.rcWrite (h : CleanMem s) (c ctx va n : Nat) : CleanMem (s.rcWrite c ctx va n) := by
  unfold State.rcWrite; split
  · exact h
  · exact h.modCore ..
theorem CleanMem.poisoned (h : CleanMem s) (pa n : Nat) : s.poisoned pa n = false := by
  unfold State.poisoned; simp [h.1, h.2]
theorem CleanMem.partPoison (h : CleanMem s) (pa n : Nat) : s.partPoison pa n = false := by
  unfold State.partPoison; simp [h.2]
theorem CleanMem.metaUe (h : CleanMem s) (pa n : Nat) : s.metaUe pa n = false := by
  unfold State.metaUe; simp [h.1]
theorem TlbOnly.cleanMem (h : TlbOnly s s') (hc : CleanMem s) : CleanMem s' := ⟨by rw [h.memOnly.hasCw]; exact hc.1, by rw [h.poison]; exact hc.2⟩
theorem PlainMem.cleanMem {c : Nat} (h : PlainMem s c) : CleanMem s := ⟨h.noCw, h.clean⟩
theorem TlbOnly.plain {c : Nat} (h : TlbOnly s s') (hp : PlainMem s c) : PlainMem s' c :=
  ⟨(h.cleanMem hp.cleanMem).1, (h.cleanMem hp.cleanMem).2, by rw [h.l1]; exact hp.once⟩
theorem L2Only.plain {c : Nat} (h : L2Only s s') (hp : PlainMem s c) : PlainMem s' c :=
  ⟨(h.cleanMem hp.cleanMem).1, (h.cleanMem hp.cleanMem).2, by rw [h.core]; exact hp.once⟩
theorem PlainMem.release {c : Nat} (h : PlainMem s c) (sc : Scope) : PlainMem (s.release c sc) c :=
  ⟨(h.cleanMem.release c sc).1, (h.cleanMem.release c sc).2, once_release h.noCw c h.once sc⟩
theorem PlainMem.acquire {c : Nat} (h : PlainMem s c) (ctx : Nat) (sc : Scope) : PlainMem (s.acquire c ctx sc) c :=
  ⟨(h.cleanMem.acquire c ctx sc).1, (h.cleanMem.acquire c ctx sc).2, once_acquire h.noCw c h.once ctx sc⟩
theorem PlainMem.l1Home {c : Nat} (h : PlainMem s c) (pa n : Nat) : PlainMem (s.l1Home c pa n) c :=
  ⟨(h.cleanMem.l1Home c pa n).1, (h.cleanMem.l1Home c pa n).2, (l1Home_plain h.noCw c pa n h.once).1⟩
theorem PlainMem.l1Atomic {c : Nat} (h : PlainMem s c) (pa : Nat) : PlainMem (s.l1Atomic c pa) c :=
  ⟨(h.cleanMem.l1Atomic c pa).1, (h.cleanMem.l1Atomic c pa).2, once_l1Atomic h.noCw c pa h.once⟩
theorem PlainMem.rcWrite {c : Nat} (h : PlainMem s c) (ctx va n : Nat) : PlainMem (s.rcWrite c ctx va n) c :=
  ⟨(h.cleanMem.rcWrite c ctx va n).1, (h.cleanMem.rcWrite c ctx va n).2, by unfold State.rcWrite; split; exact h.once; simpa using h.once⟩

/-! ### Registers as an instruction reads them -/

theorem append_toNat (x y : Word) : (x ++ y : Dword).toNat = y.toNat + 2 ^ 32 * x.toNat := by
  have hy := y.isLt
  rw [BitVec.toNat_append, Nat.shiftLeft_eq, Nat.mul_comm, ← Nat.two_pow_add_eq_or_of_lt hy]
  omega
theorem append_toNat2 (x y : Dword) : (x ++ y : BitVec 128).toNat = y.toNat + 2 ^ 64 * x.toNat := by
  have hy := y.isLt
  rw [BitVec.toNat_append, Nat.shiftLeft_eq, Nat.mul_comm, ← Nat.two_pow_add_eq_or_of_lt hy]
  omega
/-- A pair as the model reads it (R4). -/
theorem rp_pair (r : VReg) : s.rp t r = (s.pair t r).toNat := by
  unfold State.rp State.pair
  rw [append_toNat]; simp [State.rvN]
theorem pcOf_counted (h : At s t b w th) : (s.countIssue t).pcOf t = th.pc := by
  rw [h.counted.pcOf]; rfl
theorem rvN_congr (h : ∀ r, s'.rv t r = s.rv t r) (n : Nat) : ∀ r, s'.rvN t r n = s.rvN t r n := by
  induction n with
  | zero => intro r; rfl
  | succ n ih => intro r; simp [State.rvN, h, ih]
theorem rp_counted (h : At s t b w th) (r : VReg) : (s.countIssue t).rp t r = (s.pair t r).toNat := by
  rw [← rp_pair]; exact rvN_congr (fun r => rv_countIssue h r) 2 r
theorem rv_memOnly (h : MemOnly s s') (r : VReg) : s'.rv t r = s.rv t r := by
  unfold State.rv State.block?; rw [h.blocks]
theorem src_memOnly (h : MemOnly s s') (k : Nat) (r : VReg) : s'.src t k r = s.src t k r := by
  unfold State.src; rw [rv_memOnly h]; unfold State.thread? State.warp? State.block?; rw [h.blocks]
theorem ctxOf_memOnly (h : MemOnly s s') : s'.ctxOf t = s.ctxOf t := by
  unfold State.ctxOf State.block?; rw [h.blocks]
theorem rvN_four (r : VReg) : s.rvN t r 4 = (s.pair t (r + 2) ++ s.pair t r).toNat := by
  rw [append_toNat2, ← rp_pair, ← rp_pair]
  have : r + 1 + 1 = r + 2 := by rw [BitVec.add_assoc]; rfl
  have h3 : r + 2 + 1 = r + 1 + 1 + 1 := by rw [this]
  simp only [State.rp, State.rvN, this]
  omega
/-- The data sources of an instruction, whose accesses so far changed memory alone. -/
theorem srcN_group {i : Instr} (ha : Alone i s t b w th) (hm : MemOnly (s.countIssue t) s') (k : Nat) (r : VReg) (z : Sz) :
    s'.srcN t k r z.regs = s.group t r z.regs := by
  have e : ∀ r, s'.rv t r = s.rv t r := fun r => (rv_memOnly hm r).trans (rv_countIssue ha.at_ r)
  unfold State.srcN State.group
  cases z <;> simp only [Sz.regs, src_memOnly hm, src_counted ha, rvN_congr e]
  · rfl
  · rfl
  · rfl
  · exact rp_pair r
  · exact rvN_four r

end Sys2Proof.Machine
end

