-- ==== Sys2Proof/Tests/Slice0.lean ====
section
/-! SUPPORT. Our own tests: words written out by the spec's tables, ill-formed terms, single steps of small states, and for every statement with hypotheses a
state that meets them. Expected values come from the spec's tables and examples, or from hand calculation by them. -/
set_option Elab.async false
namespace Sys2Proof.Tests
open Sys2Proof.Machine Sys2Proof.Rules

/-! ### Small states -/

/-- The only thread. -/
def T0 : TRef := ⟨0, 0, 0, 0⟩
/-- A guard that always holds. -/
def H : Hdr := ⟨0, false, 7⟩
/-- One thread of one block, whose convoy issues now. -/
def W : State := { State.reset.place 64 0 with cur := ⟨[T0], 0, 0, 0, none⟩ }
/-- Its thread changed. -/
def thr (f : Thread → Thread) : State := W.modThread T0 f
/-- Its registers. -/
def regs (r : List (Nat × Word)) : State := thr fun th => { th with regs := r }
/-- Its memory: numbers of 8 bytes at addresses. -/
def put8 (s : State) (l : List (Nat × Nat)) : State := { s with mem := l.foldl (fun m x => Mem.writeN m x.1 x.2 8) s.mem }
/-- Two threads in the warp, the second changed. -/
def W2 (f : Thread → Thread) : State := W.modBlock 0 0 fun b => { b with warps := b.warps.map fun w => { w with threads := w.threads ++ w.threads.map f } }
/-- A gated block whose bundle issues now. -/
def WT : State := { State.reset.place 40 0 with cur := ⟨[], 0, 0, 0, none⟩ }
/-- Its tile context changed. -/
def til (f : TileCtx → TileCtx) : State := WT.modBlock 0 0 fun b => { b with tile := f b.tile }
/-- The checks of Issues, and more. -/
def okAt (s : State) (i : Instr) (h : Hdr) (P : Block → Warp → Thread → Bool) : Bool :=
  match s.block? 0 0 with
  | none => false
  | some b =>
    match b.warps[0]? with
    | none => false
    | some w =>
      match w.threads[0]? with
      | none => false
      | some th => decide (s.cur.threads = [T0]) && s.cur.again.isNone && s.ready T0 i.laClass && s.clear T0 i && decide (th.st = .running) && !s.privBad b.ctx th i &&
          (firstUnalloc w.alloc th.hmode i.fields).isNone && !lookBad i th && !s.regUe b T0 i && decide (th.binds = []) && s.guard T0 h && P b w th
theorem issues_at {s : State} {i : Instr} {h : Hdr} (P : Block → Warp → Thread → Bool) (hk : okAt s i h P = true) :
    ∃ b w th, Issues i h s T0 b w th ∧ P b w th = true := by
  unfold okAt at hk
  cases hb : s.block? 0 0 with
  | none => simp [hb] at hk
  | some b =>
    cases hw : b.warps[0]? with
    | none => simp [hb, hw] at hk
    | some w =>
      cases ht : w.threads[0]? with
      | none => simp [hb, hw, ht] at hk
      | some th =>
        simp only [hb, hw, ht, Bool.and_eq_true, Bool.not_eq_true', decide_eq_true_eq, Option.isNone_iff_eq_none] at hk
        obtain ⟨⟨⟨⟨⟨⟨⟨⟨⟨⟨⟨h1, h2⟩, h3⟩, hc⟩, h4⟩, h5⟩, h6⟩, h7⟩, h8⟩, h9⟩, h10⟩, h11⟩ := hk
        exact ⟨b, w, th, ⟨⟨⟨hb, hw, ht⟩, h1, h2, h3, hc, h4, h5, h6, h7, h8, h9⟩, h10⟩, h11⟩
/-- A block in the bundle's slot, and more. -/
def okSlot (s : State) (g : SGuard) (P : Block → Bool) : Bool :=
  match s.block? s.cur.core s.cur.slot with
  | none => false
  | some b => (SGuard.holds g b.tile && P b) && s.blocks.all fun x => x.core != b.core || x.slot != b.slot || x == b
theorem slot_at {s : State} {g : SGuard} (P : Block → Bool) (hk : okSlot s g P = true) : ∃ b, SlotIs s b ∧ SGuard.holds g b.tile = true ∧ P b = true := by
  unfold okSlot at hk
  split at hk
  · contradiction
  · rename_i b hb
    simp only [Bool.and_eq_true, List.all_eq_true, Bool.or_eq_true, bne_iff_ne, beq_iff_eq] at hk
    exact ⟨b, ⟨hb, fun x hx h1 h2 => ((hk.2 x hx).resolve_left fun o => o.elim (· h1) (· h2))⟩, hk.1⟩
/-- The checks of Maps. -/
def maps (s : State) (va align : Nat) (k : Acc) (pa : Nat) (attr : BitVec 10) : Bool :=
  canonical va && va % align == 0 && decide ((s.translate (.core 0) (s.ctxOf T0) va k).2 = .ok pa attr)
theorem maps_of {s : State} {va align : Nat} {k : Acc} {pa : Nat} {attr : BitVec 10} (h : maps s va align k pa attr = true) : Maps s T0 va align k pa attr := by
  simp only [maps, Bool.and_eq_true, beq_iff_eq, decide_eq_true_eq] at h
  exact ⟨h.1.1, h.1.2, h.2⟩
/-- The checks of Held. -/
def held (s : State) (va align : Nat) (k : Acc) (pa : Nat) : Bool :=
  canonical va && va % align == 0 && match (s.core 0).tlb.find? fun e => e.hits (s.ctxOf T0) (va % 2 ^ 52) with
    | some e => permits e.attr k && e.pa (va % 2 ^ 52) == pa
    | none => false
theorem held_of {s : State} {va align : Nat} {k : Acc} {pa : Nat} (h : held s va align k pa = true) : Held s T0 va align k pa := by
  unfold held at h
  simp only [Bool.and_eq_true, beq_iff_eq] at h
  refine ⟨h.1.1, h.1.2, ?_⟩
  split at h
  · rename_i e he
    simp only [Bool.and_eq_true, beq_iff_eq] at h
    exact ⟨e, he, h.2.1, h.2.2⟩
  · exact absurd h.2 (by simp)
/-- The checks of PlainMem. -/
def plain (s : State) : Bool := !s.hasCw && decide (s.poison = []) && decide (((s.core 0).l1.map L1Line.line).Nodup)
theorem plain_of {s : State} (h : plain s = true) : PlainMem s 0 := by
  simp only [plain, Bool.and_eq_true, Bool.not_eq_true', decide_eq_true_eq] at h
  exact ⟨h.1.1, h.1.2, h.2⟩

/-! ### States that meet the hypotheses of the statements -/

theorem test_hyps_encoding : (Instr.nop H).wf = true ∧ encode (.nop H) ≠ .event ∧ (Instr.xs2t (.sg 7) 15 31).wf = true ∧ encode (.xs2t (.sg 7) 15 31) ≠ .event := by decide
theorem test_hyps_BranchFormat : (¬ ((1#1 : BitVec 1) = 1#1 ∧ (6#3 : BitVec 3) = 7#3)) ∧
    (∃ b w th, Issues (.bra H 0xFFFFFFFF) H (thr fun th => { th with pc := 8 }) T0 b w th ∧
      (th.pc.toNat % 8 == 0 && canonical (th.pc + BitVec.ofInt 64 (8 * (0xFFFFFFFF#32).toInt)).toNat) = true) ∧
    ∃ b w th, Issues (.call H 0) H W T0 b w th ∧ (th.pc.toNat % 8 == 0 && canonical th.pc.toNat) = true :=
  ⟨by decide, issues_at _ (by decide), issues_at _ (by decide)⟩
theorem test_hyps_NumbersEncodeToThemselves : ff32 ∈ layouts ∧ 0xFFFFFFFF < 2 ^ (1 + ff32.eb + ff32.fb) ∧ ffb16 ∈ layouts ∧ 0xFFFF < 2 ^ (1 + ffb16.eb + ffb16.fb) ∧
    255 < 2 ^ 8 ∧ 255 ≠ 2 ^ (8 - 1) ∧ 63 < 2 ^ 6 ∧ 63 ≠ 2 ^ (6 - 1) := by decide
/-- The state whose next step fetches NOP. -/
def WNop : State := State.reset.place 64 0xA707000000000000
/-- The state whose next step fetches a bundle of no-operations. -/
def WBundle : State := State.reset.place 40 0
theorem test_hyps_step_input : ({ W with inputs := [.nop H] } : State).inputs = [.nop H] ∧
    ∃ t, exec (.nop H) { ({ W with inputs := [.nop H] } : State) with inputs := [] } = .next t := ⟨rfl, _, rfl⟩
theorem test_hyps_step_idle : ({ State.reset with fw := { State.reset.fw with power := false } } : State).acts = [] := by decide +kernel
theorem test_hyps_step_convoy : WNop.inputs = [] ∧ WNop.acts = [.convoy 0] ∧
    (match firstPick (WNop.overdue 0) (WNop.portPicks 0 (WNop.picks 0) [] []) with
      | some lead => decide (lead.t.lane < 32) && (match WNop.fetch lead.t.core lead.ctx lead.pc 8 .xt with
          | (s1, .word w) => (match decodeThread (BitVec.ofNat 64 w) with
            | .ok i => decide (i = .nop H) && (match exec i { s1 with cur := ⟨[T0], 0, 0, 0, none⟩ } with
              | .next t => (t.portPicks 0 (WNop.picks 0) [lead.unit] t.cur.threads).isEmpty | _ => false)
            | .error _ => false)
          | _ => false)
      | none => false) = true := by decide +kernel
theorem test_hyps_step_bundle : WBundle.inputs = [] ∧ WBundle.acts = [.bundle 0] ∧ WBundle.tileSlot 0 = some 0 ∧
    (match WBundle.block? 0 0 with
      | some b =>
        let s0 : State := { WBundle.modCore 0 (fun x => { x with seq := 0, seqFree := false }) with cur := ⟨[], 0, 0, 0, none⟩, tileStall := 0, tileTrap := false }
        b.tile.scan.isNone && (match s0.fetch 0 b.ctx b.tile.pc 32 .xl with
          | (s1, .word w) => (match decodeBundle (BitVec.ofNat 256 w) with
            | .ok bd => let s2 : State := { s1 with cur := ⟨[], 0, 0, (BitVec.ofNat 256 w).extractLsb' 192 64, none⟩ }
              !bd.wm && (s2.tileBrk b).isNone && (match s2.trySlots b bd with | .go sS => !sS.tileTrap | _ => false)
            | .error _ => false)
          | _ => false)
      | none => false) = true := by decide +kernel
theorem test_hyps_invariants : W.memOk ∧ (∀ c, L1Once (W.core c).l1) ∧ W.slotsOk ∧ (match step WNop with | .next _ => true | _ => false) = true := by
  refine ⟨by unfold State.memOk; decide, fun c => ?_, by unfold State.slotsOk; decide, by decide⟩
  have : (W.core c).l1 = [] := by
    by_cases h : c = 0
    · subst h; rfl
    · simp [State.core, SMap.get, SMap.get?, W, State.place, CoreSt.empty, Ne.symm h]
  rw [this]; exact List.Pairwise.nil
theorem test_hyps_IntegerResults : ((intRule (.iadd H 3 1 2 .wrap) (W.rv T0) (W.pget T0) 0).isSome = true ∧ ∃ b w th, Issues (.iadd H 3 1 2 .wrap) H W T0 b w th ∧ (th.pred == 0) = true) ∧
    (pairRule (.imadw H 252 1 2 8 true) (W.rv T0)).isSome = true ∧ (252#8).toNat % 2 = 0 ∧ (252#8).toNat ≤ 252 ∧
    ∃ b w th, Issues (.imadw H 252 1 2 8 true) H W T0 b w th ∧ true = true :=
  ⟨⟨rfl, issues_at _ (by decide)⟩, rfl, rfl, by decide, issues_at _ (by decide)⟩

theorem test_hyps_PredicatesAndSpecialValues :
    ((predRule (.isetp H 1 1 2 7 .lt false .and) (W.rv T0) (W.pget T0)).isSome = true ∧ ∃ b w th, Issues (.isetp H 1 1 2 7 .lt false .and) H W T0 b w th ∧ true = true) ∧
    (∃ b w th, Issues (.v2p H 1 0x7F) H W T0 b w th ∧ true = true) ∧
    (∃ b w th, Issues (.s2v H 1 0x00) H W T0 b w th ∧ true = true) ∧ ∃ b w th, Issues (.s2v H 1 0x11) H W T0 b w th ∧ (W.gridOf b).isSome = true :=
  ⟨⟨rfl, issues_at _ (by decide)⟩, issues_at _ (by decide), issues_at _ (by decide), issues_at _ (by decide)⟩
/-- Infinity and its negative, with the traps of FPTE enabled. -/
def WInf : State := (regs [(1, 0x7F800000), (2, 0xFF800000)]).modBlock 0 0 fun b => { b with fpte := 7 }
/-- One and a zero. -/
def WOne : State := regs [(1, 0x3F800000)]
theorem test_hyps_FloatResults :
    ((∃ d F rm ls, fpRule (.fadd H 3 1 2 .rn false) (WOne.rv T0) = some (H, d, F, rm, ls) ∧ trapMet 0 F rm ls = none) ∧
      ∃ b w th, Issues (.fadd H 3 1 2 .rn false) H WOne T0 b w th ∧ (b.fpte == 0) = true) ∧
    ((∃ d F rm ls, fpRule (.fadd H 3 1 2 .rn false) (WInf.rv T0) = some (H, d, F, rm, ls) ∧ trapMet 7 F rm ls = some 0) ∧
      ∃ b w th, Issues (.fadd H 3 1 2 .rn false) H WInf T0 b w th ∧ (b.fpte == 7) = true) ∧
    (∃ b w th, Issues (.fscale H 3 1 2 .rz) H WOne T0 b w th ∧ (b.fpte == 0) = true) ∧
    (fpPlain (.fmin H 3 1 2) (WInf.rv T0)).isSome = true ∧ ∃ b w th, Issues (.fmin H 3 1 2) H WInf T0 b w th ∧ true = true :=
  ⟨⟨⟨_, _, _, _, rfl, by decide +kernel⟩, issues_at _ (by decide)⟩, ⟨⟨_, _, _, _, rfl, by decide +kernel⟩, issues_at _ (by decide)⟩, issues_at _ (by decide),
    rfl, issues_at _ (by decide)⟩
theorem test_hyps_SpecialFunctions : ((sfuRule (.frcp H 3 1) (WOne.rv T0)).isSome = true ∧ ∃ b w th, Issues (.frcp H 3 1) H WOne T0 b w th ∧ (b.fpte == 0) = true) ∧
    (sfuRule (.frcp H 3 2) ((WInf.modThread T0 fun th => { th with regs := [] }).rv T0)).isSome = true ∧ sfuMet true 0 (frcpBits 0) = some 1 ∧
    ∃ b w th, Issues (.frcp H 3 2) H (WInf.modThread T0 fun th => { th with regs := [] }) T0 b w th ∧ b.fpte.getLsbD 1 = true :=
  ⟨⟨rfl, issues_at _ (by decide)⟩, rfl, by decide +kernel, issues_at _ (by decide)⟩
/-- A pair that holds 0x100, and a word there. -/
def WMem : State := put8 (regs [(0, 0x100), (2, 7)]) [(0x100, 5)]
/-- Fields of an atomic of 4 bytes. -/
def A4 : AtomF := ⟨0, .b32, .dev, .add, .unsigned, false, false⟩
theorem test_hyps_MemoryAccesses :
    ((∃ b w th, Issues (.ld H 3 0 ⟨false, false, .dflt, false⟩ ⟨0, .b32, .blk, 0⟩) H WMem T0 b w th ∧ (WMem.watchHit 0 b.ctx 0x100 4 true false).isNone = true) ∧
      effAddr (WMem.pair T0 0) 0 4 = 0x100 ∧ Maps WMem T0 0x100 4 .read 0x100 0x73 ∧ PlainMem WMem 0) ∧
    ((∃ b w th, Issues (.st H 0 2 ⟨false, false, .dflt, false⟩ ⟨0, .b32, .blk, 0⟩) H WMem T0 b w th ∧ (WMem.watchHit 0 b.ctx 0x100 4 false true).isNone = true) ∧
      Maps WMem T0 0x100 4 .write 0x100 0x73) ∧
    ((∃ b w th, Issues (.atom H 3 0 2 A4) H WMem T0 b w th ∧ (WMem.watchHit 0 b.ctx 0x100 4 true true).isNone = true) ∧ cachedPage 0x100 0x73 = true) ∧
    (∃ b w th, Issues (.red H 0 2 A4) H WMem T0 b w th ∧ true = true) ∧
    (∃ b w th, Issues (.acas H 4 0 2 { A4 with sz := .b64 }) H WMem T0 b w th ∧ true = true) ∧ Maps WMem T0 0x100 16 .write 0x100 0x73 :=
  ⟨⟨issues_at _ (by decide), by decide, maps_of (by decide), plain_of (by decide)⟩, ⟨issues_at _ (by decide), maps_of (by decide)⟩,
    ⟨issues_at _ (by decide), by decide⟩, issues_at _ (by decide), issues_at _ (by decide), maps_of (by decide)⟩
/-- Of two threads with both lanes in their mask, the second is elsewhere, or has arrived. -/
def WPair (f : Thread → Thread) : State := (W2 f).modThread T0 fun th => { th with regs := [(1, 3)] }
/-- Arrived at the PC 0 with both lanes. -/
def arrive (opc : Nat) (th : Thread) : Thread := { th with st := .arrived, wait := some ⟨.rendezvous, 3, 0, opc, 0⟩ }
/-- The checks of Arrived for the second thread. -/
def arrivedB (s : State) (m opc : Nat) (pc : Dword) : Bool :=
  match s.warp? T0 with
  | none => false
  | some w => w.threads.length == 2 && match w.threads[1]? with
    | none => false
    | some th => decide (th.st = .arrived) && decide (th.wait = some ⟨.rendezvous, m, th.pc, opc, 0⟩) && decide (opc = 0x4D ∨ th.pc = pc) && decide (th.binds = [])
theorem others_of {s : State} {m opc : Nat} {pc : Dword} {w : Warp} (hw : s.warp? T0 = some w) (h : arrivedB s m opc pc = true) : OthersArrived w 0 m opc pc := by
  unfold arrivedB at h
  rw [hw] at h
  simp only [Bool.and_eq_true, beq_iff_eq] at h
  obtain ⟨hl, h⟩ := h
  cases ht : w.threads[1]? with
  | none => simp [ht] at h
  | some th =>
    simp only [ht, Bool.and_eq_true, decide_eq_true_eq] at h
    obtain ⟨⟨⟨h1, h2⟩, h3⟩, h4⟩ := h
    intro k th' hk _ hth
    have hk1 : k = 1 := by
      have := (List.getElem?_eq_some_iff.mp hth).1
      omega
    subst hk1
    rw [ht] at hth
    cases hth
    exact .inr ⟨h1, ⟨_, h2, rfl, rfl, rfl, rfl⟩, h3, h4⟩
/-- PMASK of the pair. -/
def Pm : Instr := .pmask H 2 0 1
/-- WRED of the pair. -/
def Wr : Instr := .wred H 2 0 1 .add .u32
theorem test_hyps_Rendezvous :
    (arriveRule Pm = some (H, 0x46, 1) ∧ effMask (WPair id) T0 1 = 3 ∧ ∃ b w th, Issues Pm H (WPair id) T0 b w th ∧ ((w.threads[1]?).any fun y => y.st == .running) = true) ∧
    ((∃ b w th, Issues Pm H (WPair (arrive 0x46)) T0 b w th ∧ ((WPair (arrive 0x46)).warp? T0 == some w && th.pc == 0) = true) ∧ arrivedB (WPair (arrive 0x46)) 3 0x46 0 = true ∧
      (((WPair (arrive 0x46)).warp? T0).any fun w => (arrivalSet w 0 3).all fun l => (meetRule Pm (fun k => (WPair (arrive 0x46)).rv (laneRef T0 k))
        (fun k => (WPair (arrive 0x46)).pget (laneRef T0 k)) (arrivalSet w 0 3) l).isSome) = true) ∧
    (arriveRule Wr = some (H, 0x49, 1) ∧ (∃ b w th, Issues Wr H (WPair (arrive 0x49)) T0 b w th ∧ (b.fpte == 0) = true) ∧ arrivedB (WPair (arrive 0x49)) 3 0x49 0 = true ∧
      (((WPair (arrive 0x49)).warp? T0).any fun w => (arrivalSet w 0 3).all fun l => (foldRule Wr (fun k => (WPair (arrive 0x49)).rv (laneRef T0 k)) (arrivalSet w 0 3) l).isSome) = true) :=
  ⟨⟨rfl, by decide, issues_at _ (by decide)⟩, ⟨issues_at _ (by decide), by decide, by decide⟩, rfl, issues_at _ (by decide), by decide, by decide⟩
/-- A pair that holds an address of misaligned code, or one that is not canonical. -/
def WBad : State := regs [(2, 4), (5, 0x80000000)]
theorem test_hyps_ControlTransfers :
    ((∃ t, transferRule (.callx H 0) (W.pair T0) 0 = some (H, true, t) ∧ t.toNat % 8 = 0 ∧ canonical t.toNat = true) ∧ ∃ b w th, Issues (.callx H 0) H W T0 b w th ∧ (th.pc == 0) = true) ∧
    ((∃ t, transferRule (.brx H 2) (WBad.pair T0) 0 = some (H, false, t) ∧ t.toNat % 8 ≠ 0) ∧ ∃ b w th, Issues (.brx H 2) H WBad T0 b w th ∧ (th.pc == 0) = true) ∧
    (∃ t, transferRule (.brx H 4) (WBad.pair T0) 0 = some (H, false, t) ∧ t.toNat % 8 = 0 ∧ canonical t.toNat = false) ∧ ∃ b w th, Issues (.brx H 4) H WBad T0 b w th ∧ (th.pc == 0) = true :=
  ⟨⟨⟨_, rfl, by decide, by decide⟩, issues_at _ (by decide)⟩, ⟨⟨_, rfl, by decide⟩, issues_at _ (by decide)⟩, ⟨_, rfl, by decide, by decide⟩, issues_at _ (by decide)⟩
/-- The checks of Alone for an instruction without a header. -/
def aloneB (s : State) (i : Instr) : Bool :=
  match s.block? 0 0 with
  | none => false
  | some b => match b.warps[0]? with
    | none => false
    | some w => match w.threads[0]? with
      | none => false
      | some th => decide (s.cur.threads = [T0]) && s.cur.again.isNone && s.ready T0 i.laClass && s.clear T0 i && decide (th.st = .running) && !s.privBad b.ctx th i &&
          (firstUnalloc w.alloc th.hmode i.fields).isNone && !lookBad i th && !s.regUe b T0 i && decide (th.binds = [])
theorem test_hyps_ExitNopAndTraps :
    (∃ b w th, Issues (.exit H) H W T0 b w th ∧ ((W.blocks ++ W.saved.map Saved.snap).all fun x => x.warps.all fun w => w.threads.all fun y => y.st != .arrived && y.trapq.isNone) = true) ∧
    (∃ b w th, Issues (.nop H) H W T0 b w th ∧ true = true) ∧ (∃ b w th, Issues (.snooze H 5) H W T0 b w th ∧ true = true) ∧
    (∃ b w th, Issues (.trap H 5) H W T0 b w th ∧ true = true) ∧ (∃ b w th, Issues (.bkpt H 5) H W T0 b w th ∧ true = true) ∧
    aloneB W (.reservedOpcode 0xFF00000000000000#64) = true ∧ aloneB W (.extEmulate 0xC100000000000000#64) = true :=
  ⟨issues_at _ (by decide), issues_at _ (by decide), issues_at _ (by decide), issues_at _ (by decide), issues_at _ (by decide), by decide, by decide⟩

/-- The first thread, and more. -/
def atB (s : State) (P : Block → Warp → Thread → Bool) : Bool :=
  match s.block? 0 0 with
  | none => false
  | some b => match b.warps[0]? with
    | none => false
    | some w => match w.threads[0]? with
      | none => false
      | some th => P b w th
theorem at_of {s : State} (P : Block → Warp → Thread → Bool) (h : atB s P = true) : ∃ b w th, At s T0 b w th ∧ P b w th = true := by
  unfold atB at h
  split at h
  · contradiction
  · rename_i b hb
    split at h
    · contradiction
    · rename_i w hw
      split at h
      · contradiction
      · rename_i th ht
        exact ⟨b, w, th, ⟨hb, hw, ht⟩, h⟩
/-- A handler at 0x1000 that takes every cause. -/
def WHand : State := (W.setReg (ctxReg 0 0x260) 0x1001).setReg (ctxReg 0 0x268) 0xFFFFFFFF
/-- The state in handler mode, with h0 and h1. -/
def WIn (h2 : Dword) : State := WHand.modThread T0 fun th => { th with hmode := true, h := [(0, 7), (1, 16), (2, h2)] }
/-- Halting on every cause. -/
def WHalt : State := (W.setReg (ctxReg 0 0x900) 1).setReg (ctxReg 0 0x908) 0xFFFFFFFF
theorem test_hyps_TakingAnException :
    (∃ b w th, At WHand T0 b w th ∧ (WHand.rbState b.ctx == 0 && !th.hmode && !WHand.halts b.ctx 0x13 false && WHand.handled b.ctx 0x13 && th.pend.isEmpty &&
      b.trapRow 0 == some 0) = true) ∧
    (∃ b w th, At (WIn 0) T0 b w th ∧ ((WIn 0).rbState b.ctx == 0 && th.hmode) = true) ∧
    (∃ b w th, At W T0 b w th ∧ (W.rbState b.ctx == 0 && !th.hmode && !W.halts b.ctx 0x13 false && !W.handled b.ctx 0x13) = true) ∧
    (∃ b w th, At WHalt T0 b w th ∧ (WHalt.rbState b.ctx == 0 && !th.hmode && WHalt.halts b.ctx 0x13 false) = true) ∧
    let s := WHand.modBlock 0 0 fun b => { b with warps := b.warps ++ b.warps.map (fun w => { w with hsel := some 0 }) ++ b.warps.map fun w => { w with hsel := some 1 } }
    ∃ b w th, At s T0 b w th ∧ (s.rbState b.ctx == 0 && !th.hmode && !s.halts b.ctx 0x13 false && s.handled b.ctx 0x13 && th.pend.isEmpty && (b.trapRow 0).isNone) = true :=
  ⟨at_of _ (by decide), at_of _ (by decide), at_of _ (by decide), at_of _ (by decide), at_of _ (by decide)⟩
theorem test_hyps_ReturningFromAnException :
    (∃ b w th, Issues (.eret H) H W T0 b w th ∧ (!th.hmode) = true) ∧
    (∃ b w th, Issues (.eret H) H (WIn 0x13) T0 b w th ∧ (th.hmode && SMap.get th.h 1 0 == 16 && canonical 16 && !(SMap.get th.h 2 0).getLsbD 31 && !(SMap.get th.h 2 0).getLsbD 9) = true) ∧
    ∃ b w th, Issues (.eret H) H (WIn 0x80000013) T0 b w th ∧ (th.hmode && (SMap.get th.h 2 0).getLsbD 31) = true :=
  ⟨issues_at _ (by decide), issues_at _ (by decide), issues_at _ (by decide)⟩
/-- The thread as each clause of SYSR and SYSW finds it. -/
theorem test_hyps_SystemRegisters :
    (∃ b w th, Issues (.sysr H 3 false 0x30) H W T0 b w th ∧ (sysRule W b th 0x30).isSome = true) ∧
    (∃ b w th, Issues (.sysr H 3 true 0x41F) H (WIn 0) T0 b w th ∧ (sysRule (WIn 0) b th 0x41F).isSome = true) ∧
    (∃ b w th, Issues (.sysw H 3 false 0x30) H W T0 b w th ∧ (sysEffect T0 b 0x30 false 1 W).isSome = true) ∧
    (∃ b w th, Issues (.sysw H 3 true 0x47) H (WIn 0) T0 b w th ∧ (sysEffect T0 b 0x47 true 1 (WIn 0)).isSome = true) ∧
    (∃ b w th, At W T0 b w th ∧ (decide (W.cur.threads = [T0]) && W.cur.again.isNone && W.ready T0 (Instr.sysr H 3 false 0x40).laClass && th.st == .running && !th.hmode) = true) ∧
    ∃ b w th, At (WIn 0) T0 b w th ∧ (decide ((WIn 0).cur.threads = [T0]) && (WIn 0).ready T0 (Instr.sysw H 3 false 0x20).laClass && th.hmode && !bit ((WIn 0).regN (ctxReg b.ctx 0x260)) 1) = true :=
  ⟨issues_at _ (by decide), issues_at _ (by decide), issues_at _ (by decide), issues_at _ (by decide), at_of _ (by decide), at_of _ (by decide)⟩
/-- A guard that does not hold. -/
def Hf : Hdr := ⟨0, false, 0⟩
/-- A register of the thread is pending, its window open. -/
def WPend : State := thr fun th => { th with pend := [⟨1, 1, none, 3, 0, 1⟩] }
/-- A warp with two rows. -/
def WRows : State := W.modBlock 0 0 fun b => { b with warps := b.warps.map fun w => { w with alloc := 2 } }
theorem test_hyps_ChecksBeforeIssue :
    (∃ b w th, At W T0 b w th ∧ (decide (W.cur.threads = [T0]) && W.cur.again.isNone && W.ready T0 (Instr.iadd Hf 3 1 2 .wrap).laClass && th.st == .running &&
      !W.privBad b.ctx th (.iadd Hf 3 1 2 .wrap) && (firstUnalloc w.alloc th.hmode (Instr.iadd Hf 3 1 2 .wrap).fields).isNone && !lookBad (.iadd Hf 3 1 2 .wrap) th && !W.guard T0 Hf) = true) ∧
    (∃ b w th, At WRows T0 b w th ∧ (WRows.ready T0 (Instr.iadd H 100 1 2 .wrap).laClass && !WRows.privBad b.ctx th (.iadd H 100 1 2 .wrap) &&
      firstUnalloc w.alloc th.hmode (Instr.iadd H 100 1 2 .wrap).fields == some 100) = true) ∧
    (∃ b w th, At WPend T0 b w th ∧ (WPend.cur.again.isNone && WPend.ready T0 (Instr.iadd H 3 1 2 .wrap).laClass && th.st == .running && !WPend.privBad b.ctx th (.iadd H 3 1 2 .wrap) &&
      (firstUnalloc w.alloc th.hmode (Instr.iadd H 3 1 2 .wrap).fields).isNone && lookBad (.iadd H 3 1 2 .wrap) th) = true) ∧
    ((∃ va, vaRule (.trlen H 6 4) (WBad.pair T0) = some (H, va, 256) ∧ canonical va = false) ∧ ∃ b w th, Issues (.trlen H 6 4) H WBad T0 b w th ∧ true = true) ∧
    (∃ va, vaRule (.trlen H 6 2) (WBad.pair T0) = some (H, va, 256) ∧ canonical va = true ∧ va % 256 ≠ 0) ∧ ∃ b w th, Issues (.trlen H 6 2) H WBad T0 b w th ∧ true = true :=
  ⟨at_of _ (by decide), at_of _ (by decide), at_of _ (by decide), ⟨⟨_, rfl, by decide⟩, issues_at _ (by decide)⟩, ⟨_, rfl, by decide, by decide⟩, issues_at _ (by decide)⟩
/-- Addresses in and beyond the scratchpad. -/
def WSp : State := regs [(1, 8), (2, 0x1000), (3, 2)]
theorem test_hyps_Scratchpad :
    let m : MemF := ⟨0, .b32, .blk, 0⟩; let f : Flg := ⟨false, false, .dflt, false⟩
    ((∃ b w th, Issues (.lds H 4 1 f m) H WSp T0 b w th ∧ (WSp.poolBad.isEmpty && b.spad.isEmpty && b.sprows == 1) = true) ∧ Mem.wf ([] : Mem) ∧
      ((spadRule (.lds H 4 1 f m) (WSp.rv T0) (WSp.group T0)).any fun r => r.2.1 == 8 && r.2.2.1 == 4) = true) ∧
    ((∃ b w th, Issues (.sts H 2 4 f m) H WSp T0 b w th ∧ (b.sprows == 1) = true) ∧ ((spadRule (.sts H 2 4 f m) (WSp.rv T0) (WSp.group T0)).any fun r => r.2.1 == 4096 && r.2.2.1 == 4) = true) ∧
    (∃ b w th, Issues (.atoms H 4 3 1 A4) H WSp T0 b w th ∧ (b.sprows == 1) = true) ∧ ((spadRule (.atoms H 4 3 1 A4) (WSp.rv T0) (WSp.group T0)).any fun r => r.2.1 == 2 && r.2.2.1 == 4) = true :=
  ⟨⟨issues_at _ (by decide), by decide, by decide⟩, ⟨issues_at _ (by decide), by decide⟩, issues_at _ (by decide), by decide⟩

theorem test_hyps_RemoteAccessesQueue :
    (∃ b w th, Issues (.rst H 0 3 ⟨false, true, .dflt, false⟩ ⟨0, .b32, .dev, 0⟩) H (WMem.modThread T0 fun th => { th with regs := [(0, 0x100)] }) T0 b w th ∧
      let s := WMem.modThread T0 fun th => { th with regs := [(0, 0x100)] }
      ((s.gridOf b).any fun g => (s.rv T0 2).toNat == s.devIdx b.ctx && decide ((s.rv T0 2).toNat < s.jobDevices g) && !g.l1wb && countOps w.ops .remote == 0 && s.remOut.isEmpty &&
        effAddr (s.pair T0 0) 0 4 == 0x100 && canonical 0x100) = true) :=
  issues_at _ (by decide +kernel)
/-- The operations of a warp that an engine counts. -/
def WOps : State := W.modBlock 0 0 fun b => { b with warps := b.warps.map fun w => { w with ops := [⟨1, .remote, false, false, none⟩] } }
theorem test_hyps_CacheControlFencesAndWaits :
    (∃ b w th, Issues (.pref H 0 true 0) H WMem T0 b w th ∧ true = true) ∧ (∃ b w th, Issues (.cctl H 0 .ivall 0 0) H WMem T0 b w th ∧ true = true) ∧ PlainMem WMem 0 ∧
    (∃ b w th, Issues (.fence H .job 1) H WMem T0 b w th ∧ WMem.remOut.isEmpty = true) ∧
    (∃ b w th, Issues (.waitc H .remote 0) H W T0 b w th ∧ ((needErr .remote 0 w.ops).isNone && decide (countOps w.ops .remote ≤ 0)) = true) ∧
    ∃ b w th, Issues (.waitc H .remote 0) H WOps T0 b w th ∧ ((needErr .remote 0 w.ops).isNone && decide (0 < countOps w.ops .remote)) = true :=
  ⟨issues_at _ (by decide +kernel), issues_at _ (by decide +kernel), plain_of (by decide +kernel), issues_at _ (by decide +kernel), issues_at _ (by decide +kernel), issues_at _ (by decide +kernel)⟩
/-- A ring of 256 bytes with 8 bytes, at whose front the thread waits; hd: its HEAD. -/
def WRing (hd : BitVec 32) : State :=
  (thr fun th => { th with pend := [⟨3, 1, none, 0, 0, 9⟩], held := [⟨.pop, .spop H 3 false .b32 0, 0, 0, 0, 0, 0, 9, .free, [], 0, [], 0⟩] }).modBlock 0 0 fun b =>
    { b with rings := [(0, ⟨true, 0, 0, hd, hd + 8, hd + 8, [], [], [T0]⟩)] }
/-- The hypotheses of SPOP_PERFORM. -/
def popB (s : State) (P : Ring → Bool) : Bool :=
  match s.block? 0 0, s.thread? T0 with
  | some b, some th => !b.stopped && (b.ring 0).cfg && (b.ring 0).pops == [T0] && s.poolBad.isEmpty && P (b.ring 0) &&
      th.held == [⟨.pop, .spop H 3 false .b32 0, 0, 0, 0, 0, 0, 9, .free, [], 0, [], 0⟩]
  | _, _ => false
theorem test_hyps_StreamPops :
    (∃ b w th, Issues (.spop H 3 false .b32 0) H ((WRing 0).modThread T0 fun th => { th with pend := [], held := [] }) T0 b w th ∧ (b.ring 0).cfg = true) ∧
    (∃ b w th, Issues (.spop H 3 false .b32 15) H W T0 b w th ∧ (!(b.ring 15).cfg) = true) ∧
    popB (WRing 4) (fun r => r.head.toNat % 4 == 0 && decide (4 ≤ (r.tail - r.head).toNat)) = true ∧ popB (WRing 2) (fun r => r.head.toNat % 4 != 0) = true :=
  ⟨issues_at _ (by decide +kernel), issues_at _ (by decide +kernel), by decide, by decide⟩
/-- A POLL of a word. -/
def Po (c : PollCond) : Instr := .poll H 3 0 2 ⟨0, .b32, .blk, c, false, 0⟩
/-- The thread waits at its POLL. -/
def WPoll : State := WMem.modThread T0 fun th => { th with st := .waiting, wait := some ⟨.poll, Instr.wordOf (Po .eq), 0x100, 0x88, 5⟩ }
theorem test_hyps_Polling :
    (∃ b w th, Issues (Po .ltu) H WMem T0 b w th ∧ ((WMem.watchHit 0 b.ctx 0x100 4 true false).isNone && WMem.backedN 0 0x100 4 == 5 && WMem.group T0 2 1 == 7) = true) ∧
    (∃ b w th, Issues (Po .eq) H WMem T0 b w th ∧ true = true) ∧
    ∃ b w th, At WPoll T0 b w th ∧ (th.st == .waiting && th.wait == some ⟨.poll, Instr.wordOf (Po .eq), 0x100, 0x88, 5⟩ && th.watch.isNone && th.binds.isEmpty &&
      maps WPoll 0x100 4 .read 0x100 0x73 && plain WPoll && (WPoll.watchHit 0 b.ctx 0x100 4 true false).isNone &&
      (match decodeThread (BitVec.ofNat 64 (Instr.wordOf (Po .eq))) with | .ok i => i == Po .eq | .error _ => false)) = true :=
  ⟨issues_at _ (by decide +kernel), issues_at _ (by decide +kernel), at_of _ (by decide +kernel)⟩
theorem quiet_of {s : State} (h : (!s.hasCw && s.poison.isEmpty && (s.core 0).l1.isEmpty && decide (Mem.wf s.mem)) = true) : Quiet s 0 := by
  simp only [Bool.and_eq_true, Bool.not_eq_true', List.isEmpty_iff, decide_eq_true_eq] at h
  exact ⟨h.1.1.1, h.1.1.2, by simp [h.1.2], h.2⟩
/-- A barrier object at 0x100: PEND, EXPECT and ARRIVED, PHASE, and the bytes after it. -/
def WBar (p e a x : Nat) (l : SMap Word) : State := put8 (regs ((0, 0x100) :: l)) [(0x100, p), (0x108, e + 2 ^ 32 * a), (0x110, x)]
theorem test_hyps_BarrierObjects :
    ((∃ b w th, Issues (.binit H 0 2 .dev) H (WBar 0 0 0 0 [(2, 3)]) T0 b w th ∧ ((WBar 0 0 0 0 [(2, 3)]).rv T0 2 == 3) = true) ∧
      Maps (WBar 0 0 0 0 [(2, 3)]) T0 0x100 32 .write 0x100 0x73 ∧ Quiet (WBar 0 0 0 0 [(2, 3)]) 0 ∧ NoWaiters (WBar 0 0 0 0 [(2, 3)]) 0x100) ∧
    (∃ b w th, Issues (.binit H 0 2 .dev) H (WBar 0 0 0 0 []) T0 b w th ∧ ((WBar 0 0 0 0 []).rv T0 2 == 0) = true) ∧
    ((∃ b w th, Issues (.barv H 3 0 false) H (WBar 0 2 1 0x10000000005 []) T0 b w th ∧ true = true) ∧ Maps (WBar 0 2 1 0x10000000005 []) T0 0x100 32 .write 0x100 0x73 ∧
      Quiet (WBar 0 2 1 0x10000000005 []) 0 ∧ NoWaiters (WBar 0 2 1 0x10000000005 []) 0x100 ∧ BarIs (WBar 0 2 1 0x10000000005 []).mem 0x100 0 2 1 5 0 0) ∧
    ((∃ b w th, Issues (.barv H 3 0 false) H (WBar 0 2 1 0x30000000005 []) T0 b w th ∧ true = true) ∧ BarPoisoned (WBar 0 2 1 0x30000000005 []).mem 0x100) ∧
    ((∃ b w th, Issues (.btx H 0 2) H (WBar 1 2 2 0x10000000005 [(2, 0xFFFFFFFF), (3, 0xFFFFFFFF)]) T0 b w th ∧
        ((BitVec.ofNat 64 1).toInt + ((WBar 1 2 2 0x10000000005 [(2, 0xFFFFFFFF), (3, 0xFFFFFFFF)]).pair T0 2).toInt == 0) = true) ∧
      BarIs (WBar 1 2 2 0x10000000005 [(2, 0xFFFFFFFF), (3, 0xFFFFFFFF)]).mem 0x100 1 2 2 5 0 0) ∧
    (∃ b w th, Issues (.btx H 0 2) H (WBar 0 2 1 0x30000000005 []) T0 b w th ∧ true = true) ∧
    ((∃ b w th, Issues (.bwait H 0 2) H (WBar 0 2 1 0x10000000005 [(2, 4)]) T0 b w th ∧ true = true) ∧ Maps (WBar 0 2 1 0x10000000005 [(2, 4)]) T0 0x100 32 .read 0x100 0x73 ∧ passed 5 4 ∧
      (∃ b w th, Issues (.btest H 3 0 2) H (WBar 0 2 1 0x10000000005 [(2, 4)]) T0 b w th ∧ true = true)) ∧
    ((∃ b w th, Issues (.bwait H 0 2) H (WBar 0 2 1 0x10000000005 [(2, 5)]) T0 b w th ∧ true = true) ∧ ¬ passed 5 5 ∧
      (∃ b w th, Issues (.btest H 3 0 2) H (WBar 0 2 1 0x10000000005 [(2, 5)]) T0 b w th ∧ true = true)) ∧
    (∃ b w th, Issues (.bwait H 0 2) H (WBar 0 2 1 0x30000000005 []) T0 b w th ∧ true = true) ∧ ∃ b w th, Issues (.btest H 3 0 2) H (WBar 0 2 1 0x30000000005 []) T0 b w th ∧ true = true :=
  ⟨⟨issues_at _ (by decide +kernel), maps_of (by decide +kernel), quiet_of (by decide +kernel), by unfold NoWaiters; decide⟩, issues_at _ (by decide +kernel),
    ⟨issues_at _ (by decide +kernel), maps_of (by decide +kernel), quiet_of (by decide +kernel), by unfold NoWaiters; decide, by unfold BarIs; decide⟩,
    ⟨issues_at _ (by decide +kernel), by unfold BarPoisoned; decide⟩, ⟨issues_at _ (by decide +kernel), by unfold BarIs; decide⟩, issues_at _ (by decide +kernel),
    ⟨issues_at _ (by decide +kernel), maps_of (by decide +kernel), by unfold passed; decide, issues_at _ (by decide +kernel)⟩,
    ⟨issues_at _ (by decide +kernel), by unfold passed; decide, issues_at _ (by decide +kernel)⟩, issues_at _ (by decide +kernel), issues_at _ (by decide +kernel)⟩

/-- A grid of one block. -/
def WOneBlk (f : Grid → Grid) : State := W.modGrid 0 fun g => f { g with raw := 2 ^ 64 + 2 ^ 96 + 2 ^ 128 }
/-- No thread has arrived anywhere. -/
def noneArrived (s : State) : Bool := (s.blocks ++ s.saved.map Saved.snap).all fun x => x.warps.all fun w => w.threads.all fun y => y.st != .arrived
theorem test_hyps_DomainBarriers :
    (∃ b w th, Issues (.dbar H .quad 0) H (WOneBlk id) T0 b w th ∧ (((WOneBlk id).gridOf b).any fun g => !g.coop && noneArrived (WOneBlk id)) = true) ∧
    (∃ b w th, Issues (.dbar H .die 0) H (WOneBlk fun g => { g with coop := true }) T0 b w th ∧ let s := WOneBlk fun g => { g with coop := true }
      ((s.gridOf b).any fun g => g.coop && noneArrived s && s.blocksOf g.id == [b] && b.live == [T0] && g.next == g.nblkAll && g.jobid == 0 && !g.l1wb) = true) ∧
    (∃ b w th, Issues (.dbar H .blk 15) H (W2 id) T0 b w th ∧ (((W2 id).gridOf b).any fun g => !g.l1wb && noneArrived (W2 id) && b.live.any fun u => u != T0) = true) ∧
    (∀ g ∈ W.grids, ¬ (g.jobid = 5 ∧ g.jtag = 0)) ∧
    let s := W.modGrid 0 fun g => { g with raw := 2 ^ 768 }
    let e : State := { W.modGrid 0 fun g => { g with raw := 2 ^ 768, next := 0 } with blocks := [] }
    ((s.grids.find? fun g => g.jobid == 1 && g.jtag == 0).any fun g => (s.grid? g.id == some g) && !(s.blocksOf g.id).isEmpty) = true ∧ noneArrived s = true ∧
    ((e.grids.find? fun g => g.jobid == 1 && g.jtag == 0).any fun g => (e.grid? g.id == some g) && g.next == g.nblkAll && (e.blocksOf g.id).isEmpty) = true ∧ noneArrived e = true :=
  ⟨issues_at _ (by decide +kernel), issues_at _ (by decide +kernel), issues_at _ (by decide +kernel), by decide +kernel, by decide +kernel, by decide +kernel, by decide +kernel, by decide +kernel⟩
/-- A variant of the only role, of 8 rows, with an entry at 0x40 and a milestone 3. -/
def var0 : VarE := { rank := 0, cls := 0, vflags := 1, pword := 0, warps := [1], rows := [8], entry := [0x40], tentry := 0, msFirst := 0, msN := 1, lmFirst := 0, lmN := 0, acckb := 0, parkb := 0 }
/-- The image that holds it; f: the role's flags. -/
def img0 (f : Nat) : Image := { oneGrid.img with roles := [(0, f)], vars := [var0], mss := [⟨3, 0, 0, 0, 0, 0, 0, [0x80]⟩] }
/-- Its grid, in a state. -/
def inImg (s : State) (f : Nat) : State := s.modGrid 0 fun g => { g with img := img0 f }
theorem test_hyps_GateTurns :
    (∃ b w th, Issues (.gate H 0 0) H (inImg W 0) T0 b w th ∧ (((inImg W 0).gridOf b).any fun g => ((inImg W 0).varOf b).isSome && !g.gateRole w.role) = true) ∧
    (∃ b w th, Issues (.gate H 0 0) H (inImg W 1) T0 b w th ∧ (((inImg W 1).gridOf b).any fun g => ((inImg W 1).varOf b).any fun v =>
      g.gateRole w.role && b.gateThreads g == [T0] && !b.gated && b.pendingErr.isNone && !th.hmode &&
      !b.gateBad g v [⟨.gate, 0, th.pc, Instr.wordOf (.gate H 0 0), 0⟩]) = true) ∧
    (∃ b, SlotIs (til fun t => { t with infl := [⟨1, .scalar 1, 1, 0, 0, 0⟩] }) b ∧ SGuard.holds .always b.tile = true ∧ (b.pendingErr.isNone && !b.tile.infl.isEmpty) = true) ∧
    ∃ b, SlotIs WT b ∧ SGuard.holds .always b.tile = true ∧ (b.pendingErr.isNone && b.tile.infl.isEmpty && !WT.rgateWaits b) = true :=
  ⟨issues_at _ (by decide +kernel), issues_at _ (by decide +kernel), slot_at _ (by decide +kernel), slot_at _ (by decide +kernel)⟩
theorem test_hyps_RolesAndMilestones :
    (∃ b w th, Issues (.role H 3) H (inImg W 0) T0 b w th ∧ (((inImg W 0).varOf b).any fun v => v.entry.getD 3 0xFFFFFFFF == 0xFFFFFFFF) = true) ∧
    (∃ b w th, Issues (.role H 0) H (inImg WRows 0) T0 b w th ∧ let s := (inImg WRows 0)
      ((s.varOf b).any fun v => v.entry.getD 0 0xFFFFFFFF != 0xFFFFFFFF && decide (v.rows.getD 0 0 ≤ w.rows) && w.ops.isEmpty && w.threads.length == 1 && b.warps.length == 1) = true) ∧
    (∃ b w th, Issues (.mile H 0 false 9) H (inImg W 0) T0 b w th ∧ (((inImg W 0).gridOf b).any fun g => ((inImg W 0).varOf b).any fun v => (g.img.msOf v 9).isNone) = true) ∧
    (∃ b w th, Issues (.mile H 0 false 3) H (inImg (W2 id) 0) T0 b w th ∧ let s := inImg (W2 id) 0
      ((s.gridOf b).any fun g => (s.varOf b).any fun v => (g.img.msOf v 3).isSome && b.live.any fun u => u != T0 && (s.thread? u).all fun y => y.st != .arrived) = true) ∧
    ∃ b w th, Issues (.mile H 0 true 3) H (inImg W 0) T0 b w th ∧ let s := inImg W 0
      ((s.gridOf b).any fun g => (s.varOf b).any fun v => (g.img.msOf v 3).isSome && b.live == [T0] && g.img.classOf (s.rv T0 0).toNat == some b.sclass) = true :=
  ⟨issues_at _ (by decide +kernel), issues_at _ (by decide +kernel), issues_at _ (by decide +kernel), issues_at _ (by decide +kernel), issues_at _ (by decide +kernel)⟩
/-- The checks of IssuesBound, and more. -/
def boundB (s : State) (i : Instr) (h : Hdr) (P : Block → Warp → Thread → Bool) : Bool :=
  atB s fun b w th => decide (s.cur.threads = [T0]) && s.cur.again.isNone && s.ready T0 i.laClass && s.clear T0 i && decide (th.st = .running) && !s.privBad b.ctx th i &&
    (firstUnalloc w.alloc th.hmode i.fields).isNone && !lookBad i th && !s.regUe b T0 i && s.guard T0 h &&
    (i.fields.all fun f => f.dst || (List.range f.n).all fun k => !th.mapped (f.reg + BitVec.ofNat 8 k)) && P b w th
theorem bound_at {s : State} {i : Instr} {h : Hdr} (P : Block → Warp → Thread → Bool) (hk : boundB s i h P = true) :
    ∃ b w th, IssuesBound i h s T0 b w th ∧ P b w th = true := by
  obtain ⟨b, w, th, ha, hp⟩ := at_of _ hk
  simp only [Bool.and_eq_true, Bool.not_eq_true', decide_eq_true_eq, Option.isNone_iff_eq_none] at hp
  obtain ⟨⟨⟨⟨⟨⟨⟨⟨⟨⟨⟨h1, h2⟩, h3⟩, hc⟩, h4⟩, h5⟩, h6⟩, h7⟩, h8⟩, h9⟩, h10⟩, h11⟩ := hp
  refine ⟨b, w, th, ⟨ha, h1, h2, h3, hc, h4, h5, h6, h7, h8, h9, ?_⟩, h11⟩
  intro f hf hd k hk
  have := List.all_eq_true.mp h10 f hf
  rw [hd, Bool.false_or, List.all_eq_true] at this
  simpa using this k (List.mem_range.mpr hk)
/-- A queue object at 0x240 of 16 elements at 0x600, bound in binding 1; tl: its TAIL. -/
def WQ (prod : Bool) (tl : Nat) : State :=
  put8 (thr fun th => { th with regs := [(0, 0x240), (2, 9)], binds := [(1, ⟨0x240, prod, 5⟩)] })
    [(0x240, 0x600), (0x248, 16), (0x250, 1), (0x258, 0), (0x260, tl), (0x268, tl), (0x270, 0), (0x278, 0)]
theorem queue_of {m : Mem} {pa base cap prods hd tl : Nat} (k : Nat) (h : (Mem.readN m pa 8 = base ∧ Mem.readN m (pa + 8) 4 = cap ∧ Mem.readN m (pa + 0x10) 4 = prods ∧
    Mem.readN m (pa + 0x18) 8 = hd ∧ Mem.readN m (pa + 0x20) 8 = tl ∧ base % 64 = 0) ∧ (4 ≤ k ∧ k ≤ 20 ∧ cap = 2 ^ k) ∧ Mem.readN m (pa + 0xC) 1 ≤ 4 ∧
    Mem.readN m (pa + 0xD) 1 = 0 ∧ Mem.readN m (pa + 0xE) 2 = 0 ∧ Mem.readN m (pa + 0x14) 4 = 0 ∧ Mem.readN m (pa + 0x30) 16 = 0) :
    QueueIs m pa base cap prods hd tl :=
  ⟨h.1.1, h.1.2.1, h.1.2.2.1, h.1.2.2.2.1, h.1.2.2.2.2.1, h.1.2.2.2.2.2, ⟨k, h.2.1⟩, h.2.2⟩
theorem test_hyps_Queues :
    (∃ b w th, IssuesBound (.qmap H 1 0 false 1) H W T0 b w th ∧ true = true) ∧ (∃ b w th, IssuesBound (.qmap H 5 0 false 1) H (WQ false 0) T0 b w th ∧ true = true) ∧
    (∃ b w th, IssuesBound (.qpush H 4 2 0 false 0) H (WQ true 0) T0 b w th ∧ (SMap.get? th.binds 0).isNone = true) ∧
    ((∃ b w th, IssuesBound (.qpush H 4 2 0 false 1) H (WQ true 15) T0 b w th ∧ (SMap.get? th.binds 1 == some ⟨0x240, true, 5⟩ && !th.mapped 4) = true) ∧
      Held (WQ true 15) T0 0x240 64 .write 0x240 ∧ Quiet (WQ true 15) 0 ∧ QueueIs (WQ true 15).mem 0x240 0x600 16 1 0 15 ∧ Held (WQ true 15) T0 (0x600 + 4 * (15 % 16)) 4 .write 0x63C) ∧
    ((∃ b w th, IssuesBound (.qpush H 4 2 0 false 1) H (WQ true 16) T0 b w th ∧ (SMap.get? th.binds 1 == some ⟨0x240, true, 5⟩ && !th.mapped 4) = true) ∧
      Held (WQ true 16) T0 0x240 64 .write 0x240 ∧ Quiet (WQ true 16) 0 ∧ QueueIs (WQ true 16).mem 0x240 0x600 16 1 0 16) ∧
    (∃ b w th, IssuesBound (.qclose H 4 1) H (WQ false 0) T0 b w th ∧ ((SMap.get? th.binds 1).all fun y => !y.prod) = true) ∧
    ∃ b w th, IssuesBound (.qclose H 4 1) H (WQ true 16) T0 b w th ∧ (SMap.get? th.binds 1 == some ⟨0x240, true, 5⟩ && !th.mapped 4) = true :=
  ⟨bound_at _ (by decide +kernel), bound_at _ (by decide +kernel), bound_at _ (by decide +kernel),
    ⟨bound_at _ (by decide +kernel), held_of (by decide +kernel), quiet_of (by decide +kernel), queue_of 4 (by decide +kernel), held_of (by decide +kernel)⟩,
    ⟨bound_at _ (by decide +kernel), held_of (by decide +kernel), quiet_of (by decide +kernel), queue_of 4 (by decide +kernel)⟩,
    bound_at _ (by decide +kernel), bound_at _ (by decide +kernel)⟩

/-- A state with a second page for trail headers and blocks at 0x10000. -/
def trailed (s : State) : State := s.modCore 0 fun c => { c with tlb := [⟨0, 0, 16, 0, 0x73⟩, ⟨0, 16, 16, 0x10000, 0x77⟩] }
/-- A trail header at 0x10000 of 16 slots of 8 bytes, 16 to a block, with its block table at 0x300 and its pool's header at 0x400, whose counts are at 0x500. -/
def WTr (st cl rl cnt : Nat) (l : SMap Word) : State :=
  put8 (trailed (regs ((0, 0x10000) :: l))) [(0x10000, st + 2 ^ 32 * 8), (0x10008, 16), (0x10010, cl), (0x10018, rl), (0x10020, 0x300), (0x10028, 0x400), (0x10030, 16),
    (0x300, 3), (0x400, 0x10800), (0x408, 128), (0x420, 0x10500), (0x10500, cnt * 2 ^ 48)]
theorem trail_of {m : Mem} {pa ml cl rl : Nat} (h : Mem.readN m pa 4 = 1 ∧ Mem.readN m (pa + 8) 8 = ml ∧ Mem.readN m (pa + 0x10) 8 = cl ∧ Mem.readN m (pa + 0x18) 8 = rl ∧
    Mem.readN m (pa + 0x50) 32 = 0 ∧ cl ≤ rl ∧ rl ≤ ml ∧ ml < 2 ^ 62) : TrailIs m pa ml cl rl 0 := by
  refine ⟨h.1, h.2.1, h.2.2.1, h.2.2.2.1, h.2.2.2.2.1, h.2.2.2.2.2.1, h.2.2.2.2.2.2.1, h.2.2.2.2.2.2.2, by decide, fun k hk => ?_⟩
  rcases hk with hk | hk
  · omega
  · exact absurd hk.2 (by simp)
theorem test_hyps_TrailSlots_trres :
    ((∃ b w th, Issues (.trres H 4 0 2) H (WTr 1 0 4 0 [(2, 12)]) T0 b w th ∧ true = true) ∧ Maps (WTr 1 0 4 0 [(2, 12)]) T0 0x10000 256 .trail 0x10000 0x77 ∧ Quiet (WTr 1 0 4 0 [(2, 12)]) 0 ∧
      TrailIs (WTr 1 0 4 0 [(2, 12)]).mem 0x10000 16 0 4 0 ∧ ((WTr 1 0 4 0 [(2, 12)]).rv T0 2).toNat = 12) ∧
    ((∃ b w th, Issues (.trres H 4 0 2) H (WTr 1 0 4 0 [(2, 13)]) T0 b w th ∧ true = true) ∧ TrailIs (WTr 1 0 4 0 [(2, 13)]).mem 0x10000 16 0 4 0) ∧
    (∃ b w th, Issues (.trres H 4 0 2) H (WTr 2 0 4 0 [(2, 13)]) T0 b w th ∧ true = true) ∧ Mem.readN (WTr 2 0 4 0 [(2, 13)]).mem 0x10000 4 ≠ 1 :=
  ⟨⟨issues_at _ (by decide +kernel), maps_of (by decide +kernel), quiet_of (by decide +kernel), trail_of (by decide +kernel), by decide +kernel⟩,
    ⟨issues_at _ (by decide +kernel), trail_of (by decide +kernel)⟩, issues_at _ (by decide +kernel), by decide +kernel⟩
theorem reads_of {s : State} {va n pa v : Nat} (h : (held s va n .read pa && Mem.readN s.mem pa n == v) = true) : Reads s T0 va n pa v := by
  simp only [Bool.and_eq_true, beq_iff_eq] at h
  exact ⟨held_of h.1, h.2⟩
/-- A trail of one slot reserved, none committed, in block 3 with count 1. -/
def WTst : State := WTr 1 0 1 1 [(2, 0), (4, 0xAB)]
theorem test_hyps_TrailSlots_trst :
    (∃ b w th, Issues (.trst H 0 2 4 0 .b64) H WTst T0 b w th ∧ ((WTst.watchHit 0 b.ctx 0x10980 8 false true).isNone) = true) ∧ Quiet WTst 0 ∧ Held WTst T0 0x10000 256 .read 0x10000 ∧
    TrailIs WTst.mem 0x10000 16 0 1 0 ∧ (WTst.pair T0 2).toNat = 0 ∧ ¬ slotDone 0 0 0 ∧ Mem.readN WTst.mem 0x10004 4 = 8 ∧ Mem.readN WTst.mem 0x10030 4 = 16 ∧
    Mem.readN WTst.mem 0x10020 8 = 0x300 ∧ Mem.readN WTst.mem 0x10028 8 = 0x400 ∧ Reads WTst T0 (0x300 + 4 * (0 / 16)) 4 0x300 3 ∧ Reads WTst T0 0x420 8 0x420 0x10500 ∧
    Reads WTst T0 (0x10500 + 2 * 3) 2 0x10506 1 ∧ Reads WTst T0 0x400 8 0x400 0x10800 ∧ Reads WTst T0 0x408 8 0x408 128 ∧ Held WTst T0 (0x10800 + 3 * 128 + 8 * (0 % 16) + 8 * 0) 8 .trail 0x10980 :=
  ⟨issues_at _ (by decide +kernel), quiet_of (by decide +kernel), held_of (by decide +kernel), trail_of (by decide +kernel), by decide +kernel, by unfold slotDone; decide, by decide +kernel,
    by decide +kernel, by decide +kernel, by decide +kernel, reads_of (by decide +kernel), reads_of (by decide +kernel), reads_of (by decide +kernel), reads_of (by decide +kernel),
    reads_of (by decide +kernel), held_of (by decide +kernel)⟩
/-- A trail with two slots reserved, the thread about to commit them. -/
def WTc : State := WTr 1 0 2 1 [(2, 0), (4, 2)]
theorem test_hyps_TrailSlots_trcommit :
    (∃ b w th, Issues (.trcommit H 6 0 2 4) H WTc T0 b w th ∧ true = true) ∧ Maps WTc T0 0x10000 256 .trail 0x10000 0x77 ∧ Quiet WTc 0 ∧ TrailIs WTc.mem 0x10000 16 0 2 0 ∧
    WTc.waiters (fun w => w.kind == .trwait && w.mask == 0x10000) = [] ∧ (WTc.pair T0 2).toNat = 0 ∧ (WTc.rv T0 4).toNat = 2 ∧ ∀ k, 0 ≤ k → k < 0 + 2 → ¬ slotDone 0 0 k := by
  refine ⟨issues_at _ (by decide +kernel), maps_of (by decide +kernel), quiet_of (by decide +kernel), trail_of (by decide +kernel), by decide +kernel, by decide +kernel, by decide +kernel, ?_⟩
  intro k _ _ h
  rcases h with h | h
  · omega
  · exact absurd h.2 (by simp)
theorem test_hyps_TrailSlots_lengths :
    ((∃ b w th, Issues (.trlen H 4 0) H (WTr 1 4 4 0 [(2, 4)]) T0 b w th ∧ true = true) ∧ (∃ b w th, Issues (.trwait H 4 0 2) H (WTr 1 4 4 0 [(2, 4)]) T0 b w th ∧ true = true) ∧
      Maps (WTr 1 4 4 0 [(2, 4)]) T0 0x10000 256 .read 0x10000 0x77 ∧ Quiet (WTr 1 4 4 0 [(2, 4)]) 0 ∧ ((WTr 1 4 4 0 [(2, 4)]).pair T0 2).toNat ≤ Mem.readN (WTr 1 4 4 0 [(2, 4)]).mem 0x10010 8) ∧
    ((∃ b w th, Issues (.trwait H 4 0 2) H (WTr 1 4 4 0 [(2, 16)]) T0 b w th ∧ true = true) ∧ ((WTr 1 4 4 0 [(2, 16)]).pair T0 2).toNat = 16 ∧ Mem.readN (WTr 1 4 4 0 [(2, 16)]).mem 0x10008 8 = 16) ∧
    (∃ b w th, Issues (.trwait H 4 0 2) H (WTr 1 4 4 0 [(2, 17)]) T0 b w th ∧ true = true) ∧ Mem.readN (WTr 1 4 4 0 [(2, 17)]).mem 0x10000 4 = 1 :=
  ⟨⟨issues_at _ (by decide +kernel), issues_at _ (by decide +kernel), maps_of (by decide +kernel), quiet_of (by decide +kernel), by decide +kernel⟩,
    ⟨issues_at _ (by decide +kernel), by decide +kernel, by decide +kernel⟩, issues_at _ (by decide +kernel), by decide +kernel⟩
/-- Declaration 0: 16 slots of 8 bytes from the pool of declaration 1; block 3 of the pool is reserved. -/
def decl0 : TrailE := ⟨0, 0, 1, 8, 16, 16⟩
/-- A grid with it. -/
def inPool (s : State) : State := s.modGrid 0 fun g => { g with img := { g.img with trails := [decl0] }, resv := [⟨1, 0x400, [3]⟩] }
/-- The declaration and the reservation are the grid's. -/
def poolB (s : State) : Bool := s.grids.head?.any fun g => g.img.trails[0]? == some decl0 && g.resv.find? (fun r => r.decl == 1) == some ⟨1, 0x400, [3]⟩
/-- No header at 0x10000; the block table is to be at 0x300. -/
def WNew : State := inPool (WTr 0 0 0 0 [(2, 0x300)])
theorem test_hyps_TrailLives_trnew :
    (∃ b w th, Issues (.trnew H 4 0 2 0) H WNew T0 b w th ∧ (poolB WNew && b.grid == 0) = true) ∧ Quiet WNew 0 ∧ Held WNew T0 0x10000 256 .trail 0x10000 ∧ Mem.readN WNew.mem 0x10000 4 ≠ 1 ∧
    DeclFits decl0 ∧ Held WNew T0 0x300 4 .write 0x300 ∧ (WNew.pair T0 2).toNat = 0x300 ∧ Reads WNew T0 (0x400 + 0x20) 8 0x420 0x10500 ∧ Held WNew T0 (0x10500 + 2 * 3) 2 .pool 0x10506 ∧
    Apart [(0x10000, 256), (0x300, 4), (0x420, 8), (0x10506, 2)] :=
  ⟨issues_at _ (by decide +kernel), quiet_of (by decide +kernel), held_of (by decide +kernel), by decide +kernel, by unfold DeclFits; decide, held_of (by decide +kernel), by decide +kernel,
    reads_of (by decide +kernel), held_of (by decide +kernel), by unfold Apart; decide⟩
/-- A parent with 16 slots committed, a child at 0x10200 with its block table at 0x320. -/
def WFork : State := inPool (WTr 1 16 16 1 [(2, 16), (4, 0x10200), (6, 0x320)])
theorem test_hyps_TrailLives_trfork :
    (∃ b w th, Issues (.trfork H 4 0 2 0) H WFork T0 b w th ∧ (poolB WFork && b.grid == 0) = true) ∧ Quiet WFork 0 ∧ Held WFork T0 0x10000 256 .read 0x10000 ∧
    TrailIs WFork.mem 0x10000 16 16 16 0 ∧ (WFork.pair T0 2).toNat = 16 ∧ (WFork.pair T0 4).toNat = 0x10200 ∧ (WFork.pair T0 6).toNat = 0x320 ∧
    Held WFork T0 0x10200 256 .trail 0x10200 ∧ Mem.readN WFork.mem 0x10200 4 ≠ 1 ∧ Mem.readN WFork.mem 0x10004 4 = 8 ∧ Mem.readN WFork.mem 0x10030 4 = 16 ∧ Mem.readN WFork.mem 0x10028 8 = 0x400 ∧
    Mem.readN WFork.mem 0x10020 8 = 0x300 ∧ Held WFork T0 0x320 4 .write 0x320 ∧ Reads WFork T0 0x300 4 0x300 3 ∧ Reads WFork T0 (0x400 + 0x20) 8 0x420 0x10500 ∧
    Held WFork T0 (0x10500 + 2 * 3) 2 .pool 0x10506 ∧ Mem.readN WFork.mem 0x10506 2 = 1 ∧ Apart [(0x10000, 256), (0x10200, 256), (0x320, 4), (0x300, 4), (0x420, 8), (0x10506, 2)] :=
  ⟨issues_at _ (by decide +kernel), quiet_of (by decide +kernel), held_of (by decide +kernel), trail_of (by decide +kernel), by decide +kernel, by decide +kernel, by decide +kernel,
    held_of (by decide +kernel), by decide +kernel, by decide +kernel, by decide +kernel, by decide +kernel, by decide +kernel, held_of (by decide +kernel), reads_of (by decide +kernel),
    reads_of (by decide +kernel), held_of (by decide +kernel), by decide +kernel, by unfold Apart; decide⟩
/-- A trail whose block has two references. -/
def WRel : State := WTr 1 4 4 2 []
theorem test_hyps_TrailLives_trrel :
    (∃ b w th, Issues (.trrel H 4 0) H WRel T0 b w th ∧ (WRel.blocks.all fun x => x.warps.all fun w => w.threads.all fun y => y.st != .waiting && y.held.all fun o => o.kind != .commit) = true) ∧
    Quiet WRel 0 ∧ Held WRel T0 0x10000 256 .trail 0x10000 ∧ Mem.readN WRel.mem 0x10000 4 = 1 ∧ Mem.readN WRel.mem 0x10008 8 = 16 ∧ Mem.readN WRel.mem 0x10030 4 = 16 ∧
    Mem.readN WRel.mem 0x10028 8 = 0x400 ∧ Mem.readN WRel.mem 0x10020 8 = 0x300 ∧ Reads WRel T0 0x300 4 0x300 3 ∧ Reads WRel T0 (0x400 + 0x20) 8 0x420 0x10500 ∧
    Held WRel T0 (0x10500 + 2 * 3) 2 .pool 0x10506 ∧ Mem.readN WRel.mem 0x10506 2 = 2 ∧ Apart [(0x10000, 256), (0x300, 4), (0x420, 8), (0x10506, 2)] :=
  ⟨issues_at _ (by decide +kernel), quiet_of (by decide +kernel), held_of (by decide +kernel), by decide +kernel, by decide +kernel, by decide +kernel, by decide +kernel, by decide +kernel,
    reads_of (by decide +kernel), reads_of (by decide +kernel), held_of (by decide +kernel), by decide +kernel, by unfold Apart; decide⟩
/-- Queue 0 enabled and fed by the device, of 16 records at 0x1000; ring 0 of the transform engines likewise, of 16 blocks. -/
def WLq : State := ((((regs [(0, 0x800)]).setReg (lqReg 0 0 1) 0x421).setReg (lqReg 0 0 0) 0x1000).setReg (xrReg 0 0 1) 0x1401).setReg (xrReg 0 0 0) 0x2000
theorem test_hyps_LaunchAndKick :
    ((∃ b w th, Issues (.launch H 2 0 1) H WLq T0 b w th ∧ (!(bit (WLq.regN (lqReg b.ctx 1 1)) 0 && bit (WLq.regN (lqReg b.ctx 1 1)) 5)) = true) ∧ Quiet WLq 0 ∧ Held WLq T0 0x800 128 .read 0x800) ∧
    ((∃ b w th, Issues (.launch H 2 0 0) H WLq T0 b w th ∧ ((bit (WLq.regN (lqReg b.ctx 0 1)) 0 && bit (WLq.regN (lqReg b.ctx 0 1)) 5) && decide (((WLq.lq b.ctx 0).tail - (WLq.lq b.ctx 0).head).toNat <
        2 ^ bits (WLq.regN (lqReg b.ctx 0 1)) 11 8)) = true) ∧ Held WLq T0 0x1000 128 .write 0x1000) ∧
    (∃ b w th, Issues (.xkick H 2 0 0 false 0) H WLq T0 b w th ∧ (bit (WLq.regN (xrReg b.ctx 0 1)) 0 && WLq.regN (xrReg b.ctx 0 3) == 0 && WLq.regN (xrReg b.ctx 0 2) == 0 &&
      2 ^ bits (WLq.regN (xrReg b.ctx 0 1)) 11 8 == 16 && w.ops.isEmpty) = true) ∧ Held WLq T0 0x800 64 .read 0x800 ∧ Held WLq T0 0x2000 64 .write 0x2000 :=
  ⟨⟨issues_at _ (by decide +kernel), quiet_of (by decide +kernel), held_of (by decide +kernel)⟩, ⟨issues_at _ (by decide +kernel), held_of (by decide +kernel)⟩,
    issues_at _ (by decide +kernel), held_of (by decide +kernel), held_of (by decide +kernel)⟩
/-- A pending value; a queue with a ready element whose consumer waits; a cause that waits; a thread that has waited long at a rendezvous. -/
def WVal : State := thr fun th => { th with pend := [⟨1, 2, some 5, 0, 0, 1⟩] }
def WTake : State :=
  put8 (thr fun th => { th with st := .waiting, wait := some ⟨.queueTake, 0, 0x240, 0, 0⟩ }) [(0x240, 0x600), (0x248, 16), (0x250, 1), (0x258, 0), (0x260, 1), (0x268, 1), (0x600, 77)]
def WImp : State := thr fun th => { th with imps := [causeOf 0x08 0 0] }
def WStall : State := ((W2 id).modThread T0 (arrive 0x46)).modBlock 0 0 fun b => { b with fptimer := 65536 * 256 }
theorem test_hyps_ThreadEvents :
    (∃ b w th, At WVal T0 b w th ∧ (th.watch.isNone && th.trapq.isNone && th.binds.isEmpty && th.pend.find? (fun p => p.value.isSome) == some ⟨1, 2, some 5, 0, 0, 1⟩) = true) ∧
    (∃ b w th, At (thr fun th => { th with snooze := some 0 }) T0 b w th ∧ (th.snooze == some 0) = true) ∧
    ((∃ b w th, At WTake T0 b w th ∧ (th.st == .waiting && th.wait == some ⟨.queueTake, 0, 0x240, 0, 0⟩) = true) ∧ Quiet WTake 0 ∧ Held WTake T0 0x240 64 .write 0x240 ∧
      QueueIs WTake.mem 0x240 0x600 16 1 0 1 ∧ Mem.readN WTake.mem 0x268 8 = 1 ∧ Held WTake T0 0x600 4 .read 0x600) ∧
    (∃ b w th, At WImp T0 b w th ∧ (!b.stopped && !b.preReq && th.st == .running && !th.hmode && th.trapq.isNone && th.imps == [causeOf 0x08 0 0]) = true) ∧
    ∃ b w th, At WStall T0 b w th ∧ ((WStall.reg (fptKey b.ctx)).toNat != 0 && decide (65536 * (WStall.reg (fptKey b.ctx)).toNat ≤ b.fptimer) &&
      b.refs.find? (fun t => (b.thread? t.warp t.lane).any Thread.stalls) == some T0 && th.wait.isSome) = true :=
  ⟨at_of _ (by decide +kernel), at_of _ (by decide +kernel), ⟨at_of _ (by decide +kernel), quiet_of (by decide +kernel), held_of (by decide +kernel), queue_of 4 (by decide +kernel),
    by decide +kernel, held_of (by decide +kernel)⟩, at_of _ (by decide +kernel), at_of _ (by decide +kernel)⟩

/-- A handle of 64 by 64 (or n by n) FP32 elements; a ring of 2^20 bytes. -/
def hnd (n : Nat) : Handle := ⟨.fp32, false, 0, 0, 8, 0, n, n⟩
/-- A tile context with two bound handles, and MSRC naming them in FP32. -/
def til2 : TileCtx → TileCtx := fun t =>
  { t with handles := [(0, hnd 128), (1, hnd 128)], nest := { t.nest with msrc := BitVec.ofNat 33 (16 * 2 ^ 28 + 17 * 2 ^ 23) } }
/-- A block with them and 16 accumulator rows of 8. -/
def WM : State := (til til2).modBlock 0 0 fun b => { b with accu := List.range 16, acckb := 64, rings := [(0, ⟨true, 13, 0, 0, 0, 0, [], [], []⟩)] }
/-- The block of the slot. -/
def blk (s : State) : Block := (s.block? 0 0).getD (oneBlock true)
theorem test_hyps_ScalarSlot :
    ((scalarRule (.sadd .always 1 2 3) (blk WT).tile.sv).isSome = true ∧ ∃ b, SlotIs WT b ∧ SGuard.holds .always b.tile = true ∧ (b == blk WT) = true) ∧
    (sGuard (.sadd (.sg 2) 1 2 3) = some (.sg 2) ∧ slotGuard (.xs2t (.sg 2) 1 2) = some (.sg 2) ∧ ∃ b, SlotIs WT b ∧ SGuard.holds .always b.tile = true ∧ (!SGuard.holds (.sg 2) b.tile) = true) ∧
    (jumpRule (.scall .always 1 2) (blk WT).tile.sv (blk WT).tile.pc).isSome = true ∧
    (∃ b, SlotIs WT b ∧ SGuard.holds .always b.tile = true ∧ (WT.poolBad.isEmpty && (b.tile.sv 0 + (4088#16).signExtend 64).toNat == 4088 && decide (4088 + 8 ≤ 4096 * b.sprows) &&
      (b.tile.sv 0 + (4#16).signExtend 64).toNat % 8 != 0 && decide (4096 * b.sprows < (b.tile.sv 0 + (4096#16).signExtend 64).toNat + 8)) = true) :=
  ⟨⟨rfl, slot_at _ (by decide +kernel)⟩, ⟨rfl, rfl, slot_at _ (by decide +kernel)⟩, rfl, slot_at _ (by decide +kernel)⟩
/-- Scalar 1 holds 3 and counter 2 has a loop of 4 passes at pass k. -/
def WLoop (k : Word) : State := til fun t => { t with s := [(1, 3)], lc := [(2, k)], loops := [(2, ⟨4, 2, 0, true⟩)], loopOrd := [2] }
theorem test_hyps_LoopsAndControl :
    (∃ b, SlotIs (WLoop 0) b ∧ SGuard.holds .always b.tile = true ∧ ((b.tile.loopRec 2).active && !(b.tile.loopRec 3).active && (b.tile.sv 1).extractLsb' 0 32 == 3 &&
      (b.tile.sv 0).extractLsb' 0 32 == 0 && (b.tile.loopRec 2).passes == 4 && SMap.get b.tile.lc 2 0 == 0) = true) ∧
    (∃ b, SlotIs (WLoop 3) b ∧ SGuard.holds .always b.tile = true ∧ ((b.tile.loopRec 2).active && decide ((b.tile.loopRec 2).passes ≤ (SMap.get b.tile.lc 2 0).toNat + 1) && !(b.tile.loopRec 0).active) = true) ∧
    (∃ b, SlotIs (WT.modBlock 0 0 fun b => { b with spad := Mem.writeN [] 72 0x1000100010001 8 }) b ∧ SGuard.holds .always b.tile = true ∧
      (!portBad (Mem.readN b.spad (b.tile.sv 0 + (64#16).signExtend 64).toNat 64) && portBad (Mem.readN b.spad (b.tile.sv 0 + (0#16).signExtend 64).toNat 64) &&
        decide (4096 * b.sprows < (b.tile.sv 0 + (4096#16).signExtend 64).toNat + 64)) = true) ∧
    (∃ b, SlotIs WT b ∧ SGuard.holds .always b.tile = true ∧ ((needErr .copy 0 b.tile.ops).isNone && decide (countOps b.tile.ops .copy ≤ 0)) = true) ∧
    ∃ b, SlotIs (til fun t => { t with ops := [⟨1, .copy, false, false, none⟩] }) b ∧ SGuard.holds .always b.tile = true ∧ ((needErr .copy 0 b.tile.ops).isNone && decide (0 < countOps b.tile.ops .copy)) = true :=
  ⟨slot_at _ (by decide +kernel), slot_at _ (by decide +kernel), slot_at _ (by decide +kernel), slot_at _ (by decide +kernel), slot_at _ (by decide +kernel)⟩
theorem test_hyps_FormatTableWrites :
    (∃ b, SlotIs (til fun t => { t with s := [(1, 0x3F9), (2, 0x400), (3, 10)] }) b ∧ SGuard.holds .always b.tile = true ∧ ((b.tile.sv 1).toNat == 0x3F9 && (b.tile.sv 2).toNat == 0x400 && (b.tile.sv 3).toNat % 16 == 10) = true) ∧
    (0x3F9 < 2 ^ 10 ∧ 0x3F9 % 16 < 10) ∧ ∃ t1 t2, landRule ⟨1, .fmt 5, 0, 0, 0x3F3, 0⟩ { TileCtx.empty with lc := [(2, 5)] } = some t1 ∧ landRule ⟨1, .fsel, 0, 0, 2, 0⟩ t1 = some t2 ∧
      (SMap.get t1.lc 2 0).toNat % 16 = 5 ∧ (Fmt.ofCode (BitVec.ofNat 4 (0x3F3 % 16))).isSome = true :=
  ⟨slot_at _ (by decide +kernel), by decide, _, _, rfl, rfl, by decide, by decide⟩
theorem test_hyps_TransfersOfTheXSlot : ∃ b, SlotIs WT b ∧ SGuard.holds .always b.tile = true ∧ true = true := slot_at _ (by decide +kernel)
/-- A full counter; a full table. -/
def ops63 : List Op := List.replicate 63 ⟨1, .matrix, false, false, none⟩
def aPass (id : Nat) : Pass := ⟨id, 0, 0, 0, 0, 0, id, 0, (til2 TileCtx.empty).nest, 0, 0, some (hnd 128), some (hnd 128), none, 0, [], (0, 0)⟩
theorem test_hyps_MatrixSlot :
    (∃ b, SlotIs WM b ∧ SGuard.holds .always b.tile = true ∧ (countOps b.tile.ops .matrix == 0 && (WM.quad (quadOf b.core)).tab.isEmpty &&
      (mgoCheck b b.tile.nest (b.tile.selEntry (bits b.tile.nest.msrc.toNat 22 19)) (b.tile.selEntry (bits b.tile.nest.msrc.toNat 18 15)) WM.cur.word.toNat).isNone &&
      (mretCheck b (.ring 0) (entryFmt (b.tile.selEntry (FSel.code (.fmt .fp32)).toNat)).1 (bits b.tile.nest.macc.toNat 32 22) WM.cur.word.toNat).isNone) = true) ∧
    (∃ b, SlotIs (til fun t => { t with ops := ops63 }) b ∧ SGuard.holds .always b.tile = true ∧ decide (63 ≤ countOps b.tile.ops .matrix) = true) ∧
    ∃ b, SlotIs (WM.modQuad 0 fun q => { q with tab := List.replicate 4 (aPass 1) }) b ∧ SGuard.holds .always b.tile = true ∧
      decide (4 ≤ (((WM.modQuad 0 fun q => { q with tab := List.replicate 4 (aPass 1) }).quad (quadOf b.core)).tab.filter fun p => p.core == b.core && p.slot == b.slot).length) = true :=
  ⟨slot_at _ (by decide +kernel), slot_at _ (by decide +kernel), slot_at _ (by decide +kernel)⟩
theorem test_hyps_VectorSlot :
    ((vecRule (.vadd .always (.w 1) (.w 2) .wz (.fmt .fp32)) (blk WT).tile.sv).isSome = true ∧ inForce (blk WT).tile (.fmt .fp32) (.fp32, 0) ∧
      (opLanes (blk WT).tile (.w 2)).isSome = true ∧ (opLanes (blk WT).tile .wz).isSome = true ∧ vecDest (.w 1) = some (.vector 1) ∧ ∃ b, SlotIs WT b ∧ SGuard.holds .always b.tile = true ∧ (b == blk WT) = true) ∧
    (inForce (blk WT).tile .table (.fp32, 0) ∧ Fmt.fp32 ∈ [Fmt.fp32, .fp16, .bf16, .tf8, .tf6, .int8, .int32, .uint8] ∧ (opLanes (blk WT).tile (.lit 5)).isSome = true) ∧ (64#7).toNat ≤ 64 :=
  ⟨⟨rfl, rfl, rfl, rfl, rfl, slot_at _ (by decide +kernel)⟩, ⟨⟨by decide, by decide⟩, by decide, rfl⟩, by decide⟩
theorem test_hyps_TileTransposes :
    (∃ b, SlotIs (til til2) b ∧ SGuard.holds .always b.tile = true ∧ ((til til2).poolBad.isEmpty && SMap.get? b.tile.handles 0 == some (hnd 128) && SMap.get? b.tile.handles 1 == some (hnd 128) &&
      decide ((hnd 128).nrows * (hnd 128).ncols ≤ 16384)) = true) ∧ inForce (blk WT).tile (.fmt .fp32) (.fp32, 0) ∧
    ∃ b, SlotIs WT b ∧ SGuard.holds .always b.tile = true ∧ (SMap.get? b.tile.handles 3).isNone = true :=
  ⟨slot_at _ (by decide +kernel), rfl, slot_at _ (by decide +kernel)⟩
/-- A command of tensor t, ring 0, scalars from 0 on. -/
def fldOf (t : BitVec 10) : CFld := ⟨t, .ring 0, 0, 0, false⟩
/-- Its modifiers, none. -/
def mod0 : CMod := ⟨false, false, false, none, 0, false, false, 0⟩
/-- CLD of tensor t. -/
def Ld (t : BitVec 10) : Instr := .cld .always (fldOf t) mod0
/-- A tensor record at 0x2000 of one dimension of 16 FP32 elements at 0x2400, a box of n elements, ring 0 of 256 bytes; the image has one record. -/
def WCmd (n : Dword) : State :=
  let s := ((til fun t => { t with s := [(3, 0x0001000100010000 + n), (4, 0x10001)] }).modBlock 0 0 fun b => { b with rings := [(0, ⟨true, 0, 0, 0, 0, 0, [], [], []⟩)] }).modGrid 0 fun g =>
    { g with img := { g.img with tensOff := 0x2000, tensCount := 1, bufs := [⟨0x3000, 4096, 4096, 0⟩] } }
  put8 (s.modQuad 0 fun q => { q with tlb := [⟨0, 0, 16, 0, 0x73⟩] }) [(0x2000, 0x2400), (0x2008, 0xFFFF000000000200), (0x2010, 16)]
/-- What CLD of tensor 0 reads of it. -/
def recOf (s : State) : State × Nat := match s.gridOf (blk s) with
  | some gr => (match s.recFetch (blk s) gr 0 false with | .ok s1 bs _ => (s1, leNat bs) | _ => (s, 0))
  | none => (s, 0)
/-- The hypotheses of a command, and its check. -/
def cmdB (s : State) (P : Option (Nat × Nat) → Bool) : Bool :=
  okSlot s .always fun b => (s.gridOf b).any fun gr => !s.cmdFull b .copy && decide (0 < gr.img.tensCount) && !tensorBad (recOf s).2 gr.img.bufs.length &&
    (match s.recFetch b gr 0 false with | .ok _ bs _ => leNat bs == (recOf s).2 | _ => false) && P ((issued (Ld 0) (fldOf 0) b.tile (recOf s).2 0).check b gr s.cur.word.toNat)
theorem test_hyps_CopySlot :
    cmdB (WCmd 16) (fun c => c.isNone) = true ∧ cmdB (WCmd 17) (fun c => c == some (0x07, 0)) = true ∧
    (copyRule (Ld 1) = some (.always, fldOf 1, none, .copy) ∧ ∃ b, SlotIs (WCmd 16) b ∧ SGuard.holds .always b.tile = true ∧ (((WCmd 16).gridOf b).any fun gr => decide (gr.img.tensCount ≤ 1)) = true) ∧
    (∃ b, SlotIs (til fun t => { t with ops := List.replicate 63 ⟨1, .copy, false, false, none⟩ }) b ∧ SGuard.holds .always b.tile = true ∧
      ((til fun t => { t with ops := List.replicate 63 ⟨1, .copy, false, false, none⟩ }).cmdFull b .copy) = true) ∧
    ∃ b, SlotIs (til fun t => { t with s := [(1, 0x80000000), (2, 1), (3, 0x81400000)] }) b ∧ SGuard.holds .always b.tile = true ∧
      (decide (countOps b.tile.ops .copy < 63) && (b.tile.sv 1).toNat == 0x80000000 && (b.tile.sv 2).toNat % 256 != 0 && decide (4096 * b.sprows < (b.tile.sv 3).toNat % 2 ^ 22 + 2 ^ ((b.tile.sv 3).toNat / 2 ^ 22 % 2 ^ 4 + 8)) && (b.tile.sv 3).toNat % 256 == 0 &&
        (b.ring 0).pops.isEmpty) = true :=
  ⟨by decide +kernel, by decide +kernel, ⟨rfl, slot_at _ (by decide +kernel)⟩, slot_at _ (by decide +kernel), slot_at _ (by decide +kernel)⟩
/-- A result in flight that has run out; a port about to deliver; a held command. -/
def inFl : InFlight := ⟨1, .scalar 3, 0, 1, 77, 0⟩
def heldCmd : Cmd := { id := 5, core := 0, slot := 0, ctx := 0, grid := 0, lin := 0, i := Ld 0, grp := [], rec1 := 0, rec2 := 0, hnd := none, ixs := 0, tpc := 0, st := .held, va := 0, pos := 0, crc := 0, chunks := [],
                       counted := 0, err := none, watched := false, after := (0, 0) }
theorem test_hyps_TileEvents :
    ((blk (til fun t => { t with infl := [inFl] })).tile.infl.filter (fun f => f.rem == 0) = [inFl] ∧ (landRule inFl TileCtx.empty).isSome = true) ∧
    (SMap.get? (blk (til fun t => { t with ports := [(1, ⟨0, 0, 1⟩)] })).tile.ports 1).any (fun p => p.arrive == 1) = true ∧
    (match decodeBundle 0 with | .error _ => false | .ok _ => true) = true ∧ (match decodeBundle (0xFF#256 <<< 248) with | .error _ => true | .ok _ => false) = true ∧
    let s := (til fun t => { t with stallRun := 256, stallOn := [5] }).modCore 0 fun c => { c with cq := [heldCmd], seqFree := false }
    256 ≤ (blk s).tile.stallRun ∧ (s.core 0).cq = [heldCmd] ∧ heldCmd.st = .held ∧ heldCmd.id ∈ (blk s).tile.stallOn ∧ (s.core 0).seqFree = false ∧ (s.core 0).seq = 0 :=
  ⟨⟨by decide +kernel, rfl⟩, by decide +kernel, by decide +kernel, by decide +kernel, by decide +kernel, rfl, rfl, by decide +kernel, rfl, rfl⟩

/-- Two passes in the table of quad 0; one that runs; an MRET to ring 0 whose passes have retired. -/
def WP2 : State := WM.modQuad 0 fun q => { q with tab := [aPass 1, aPass 2] }
def WRun : State := WM.modQuad 0 fun q => { q with run := some (aPass 1) }
def aMret : Mret := ⟨7, 0, .ring 0, 0, 0, false, none, [], 0, false, (0, 0)⟩
def WMr (full : Bool) : State := (WM.modCore 0 fun c => { c with mrets := [aMret] }).modBlock 0 0 fun b => if full then { b with rings := [(0, ⟨true, 13, 0, 0, 0, 2 ^ 21, [], [], []⟩)] } else b
theorem test_hyps_MatrixEngine :
    ((WP2.quad 0).run = none ∧ (WP2.quad 0).tab = [aPass 1, aPass 2] ∧ WP2.passMay (aPass 1) = true ∧ (aPass 2).skip < 8 ∧ (aPass 1).prio = (aPass 2).prio ∧ (aPass 1).age < (aPass 2).age) ∧
    ((WRun.quad 0).run = some (aPass 1) ∧ WRun.gridDead 0 = false ∧ (WRun.block? 0 0).isSome = true ∧ ((matOp (aPass 1).tab 0 0).any fun o => o.kd == 1 && o.a == .tile 0 && o.b == .tile 1) = true ∧
      (aPass 1).ha = some (hnd 128) ∧ (aPass 1).hb = some (hnd 128) ∧ (∀ l ∈ (aPass 1).tab.lv, l.e = 1) ∧ WRun.poolBad = [] ∧ WRun.accBad = [] ∧ ((WRun.gridOf (blk WRun)).all fun g => !g.nbv) = true) ∧
    ((WMr false).mretFront 0 0 = some aMret ∧ (entryFmt aMret.fmt).1 = .fp32 ∧ let r := (blk (WMr false)).ring 0;
      r.cfg = true ∧ r.waits = [] ∧ r.resvs = [] ∧ r.resv.toNat % 4 = 0 ∧ r.rbase % 4 = 0 ∧ 2 ^ 16 ≤ r.free ∧ 2 ^ 16 ≤ r.size) ∧
    (WMr true).mretFront 0 0 = some aMret ∧ ((blk (WMr true)).ring 0).free < 2 ^ 16 ∧ ((blk (WMr true)).ring 0).waits = [] := by
  refine ⟨⟨?_, ?_, ?_, ?_, ?_, ?_⟩, ⟨?_, ?_, ?_, ?_, ?_, ?_, ?_, ?_, ?_, ?_⟩, ⟨?_, ?_, ?_, ?_, ?_, ?_, ?_, ?_, ?_⟩, ?_, ?_, ?_⟩ <;> decide +kernel
/-- The entry that the arbiter picks, and one that it has selected. -/
theorem test_hyps_MatrixEngine_picks : (Picks WP2 0 (aPass 1) ∧ (WP2.quad 0).sel = none) ∧
    let s := WP2.modQuad 0 fun q => { q with sel := some 2 }
    (s.quad 0).run = none ∧ (s.quad 0).sel = some (aPass 2).id ∧ Entry s 0 (aPass 2) :=
  ⟨⟨⟨⟨by decide +kernel, by decide +kernel, by decide +kernel⟩, by decide +kernel⟩, by decide +kernel⟩, by decide +kernel, by decide +kernel, by decide +kernel, by decide +kernel, by decide +kernel⟩
/-- The state after the command has joined the queue, and the command. -/
def WCq (n : Dword) : State := match exec (Ld 0) (WCmd n) with | .next s => s | _ => WCmd n
def frontCmd (s : State) : Cmd := ((s.core 0).cq.head?).getD heldCmd
/-- The hypotheses of COPY_CMD_START but for the room. -/
def startB (s : State) : Bool :=
  let m := frontCmd s
  s.movers 0 == [m] && m.err.isNone && m.st == .queued && cmdKind m.i == .ld && (cmdFld m.i).loc == .ring 0 && ((s.home? m.grid m.lin).any fun b => b.grid == m.grid && b.lin == m.lin) && (s.grid? m.grid).isSome && (cmdMod m.i).xf.isNone &&
    !(cmdMod m.i).bar && !(cmdMod m.i).ver && m.pos == 0 && m.total == 64 && m.pieces == [⟨0, 64, .mem 0x2400, 0, .ring⟩] && s.poolBad.isEmpty && ((blk s).ring 0).waits.isEmpty && ((blk s).ring 0).resvs.isEmpty
/-- The ring is full. -/
def fill (s : State) : State := s.modBlock 0 0 fun b => { b with rings := [(0, ⟨true, 0, 0, 0, 256, 256, [], [], []⟩)] }
theorem test_hyps_CopyEngine_start :
    (startB (WCq 16) = true ∧ 64 ≤ ((blk (WCq 16)).ring 0).free ∧ 64 ≤ ((blk (WCq 16)).ring 0).size ∧
      (match ((WCq 16).modHome 0 0 fun b => b.modRing 0 fun r => r.reserve (frontCmd (WCq 16)).id 64 false).engRead (.quad 0) 0 0x2400 64 3 with | .ok _ bs _ => bs.length == 64 | _ => false) = true) ∧
    startB (fill (WCq 16)) = true ∧ ((blk (fill (WCq 16))).ring 0).free < 64 := by
  refine ⟨⟨?_, ?_, ?_, ?_⟩, ?_, ?_⟩ <;> decide +kernel
/-- Commands of the core, and what their ring holds. -/
def WCmds (l : List Cmd) (r : Ring) : State := ((WCmd 16).modCore 0 fun c => { c with cq := l }).modBlock 0 0 fun b => { b with rings := [(0, r)] }
/-- The instruction whose chunks a barrier counts. -/
def LdBar : Instr := .cld .always (fldOf 0) { mod0 with bar := true }
/-- A command that has moved: its chunks. -/
def movedCmd (ch : List (Nat × Nat)) : Cmd := { heldCmd with i := LdBar, st := .moved, chunks := ch, grp := [0, 0, 0, 0, 0, 0x100] }
/-- Its barrier. -/
def WChunk : State := put8 (WCmds [movedCmd [(64, 0)]] ⟨true, 0, 0, 0, 0, 0, [], [], []⟩) [(0x100, 64), (0x108, 0x100000001), (0x110, 0x10000000007)]
theorem test_hyps_CopyEngine_events :
    (let s : State := WCmds [{ frontCmd (WCq 16) with id := 5 }] ⟨true, 0, 0, 0, 0, 0, [], [5], []⟩;
      ((blk s).ring 0).waits = [5] ∧ ((blk s).ring 0).cfg = true ∧ s.waiterBytes 0 5 = some 64 ∧ ((s.core 0).cq.filter fun x => x.st != .queued).length < 8 ∧ 64 ≤ ((blk s).ring 0).free ∧ s.frozenCtx (blk s).ctx = false ∧ ([] : List Nat).all (fun x => x != 5) = true) ∧
    (let s := WCmds [] ⟨true, 0, 0, 0, 0, 64, [⟨5, 0, 64, true⟩], [], []⟩; ((blk s).ring 0).resvs = [⟨5, 0, 64, true⟩]) ∧
    (WChunk.cmd? 0 5 = some (movedCmd [(64, 0)]) ∧ (movedCmd [(64, 0)]).err = none ∧ (cmdMod LdBar).ver = false ∧ (cmdMod LdBar).bar = true ∧ grpN (movedCmd []).grp (cmdIx LdBar 2) = 0x100 ∧
      (WChunk.translate (.quad 0) 0 0x100 .write).2 = .ok 0x100 0x73 ∧ BarIs (WChunk.translate (.quad 0) 0 0x100 .write).1.mem 0x100 64 1 1 7 0 0 ∧
      (WChunk.translate (.quad 0) 0 0x100 .write).1.hasCw = false ∧ (WChunk.translate (.quad 0) 0 0x100 .write).1.poison = [] ∧ NoWaiters (WChunk.translate (.quad 0) 0 0x100 .write).1 0x100) ∧
    (WCmds [movedCmd []] ⟨true, 0, 0, 0, 0, 0, [], [], []⟩).cmd? 0 5 = some (movedCmd []) := by
  refine ⟨?_, ?_, ⟨?_, ?_, ?_, ?_, ?_, ?_, ?_, ?_, ?_, ?_⟩, ?_⟩
  all_goals (try unfold BarIs)
  all_goals (try unfold NoWaiters)
  all_goals decide +kernel

/-- A request of ring 0 that has started on engine 0 and has not read its block, which is q. -/
def aReq : XReq := { ctx := 0, ring := 0, idx := 0, t := T0, grid := 0, lin := 0, op := 1, pc := 0, started := true, eng := 0, blk := 0, done := false, status := 0, cause := 0, va := 0, sat := 0, nan := 0,
                     result := 0, hold := none, pos := 0, watched := false }
/-- The ring at 0x2000, of 16 blocks. -/
def WX (r : XReq) (l : List (Nat × Nat)) : State :=
  put8 { ((W.setReg (xrReg 0 0 1) 0x1401).setReg (xrReg 0 0 0) 0x2000) with xreqs := [r], l2tlb := [(0, [⟨0, 0, 16, 0, 0x73⟩])] } l
/-- CRC of 16 bytes at 0x3000 with a record at 0x3100; a malformed block. -/
def crcBlk : List (Nat × Nat) := [(0x2000, 3 + 2 ^ 32 * 16), (0x2008, 0x3000), (0x2020, 0x3100), (0x2030, 0xFFFFFFFF)]
/-- The state in which an engine has read its block, and the block. -/
def readBlk (s : State) : State × Nat := match s.engRead (.l2 0) 0 0x2000 64 3 with | .ok s1 bs _ => (s1, leNat bs) | _ => (s, 0)
theorem test_hyps_TransformEngine :
    ((WX aReq crcBlk).liveReqs 0 0 = [aReq] ∧ aReq.started = true ∧ aReq.pos = 0 ∧ (WX aReq crcBlk).xreqs = [aReq] ∧ (readBlk (WX aReq crcBlk)).1.xreqs = [aReq] ∧ reqBad (readBlk (WX aReq crcBlk)).2 = false ∧
      recN (readBlk (WX aReq crcBlk)).2 0 1 = 3 ∧ recN (readBlk (WX aReq crcBlk)).2 4 4 = 16 ∧
      (match (readBlk (WX aReq crcBlk)).1.engRead (.l2 0) 0 (recN (readBlk (WX aReq crcBlk)).2 8 8) 16 3 with | .ok s2 bs _ => s2.xreqs == [aReq] && bs.length == 16 | _ => false) = true) ∧
    ((WX aReq [(0x2000, 9)]).liveReqs 0 0 = [aReq] ∧ (match (WX aReq [(0x2000, 9)]).engRead (.l2 0) 0 0x2000 64 3 with | .ok s1 bs _ => s1.xreqs == [aReq] && reqBad (leNat bs) | _ => false) = true) ∧
    (WX { aReq with started := false } crcBlk).liveReqs 0 0 = [{ aReq with started := false }] ∧
    let r : XReq := { aReq with done := true, blk := BitVec.ofNat 512 (0x3100 * 2 ^ 256) }
    (WX r []).doneReq 0 0 = some r ∧ r.hold = none ∧ recN r.blk.toNat 0x20 8 = 0x3100 ∧ 0x3100 % 32 = 0 ∧ ((WX r []).translate (.l2 0) 0 0x3100 .write).2 = .ok 0x3100 0x73 ∧
      ((WX r []).translate (.l2 0) 0 0x3100 .write).1.hasCw = false ∧ ((WX r []).translate (.l2 0) 0 0x3100 .write).1.poison = [] ∧ (((WX r []).translate (.l2 0) 0 0x3100 .write).1.core 0).l1 = [] ∧
      (∀ x ∈ ((WX r []).translate (.l2 0) 0 0x3100 .write).1.regs, ¬ (0x40000 ≤ x.1 ∧ x.1 < 0x60000)) ∧ (∀ b ∈ (WX r []).blocks, b.frame = none) ∧ (WX r []).saved = [] := by
  refine ⟨⟨?_, ?_, ?_, ?_, ?_, ?_, ?_, ?_, ?_⟩, ⟨?_, ?_⟩, ?_, ?_, ?_, ?_, ?_, ?_, ?_, ?_, ?_, ?_, ?_, ?_⟩ <;> decide +kernel
/-- A remote operation of this device on itself, and what its thread waits for. -/
def aRem (k : Nat) : RemIn := ⟨9, 0, 9, 0, 0, k, 0x100, 7, .b32, A4, false, false, false, true, none⟩
def aOut (pend : Bool) : RemOut := ⟨9, T0, 0, 0, 1, 0, 0x100, pend, 0, 16, false, 0, false⟩
def WRemote (k : Nat) (mapped : Bool) : State := { W with remIn := [aRem k], remOut := [aOut true], l2tlb := if mapped then [(0, [⟨0, 0, 16, 0, 0x73⟩])] else [] }
/-- The state after the translation. -/
def trRem (k : Nat) : State × Tr := (WRemote k true).translate (.l2 0) 0 0x100 (if k = 0 then .read else .write)
theorem test_hyps_RemoteStreams :
    (∀ k ∈ [0, 1, 2], (WRemote k true).remNow (aRem k) = true ∧ (WRemote k true).remCtx (aRem k) = some 0 ∧ (WRemote k true).homeQuarter 0 0x100 = 0 ∧ (aRem k).part = none ∧ (aRem k).sz.bytes < 16 ∧ (trRem k).2 = .ok 0x100 0x73 ∧ (trRem k).1.hasCw = false ∧ (trRem k).1.poison = [] ∧
      ((trRem k).1.core 0).l1 = [] ∧ (∀ x ∈ (trRem k).1.regs, ¬ (0x40000 ≤ x.1 ∧ x.1 < 0x60000)) ∧ cachedPage 0x100 0x73 = true ∧ (trRem k).1.inputs = (WRemote k true).inputs) ∧
    ((WRemote 0 false).remNow (aRem 0) = true ∧ (WRemote 0 false).homeQuarter 0 0x100 = 0 ∧ (match (WRemote 0 false).translate (.l2 0) 0 0x100 .read with | (s1, .pf _ _) => decide (s1.mem = (WRemote 0 false).mem) && s1.remIn == [aRem 0] | _ => false) = true) ∧
    (∃ b w th, At (WRemote 0 true) T0 b w th ∧ (b.grid == (aOut true).grid && b.lin == (aOut true).lin && b.frame.isNone && (WRemote 0 true).saved.isEmpty && (WRemote 0 true).blocks.all (fun b => b.frame.isNone) &&
      (WRemote 0 true).remOut == [aOut true] && (aOut true).pend && !(aOut true).acq && !(WRemote 0 true).gridDead 0) = true) ∧ 8 % 256 ≠ 0x11 := by
  refine ⟨?_, ⟨?_, ?_, ?_⟩, at_of _ ?_, ?_⟩ <;> decide +kernel
/-- A report of context 0, with its fault buffer off or on; a held request. -/
def aRep : FRep := ⟨0, 0x5000, 1, 0, 1, 0, 0, 0, 0, 0, none⟩
def WFb (ctl : Dword) : State := { (W.setReg (ctxReg 0 0x218) ctl) with freps := [aRep] }
/-- The buffer holds one entry of the report's page; then it is that of another. -/
def WKey (va : Nat) : State := put8 ((WFb 1).setReg (ctxReg 0 0x228) 1) [(0, va)]
/-- A line that has left the L2, dirty. -/
def aLine : L2Line := ⟨0, 1, 0, false, 0, 0⟩
def WOut : State := { State.reset with l2out := [(3, aLine, false)] }
def WHold : State := { State.reset with xreqs := [{ aReq with hold := some 0x5008 }] }
theorem test_hyps_FaultUnit :
    (canonical 0x5000 = true ∧ (∀ e ∈ State.reset.tlb (.l2 3), e.hits 0 0x5000 = false)) ∧ (WOut.l2out.find? (fun x => x.1 == 3) = some (3, aLine, false) ∧
      (∀ j < 8, aLine.dirty.getLsbD j = true → false = false ∧ WOut.sectorBad (8 * 3 + j) = false) ∧ WOut.hostMem = [] ∧ WOut.evictBad aLine 3 false = []) ∧
    ((WFb 0).freps.find? (fun f => f.ctx == 0) = some aRep ∧ (WFb 0).regN (ctxReg 0 0x218) % 2 = 0 ∧ ((WFb 0).regN (ctxReg 0 0x218)).testBit 2 = false) ∧
    ((WFb 1).regN (ctxReg 0 0x218) % 2 = 1 ∧ (WFb 1).fbFind 0 aRep.va = none ∧ ((WFb 1).regN (ctxReg 0 0x228) + 2 ^ 32 - (WFb 1).regN (ctxReg 0 0x220)) % 2 ^ 32 < 2 ^ ((WFb 1).regN (ctxReg 0 0x210) % 16) ∧
      (WFb 1).hasCw = false) ∧ ((WKey 0x5010).fbFind 0 aRep.va = some 0 ∧ (WKey 0x5010).freps = [aRep]) ∧ (WKey 0x15010).fbFind 0 aRep.va = none ∧
    ((∀ b ∈ WHold.blocks, b.ctx ≠ 0) ∧ (∀ x ∈ WHold.cores, ∀ m ∈ x.2.cq, m.ctx ≠ 0) ∧ WHold.saved = [] ∧ WHold.remIn = [] ∧ samePage 0x5008 0x5000) ∧
    W.invBusy 0 = false ∧ ((W.setReg (ctxReg 0 0x248) 0x80000000).invBusy 0 = true ∧ (W.setReg (ctxReg 0 0x248) 0x80000000).invUsers 0 = false) := by
  refine ⟨⟨?_, ?_⟩, ⟨?_, ?_, ?_, ?_⟩, ⟨?_, ?_, ?_⟩, ⟨?_, ?_, ?_, ?_⟩, ⟨?_, ?_⟩, ?_, ⟨?_, ?_, ?_, ?_, ?_⟩, ?_, ?_⟩
  all_goals (try unfold samePage)
  all_goals decide +kernel

/-- An image of one role and one variant of one warp and one row, its code 8 bytes at 0x130. -/
def imgBytes : List Byte :=
  let w := fun (n v : Nat) => leBytes v n
  w 4 Config.magic ++ w 2 1 ++ w 2 0 ++ w 8 0 ++ w 8 0x130 ++ w 4 8 ++ w 4 0 ++ w 8 0 ++ w 4 0 ++ w 2 0 ++ w 1 1 ++ w 1 1 ++ w 4 0xE0 ++ w 4 0xF0 ++ w 4 0 ++ w 8 0 ++ w 4 0 ++ w 8 0 ++
    w 1 1 ++ w 3 0 ++ w 4 0x138 ++ w 8 0 ++ w 4 100 ++ w 60 0 ++ w 64 0 ++ w 16 0 ++
    w 4 0 ++ w 4 0x100000 ++ w 4 1 ++ w 4 1 ++ w 4 0 ++ w 12 (2 ^ 96 - 1) ++ w 4 0xFFFFFFFF ++ w 12 0 ++ w 4 0x5000 ++ w 12 0 ++ w 8 0
/-- The image as registered. -/
def imgA : Image := readImage 0 1 0x3000 imgBytes
/-- A record of an operation with a handle, its base or ARGS in bytes 0x18, and dimensions 1. -/
def rawOf (op h base : Nat) (dims : Bool) : Nat := op + 2 ^ 32 * h + (if dims then 2 ^ 64 + 2 ^ 96 + 2 ^ 128 + 2 ^ 160 else 0) + 2 ^ 192 * base
/-- A head record; wt: it has waited. -/
def aRec (raw : Nat) (wt : Bool) : LRec := ⟨0, 0x1001, BitVec.ofNat 1024 raw, none, wt, none⟩
/-- Queue 0 of context 0 with it, and the image in memory and registered. -/
def WServe (raw : Nat) (wt : Bool) : State :=
  { (State.reset.setReg (bootSt) 3) with queues := [⟨0, 0, 1, 1, [aRec raw wt], [0], [], false, none⟩], images := [imgA], l2tlb := [(0, [⟨0, 0, 16, 0, 0x73⟩])], mem := Mem.put [] 0x3000 imgBytes }
/-- The hypotheses of Serves, and the outcome of the first checks. -/
def servB (s : State) (r : LRec) : Bool :=
  s.headRec 0 0 == some r && r.fin.isNone && recN r.raw.toNat 0x40 8 == 0 && s.servesQ 0 0 && (!r.waits || !s.recWaits 0 0 r)
/-- What registration reads of the image at a base. -/
def regRead (s : State) (r : LRec) (base : Nat) : Nat :=
  match (s.served 0 0).devN 0 0 r.token none base 224 with
  | .ok s1 hb => (match s1.devRead 0 0 r.token none (max 224 (imgN hb 0x54 4) / 65536 + 3) base (max 224 (imgN hb 0x54 4)) [] with
    | .ok s2 im => if (s2.images.filter fun i => i.ctx == 0).length < 4096 then (regStatus im 0 2 base).1 else 99 | _ => 99)
  | _ => 99
def goB (s : State) (r : LRec) : Bool := match s.preAdmit 0 0 r with | .go => true | _ => false
theorem test_hyps_LaunchQueues :
    ((1#64).getLsbD 0 = true ∧ (State.reset.reg (lqReg 0 0 1)).getLsbD 0 = false) ∧ ((State.reset.lq 0 0).recs = [] ∧ (State.reset.lq 0 0).resetting = false) ∧
    (let s : State := { State.reset with queues := [⟨0, 0, 0, 0, [], [], [], true, none⟩] }; (s.lq 0 0).resetting = true ∧ (s.lq 0 0).recs = [] ∧ (s.lq 0 0).head = (s.lq 0 0).tail ∧ s.grids = []) ∧
    (let s : State := { (State.reset.setReg (lqReg 0 0 1) 0x401) with queues := [⟨0, 0, 0, 1, [], [], [], false, none⟩], l2tlb := [(0, [⟨0, 0, 16, 0, 0x73⟩])] };
      s.recReadNow 0 0 = true ∧ (s.translate (.l2 0) 0 0 .read).2 = .ok 0 0x73 ∧ (s.translate (.l2 0) 0 0 .read).1.hasCw = false ∧ (s.translate (.l2 0) 0 0 .read).1.poison = []) := by
  refine ⟨⟨?_, ?_⟩, ⟨?_, ?_⟩, ?_, ?_⟩ <;> decide +kernel
theorem test_hyps_LaunchQueues_served :
    (servB (WServe (rawOf 9 0 0 false) false) (aRec (rawOf 9 0 0 false) false) = true ∧ (WServe (rawOf 9 0 0 false) false).preAdmit 0 0 (aRec (rawOf 9 0 0 false) false) = .refuse 0x10) ∧
    (servB (WServe (rawOf 3 0 0 false) true) (aRec (rawOf 3 0 0 false) true) = true ∧ goB (WServe (rawOf 3 0 0 false) true) (aRec (rawOf 3 0 0 false) true) = true) ∧
    (servB (WServe (rawOf 2 1 0 false) false) (aRec (rawOf 2 1 0 false) false) = true ∧ goB (WServe (rawOf 2 1 0 false) false) (aRec (rawOf 2 1 0 false) false) = true) ∧
    (servB (WServe (rawOf 0 1 0x40 true) false) (aRec (rawOf 0 1 0x40 true) false) = true ∧ goB (WServe (rawOf 0 1 0x40 true) false) (aRec (rawOf 0 1 0x40 true) false) = true ∧
      (WServe (rawOf 0 1 0x40 true) false).imageOf 0 1 = some imgA ∧ (WServe (rawOf 0 1 0x40 true) false).admitRes 0 (rawOf 0 1 0x40 true) imgA = .go) ∧
    (servB (WServe (rawOf 1 0 0x3000 false) false) (aRec (rawOf 1 0 0x3000 false) false) = true ∧ goB (WServe (rawOf 1 0 0x3000 false) false) (aRec (rawOf 1 0 0x3000 false) false) = true ∧
      regRead (WServe (rawOf 1 0 0x3000 false) false) (aRec (rawOf 1 0 0x3000 false) false) 0x3000 = 0) ∧
    regRead (WServe (rawOf 1 0 0x4000 false) false) (aRec (rawOf 1 0 0x4000 false) false) 0x4000 = 1 := by
  refine ⟨⟨?_, ?_⟩, ⟨?_, ?_⟩, ⟨?_, ?_⟩, ⟨?_, ?_, ?_, ?_⟩, ⟨?_, ?_, ?_⟩, ?_⟩ <;> decide +kernel

/-- A state with the grid of a launch of image imgA, and blocks. -/
def gridA (f : Grid → Grid) : Grid := f { oneGrid with img := imgA, raw := BitVec.ofNat 1024 (rawOf 0 1 0x40 true), next := 0, nblk := 0 }
def WGrid (f : Grid → Grid) (bs : List Block) : State := { W with grids := [gridA f], blocks := bs }
/-- A thread at milestone 3 with size p. -/
def miling (p : Dword) : Block := let b := oneBlock false
  { b with warps := b.warps.map fun w => { w with threads := w.threads.map fun th => { th with st := .arrived, wait := some ⟨.mile, 3, 0, 0x97, p⟩ } } }
/-- An image of two size classes whose only variant, of class 0, has milestone 3. -/
def imgM : Image := { img0 0 with nsc := 2, scb := [10, 20] }
def mileB (s : State) (P : Block → Grid → Nat → Nat → Bool) : Bool :=
  match s.mileNow 0 0 with | some (b, g, m, k') => (b.warps.all fun w => w.ops.all fun o => o.err.isNone) && P b g m k' | none => false
/-- A thread at a barrier of the device. -/
def barring : Block := let b := oneBlock false
  { b with warps := b.warps.map fun w => { w with threads := w.threads.map fun th => { th with st := .arrived, wait := some ⟨.dbar, 3 * 256, 0, 0x85, 1⟩ } } }
/-- The save pool of context 0: one slot of 2^24 bytes at 0x100000; PF has quad 0 alone. -/
def pooled (s : State) : State := ((s.setReg (ctxReg 0 0x278) (BitVec.ofNat 64 (1 + 4096 * 2 ^ 16))).setReg (ctxReg 0 0x270) 0x100000).setReg (devReg 8) 0xFFFFFFFE
/-- The cores of quad 0 are full of blocks of a grid of low priority; another waits. -/
def WFull : State := pooled { W with
  grids := [gridA fun g => { g with prio := 1, next := 1, nblk := 4 }, gridA fun g => { g with id := 1 }]
  blocks := (List.range 4).map fun c => { oneBlock false with core := c, rows := List.range 768 } }
/-- A block asked to stop, with nothing pending. -/
def WSave : State := pooled (WGrid (fun g => { g with next := 1, nblk := 1 }) [{ oneBlock false with preReq := true }])
theorem test_hyps_BlocksMove :
    ((WGrid (fun g => { g with phase := .staging }) []).grids.map Grid.phase = [GPhase.staging]) ∧
    ((WGrid id []).placeNow 0 = true ∧ (∀ l ∈ ((WGrid id []).core 0).l1, l.dirty = 0#128) ∧ (((WGrid id []).grid? 0).any fun g => ((WGrid id []).placeNext g).isSome) = true) ∧
    mileB (WGrid (fun g => { g with img := imgM, next := 1 }) [miling 0x10000000F]) (fun b g m k' => ((WGrid (fun g => { g with img := imgM, next := 1 }) [miling 0x10000000F]).pickVariant b g m k' fun _ => false).isNone) = true ∧
    mileB (WGrid (fun g => { g with img := imgM, next := 1 }) [miling 0x100000005]) (fun b g m k' => (WGrid (fun g => { g with img := imgM, next := 1 }) [miling 0x100000005]).pickVariant b g m k' (fun _ => false) == some 0 &&
      (g.img.vars[0]?).any fun v => (g.img.msOf v m).isSome) = true ∧
    (WGrid id [{ oneBlock false with spillWait := true }]).spillNow 0 = true ∧
    ((WGrid (fun g => { g with img := { imgA with flags := 2, scb := [0] } }) [barring]).parkNow 0 0).isSome = true ∧
    (let s := W.modBlock 0 0 fun b => { b with slice := 1024 * 0x800, sliceLen := 0x800 };
      (blk s).sliceLen ≠ 0 ∧ 1024 * (blk s).sliceLen ≤ (blk s).slice ∧ s.sliceNow 0 0 = true ∧ (blk s).deciding = none ∧ (blk s).live ≠ [] ∧ (blk s).preReq = false) := by
  refine ⟨?_, ⟨?_, ?_, ?_⟩, ?_, ?_, ?_, ?_, ?_⟩ <;> decide +kernel
/-- A saved block without warps, whose frame at 0x4000 is good, or missing. -/
def WBack (good : Bool) : State :=
  let v : Saved := { grid := 0, lin := 0, ctx := 0, frame := 0x4000, poolSlot := none, parked := false, snap := { oneBlock false with warps := [] }, refs := [], arrival := 0, wd := [], mrets := [], rings0 := [],
                     cmds := [], cancels := [], passed := [] }
  let s : State := { WGrid (fun g => { g with next := 1, nblk := 1 }) [] with saved := [v], l2tlb := [(0, [⟨0, 0, 16, 0, 0x73⟩])] }
  if good then put8 s [(0x4000, 1), (0x4008, 1), (0x4018, 0x100000 * 2 ^ 32)] else s
/-- What RESTORE_BLOCK finds. -/
def backB (s : State) (P : Bool → Option (Nat × Nat × VarE × Nat) → Bool) : Bool :=
  s.restoreNow 0 0 && match s.grid? 0, (s.readySaved 0).head? with | some g, some v => P (s.frameBad v.snap g v.frame.toNat) (s.placeNext g) | _, _ => false
theorem test_hyps_BlocksMove_saved :
    (((WFull.block? 3 0).any fun b => !b.preReq && (WFull.wantsOut b).isSome) = true) ∧
    ((blk WSave).preReq = true ∧ WSave.saveReady (blk WSave) = true ∧ (blk WSave).stillOr = true ∧ ((WSave.gridOf (blk WSave)).any fun g => (WSave.saveSlot 0 ((blk WSave).fsize g)).isSome) = true) ∧
    backB (WBack false) (fun bad _ => bad) = true ∧ backB (WBack true) (fun bad p => !bad && p.isSome) = true ∧
    (let s := (WBack true).modGrid 0 fun g => { g with coop := true }; s.restoreNow 0 0 = true ∧ (s.readySaved 0).length = 1) := by
  refine ⟨?_, ⟨?_, ?_, ?_, ?_⟩, ?_, ?_, ?_⟩ <;> decide +kernel
/-- A block whose thread has exited; owing a fault. -/
def exited (c : List Cause) : Block := let b := oneBlock false
  { b with warps := b.warps.map fun w => { w with threads := w.threads.map fun th => { th with st := .exited, imps := c } } }
theorem test_hyps_GridsEnd :
    (let s := WGrid id [exited []]; s.blockOver (blk s) = true ∧ (blk s).owed = none ∧ (s.gridOf (blk s)).isSome = true ∧ (s.reg (ctxReg (blk s).ctx 0x298)).getLsbD 4 = false) ∧
    (let s := WGrid id [exited [causeOf 8 0 0]]; s.blockOver (blk s) = true ∧ (blk s).owed = some (causeOf 8 0 0) ∧ (blk s).forgive.2 = 1) ∧
    (WGrid (fun g => { g with phase := .aborting }) []).grids.map (fun g => (g.phase, g.closed)) = [(GPhase.aborting, false)] ∧
    let s := WGrid (fun g => { g with next := 1, ended := 1 }) []
    ((s.grid? 0).any fun g => s.retireNow g && g.snap.isNone && g.closes.isEmpty && g.claims.isEmpty && g.resv.isEmpty && recN g.raw.toNat 0x40 8 == 0) = true := by
  refine ⟨?_, ?_, ?_, ?_⟩ <;> decide +kernel

/-- Context 0 is of job 5; halting is on. -/
def WJob : State := (W.setReg (ctxReg 0 0x2C0) 5).setReg (ctxReg 0 0x900) 1
/-- A hit of a slice watchpoint; a frozen context whose wave is 7, and its blocks frozen. -/
def aHit : SwHit := ⟨0, 0, ⟨3, 0, 0, 0, 0, 0, T0, 0⟩, 0x100, true⟩
def WFroz : State := { ((WJob.setReg (ctxReg 0 0x928) 2).setReg (ctxReg 0 0x910) (7 * 2 ^ 32)) with blocks := [{ oneBlock false with state := .frozen, why := [.roadblock] }] }
theorem test_hyps_Debugger :
    ((WFroz.rbState 0 ≠ 0) ∧ WJob.rbState 0 = 0 ∧ WJob.jobCtxs 5 = [0] ∧ 0 ≤ SMap.get WJob.lastWave 0 0 ∧ SMap.get WJob.lastWave 0 0 < 7) ∧
    (({ WJob with swHits := [aHit] } : State).swHits = [aHit] ∧ aHit.halt = true ∧ WJob.halts 0 0x11 true = true) ∧
    ((WFroz.rbState 0 = 2 ∧ WFroz.regN (ctxReg 0 0x910) / 2 ^ 32 = 7 ∧ WFroz.heldQ = [] ∧ WFroz.remIn = [] ∧ WFroz.outbound = [] ∧ WFroz.jobCtxs 5 = [0]) ∧
      (∀ b ∈ WFroz.blocks, b.ctx = 0 → b.frame = none ∧ (WFroz.gridOf b).isSome ∧ ∀ x ∈ b.warps, ∀ th ∈ x.threads, th.trapq = none) ∧ (∀ b ∈ WFroz.blocks, b.why = [.roadblock])) ∧
    (WFroz.flitCtx (.dbar 5 0 0 0) = some 0 ∧ WFroz.heldQ.length < 16384) ∧ (W.sampleSlot 0).isSome = true ∧ (∀ b ∈ W.blocks, b.ctx ≠ 1) ∧
    ((W.reg (ctxReg 0 0x288)).getLsbD 0 = false ∧ (W.spillFrame 0 0x1000).isSome = true) := by
  refine ⟨⟨?_, ?_, ?_, ?_, ?_⟩, ⟨?_, ?_, ?_⟩, ⟨⟨?_, ?_, ?_, ?_, ?_, ?_⟩, ?_, ?_⟩, ⟨?_, ?_⟩, ?_, ?_, ?_, ?_⟩ <;> decide +kernel
theorem test_hyps_Debugger_slots : WFroz.slotsOk ∧ W.slotsOk := by unfold State.slotsOk; decide +kernel
/-- A frame whose rows a command still writes: its spill waits. -/
def WSpill : State :=
  let v : Saved := { grid := 0, lin := 0, ctx := 0, frame := 0x1000, poolSlot := none, parked := false, snap := oneBlock false, refs := [], arrival := 0, wd := [], mrets := [], rings0 := [], cmds := [], cancels := [], passed := [] }
  { (W.modCore 0 fun c => { c with cq := [{ heldCmd with st := .reserved }] }) with blocks := [], saved := [v] }
theorem test_hyps_Debugger_spill : (WSpill.reg (ctxReg 0 0x288)).getLsbD 0 = false ∧ (WSpill.spillFrame 0 0x1000).isNone = true := by decide +kernel
theorem test_hyps_RegistersAreWritten :
    (W.stage = 3 ∧ W.owner 0 = 0 ∧ OwnStep 0 0x218 1 (.fbEnable 0 1) ∧ OwnStep 0 0x248 0 (.tlbInvalidateRange 0) ∧ OwnStep 0 0x248 1 (.tlbInvalidateContext 0) ∧
      OwnStep 0 0xC00 0x500000001 (.resume 0 5) ∧ OwnStep 0 0xC00 2 (.step 0) ∧ OwnStep 0 0xC00 3 (.trigger 0)) ∧ State.reset.stage ≠ 3 ∧ W.owner 1 ≠ 1 ∧
    (State.reset.regN (xrReg 0 0 1) % 2 = 0 ∧ (State.reset.setReg (xrReg 0 0 1) 1).regN (xrReg 0 0 1) % 2 = 1) := by
  refine ⟨⟨?_, ?_, ?_, ?_, ?_, ?_, ?_, ?_⟩, ?_, ?_, ?_, ?_⟩
  all_goals (try unfold OwnStep)
  all_goals decide +kernel
/-- A link that is up; VF 1 is to have quad 0. -/
def WLink : State := State.reset.setReg (lkReg 3) 1
def WVf : State := match execVfpartWrite 1 1 State.reset with | .next s => s | _ => State.reset
theorem test_hyps_HostLinksAndClocks :
    (State.reset.bar2 0 (2 ^ 41) 8 = none ∧ State.reset.bar2 0 0x100 8 = some 0x100 ∧ State.reset.hasCw = false ∧ State.reset.poison = []) ∧
    ((∀ k, 1 ≤ k → k ≤ 16 → k ≠ 1 → ∀ q < 32, (1#64).getLsbD q = true → (State.reset.vfHas k).testBit q = false ∧ (State.reset.vfWants k).testBit q = false) ∧ (1#64).toNat % 2 ^ 32 ≠ State.reset.vfHas 1) ∧
    (WVf.moveNow 1 = true ∧ WVf.vfWants 1 < 2 ^ 32) ∧ (({ State.reset with atsPend := true } : State).atsPend = true) ∧ (WLink.regN (lkReg 3) % 2 = 1 ∧ WLink.remOut = []) ∧
    (WLink.flitCtx (.request 0 0 5 0 0 0 0 .b32 A4 false) = none) ∧
    (((State.reset.setReg (devReg 0x400) 12).reg (devReg 0x400)).getLsbD 3 = true ∧ State.reset.grids = []) ∧ (((State.reset.setReg (devReg 0x408) 1).reg (devReg 0x408)).getLsbD 0 = true) ∧
    (4 ∈ ({ State.reset with fw := { State.reset.fw with droop := [4] } } : State).fw.droop) := by
  refine ⟨⟨?_, ?_, ?_, ?_⟩, ⟨?_, ?_⟩, ⟨?_, ?_⟩, ?_, ⟨?_, ?_⟩, ?_, ⟨?_, ?_⟩, ?_, ?_⟩
  case refine_5 =>
    intro k h1 h2 hk q hq _
    have : ∀ k < 17, (State.reset.vfHas k) = 0 ∧ (State.reset.vfWants k) = 0 := by decide +kernel
    simp [(this k (by omega)).1, (this k (by omega)).2]
  all_goals decide +kernel
/-- CKPTST of a state. -/
def WCk (v : Dword) : State := { (State.reset.setReg (devReg 0x508) v) with fw := { State.reset.fw with ckptCut := true } }
theorem test_hyps_CheckpointsAndBoot :
    (State.reset.ckptState = 0 ∧ (WCk 1).ckptState = 1 ∧ ({ WCk 1 with fw := { (WCk 1).fw with ckptCut := false } } : State).fw.ckptCut = false ∧ (WCk 1).saved = [] ∧ (WCk 1).blocks = []) ∧
    ((WCk 1).ckptDone = true ∧ (WCk 1).fw.power = true ∧ (WCk 1).fw.resetPend = false ∧ (WCk 1).grids = [] ∧ Mem.wf (WCk 1).mem) ∧
    ((∀ c < 64, ∀ q < 64, ((WCk 8).reg (lqReg c q 1)).getLsbD 0 = false) ∧ ((WCk 8).reg (devReg 0x508)).getLsbD 3 = true ∧ (WCk 8).ckptState = 0 ∧ (WCk 2).ckptState = 2 ∧ (WCk 8).ckptState ≠ 1) ∧
    ((State.reset.reg (devReg 0x500)).getLsbD 8 = false) ∧ (State.reset.stage = 0 ∧ (State.reset.setReg bootSt 1).stage = 1 ∧ (State.reset.setReg bootSt 2).stage = 2 ∧ (State.reset.setReg bootSt 15).stage = 15) ∧
    (State.reset.setReg bootSt 1).measure 2 = some [] := by
  refine ⟨⟨?_, ?_, ?_, ?_, ?_⟩, ⟨?_, ?_, ?_, ?_, ?_⟩, ⟨?_, ?_, ?_, ?_, ?_⟩, ?_, ⟨?_, ?_, ?_, ?_⟩, ?_⟩ <;> decide +kernel

/-- A request whose block has been read goes on by a block. -/
def WUnit : State := WX { aReq with pos := 1, blk := BitVec.ofNat 512 (readBlk (WX aReq crcBlk)).2 } crcBlk
theorem test_hyps_EngineAndQueueEventsComplete :
    (match WUnit.liveReqs 0 0 with | [r] => r.started && r.pos == 1 && reqUnits r.blk.toNat == 1 && (match WUnit.reqUnit r 0 with | .ok _ _ => true | _ => false) | _ => false) = true ∧
    (let r : XReq := { aReq with done := true, blk := BitVec.ofNat 512 (0x3100 * 2 ^ 256) };
      ((WX r []).doneReq 0 0 = some r ∧ (match (WX r []).xWrite r 0x3100 r.record with | .ok _ _ _ => true | _ => false) = true) ∧ (WX { r with blk := 0 } []).doneReq 0 0 = some { r with blk := 0 }) ∧
    (State.reset.walkNow 3 0 0x5000 = true ∧ (WFb 1).freps = [aRep] ∧ (WFb 1).hasCw = false ∧ (0 : Dword).toNat % 2 ^ 32 = W.regN (ctxReg 0 0x228) ∧ W.regN (ctxReg 0 0x218) % 2 = 0) ∧
    ((∀ b ∈ WHold.blocks, b.ctx ≠ 0) ∧ (∀ r ∈ WHold.remIn, r.hold = false) ∧ (∀ r ∈ State.reset.xreqs, r.hold = none)) ∧
    (let s : State := State.reset.setReg (lqReg 0 0 1) 0x401;
      s.regN (lqReg 0 0 1) % 2 = 1 ∧ (s.regN (lqReg 0 0 1)).testBit 5 = false ∧ (s.lq 0 0).resetting = false ∧ 16 ≤ 2 ^ (s.regN (lqReg 0 0 1) / 2 ^ 8 % 16) ∧ (s.lq 0 0).head = 0 ∧ (s.lq 0 0).tail = 0) ∧
    ({ State.reset with queues := [⟨0, 0, 0, 0, [], [], [], true, none⟩] } : State).resetOver 0 0 = true := by
  refine ⟨?_, ⟨⟨?_, ?_⟩, ?_⟩, ⟨?_, ?_, ?_, ?_, ?_⟩, ⟨?_, ?_, ?_⟩, ?_, ?_⟩ <;> decide +kernel
theorem test_hyps_EngineAndQueueEventsComplete_served :
    ((WServe (rawOf 0 1 0x40 true) false).opNow 0 0 0 = true ∧ (WServe (rawOf 1 0 0x3000 false) false).opNow 0 0 1 = true ∧ (WServe (rawOf 2 1 0 false) false).opNow 0 0 2 = true ∧
      (WServe (rawOf 3 0 0 false) false).opNow 0 0 3 = true) ∧
    ((WServe (rawOf 0 1 0x40 true) true).retryNow 0 0 = true ∧ ((WServe (rawOf 0 1 0x40 true) true).finRec 0 0).isNone = true ∧ goB (WServe (rawOf 0 1 0x40 true) true) (aRec (rawOf 0 1 0x40 true) true) = true) ∧
    (let s : State := { (State.reset.setReg (lqReg 0 0 1) 0x401) with queues := [⟨0, 0, 0, 1, [], [], [], false, none⟩], l2tlb := [(0, [⟨0, 0, 16, 0, 0x73⟩])] };
      s.recReadNow 0 0 = true ∧ (match s.devAcc 0 0 (s.mkToken 0 0 0) 0 128 .read none with | .ok _ _ _ => true | _ => false) = true) ∧
    ∀ g ∈ (WGrid id []).grids, g.jobid ≠ 7 ∨ g.jtag ≠ 0 := by
  refine ⟨⟨?_, ?_, ?_, ?_⟩, ⟨?_, ?_, ?_⟩, ?_, ?_⟩ <;> decide +kernel
theorem test_hyps_HostAndDeviceEventsComplete :
    ((State.reset.setReg bootSt 3).stage = 3 ∧ (State.reset.setReg bootSt 3).owner 0 = 0 ∧ State.reset.regN (xrReg 0 0 1) % 2 = 0 ∧ (0x1401 : Nat) % 2 = 1 ∧ 0x1401 / 2 ^ 12 % 16 ≠ 0 ∧ 0x1401 / 2 ^ 8 % 16 = 4) ∧
    (let s : State := { WFroz with blocks := [] };
      s.rbState 0 = 2 ∧ s.regN (ctxReg 0 0x910) / 2 ^ 32 = 7 ∧ s.heldQ = [] ∧ s.remIn = [] ∧ s.outbound = [] ∧ s.jobCtxs 5 = [0] ∧ s.regN (ctxReg 0 0xC10) % 4 ≠ 1 ∧ s.regN (ctxReg 0 0xC08) / 2 ^ 30 % 4 ≠ 3) ∧
    ((0 : Dword).toNat % 2 ^ 32 = W.regN 0x2B8 / 2 ^ 32 ∧ (0 : Dword).toNat % 2 ^ 32 = W.regN (ctxReg 0 0x298) / 2 ^ 32) ∧
    (∀ k < 17, State.reset.vfHas k = 0 ∧ State.reset.vfWants k = 0) ∧ (State.reset.locked = false ∧ 4 ∉ State.reset.fw.droop ∧ ((State.reset.setReg (devReg 0x400) 4).reg (devReg 0x400)).getLsbD 2 = true ∧
      (State.reset.setReg (devReg 0x400) 4).locked = false ∧ (State.reset.setReg (devReg 0x408) 1).locked = true) ∧
    (let s := WCk 1; s.ckptState = 1 ∧ s.blocks = [] ∧ s.saved = [] ∧ s.ckptDone = true) ∧ State.reset.ckptState ≠ 1 ∧ (State.reset.setReg bootSt 15).stage = 15 := by
  refine ⟨⟨?_, ?_, ?_, ?_, ?_, ?_⟩, ?_, ⟨?_, ?_⟩, ?_, ⟨?_, ?_, ?_, ?_, ?_⟩, ?_, ?_, ?_⟩ <;> decide +kernel

/-! ### Words written out by the tables of the spec -/

/-- R75, R79, R82, R83, R158-R160. -/
theorem test_words_integer :
    decodeThread 0x0007030102000000 = .ok (.iadd H 3 1 2 .wrap) ∧
    decodeThread 0x0007030102000002 = .ok (.iadd H 3 1 2 .unsigned) ∧
    decodeThread 0x01070301FFFFFFFE = .ok (.iaddi H 3 1 0xFFFFFFFE) ∧
    decodeThread 0x0207030102000001 = .ok (.isub H 3 1 2 .signed) ∧
    decodeThread 0x0307030102000000 = .ok (.imul H 3 1 2) ∧
    decodeThread 0x0407030100000007 = .ok (.imuli H 3 1 7) ∧
    decodeThread 0x0507030102000001 = .ok (.imulh H 3 1 2 true) ∧
    decodeThread 0x0607030102040000 = .ok (.imad H 3 1 2 4) ∧
    decodeThread 0x0707060102040001 = .ok (.imadw H 6 1 2 4 true) ∧
    decodeThread 0x0807030102000000 = .ok (.imin H 3 1 2 false) ∧
    decodeThread 0x0907030102000001 = .ok (.imax H 3 1 2 true) ∧
    decodeThread 0x0A07030100000001 = .ok (.iabs H 3 1 true) ∧
    decodeThread 0x0B07030100000001 = .ok (.ineg H 3 1 true) ∧
    decodeThread 0x0C07030102040096 = .ok (.tlog H 3 1 2 4 0x96) ∧
    decodeThread 0x0D07030102FFFFFE = .ok (.tlogi H 3 1 0xFFFFFE 2) ∧
    decodeThread 0x0E07030102000000 = .ok (.shl H 3 1 2) ∧
    decodeThread 0x0F07060600000003 = .ok (.shli H 6 6 3) ∧
    decodeThread 0x1007030102000000 = .ok (.shr H 3 1 2) ∧
    decodeThread 0x110703010000001F = .ok (.shri H 3 1 31) ∧
    decodeThread 0x1207030102000000 = .ok (.sar H 3 1 2) ∧
    decodeThread 0x1307030100000010 = .ok (.sari H 3 1 16) ∧
    decodeThread 0x1407030102040001 = .ok (.fshf H 3 1 2 4 true) ∧
    decodeThread 0x1507030100000000 = .ok (.popc H 3 1) ∧
    decodeThread 0x1607030100000000 = .ok (.clz H 3 1) ∧
    decodeThread 0x1707030100000000 = .ok (.brev H 3 1) ∧
    decodeThread 0x1807030102000001 = .ok (.bfx H 3 1 2 true) ∧
    decodeThread 0x1907030102040000 = .ok (.bfi H 3 1 2 4) ∧
    decodeThread 0x1A07010304070002 = .ok (.isetp H 1 3 4 7 .lt false .and) ∧
    decodeThread 0x1A0701030402002D = .ok (.isetp H 1 3 4 2 .ge true .xor) ∧
    decodeThread 0x1B0701030AFFFFFF = .ok (.isetpi H 1 3 0xFFFFFF .lt true) ∧
    decodeThread 0x1C07060204000000 = .ok (.iadd64 H 6 2 4) ∧
    decodeThread 0x1D0706020500000B = .ok (.lea64 H 6 2 5 true 3) ∧
    decodeThread 0x1E07030102040001 = .ok (.iclamp H 3 1 2 4 true) ∧
    decodeThread 0x1F07030102040005 = .ok (.idot4 H 3 1 2 4 true false true) :=
  ⟨rfl, rfl, rfl, rfl, rfl, rfl, rfl, rfl, rfl, rfl, rfl, rfl, rfl, rfl, rfl, rfl, rfl, rfl, rfl, rfl, rfl, rfl, rfl, rfl, rfl, rfl, rfl, rfl, rfl, rfl, rfl, rfl, rfl, rfl⟩
/-- R161-R166. -/
theorem test_words_float :
    decodeThread 0x2007030102000006 = .ok (.fadd H 3 1 2 .ru true) ∧
    decodeThread 0x2107030140400000 = .ok (.faddi H 3 1 0x40400000) ∧
    decodeThread 0x2207030102000003 = .ok (.fmul H 3 1 2 .rd) ∧
    decodeThread 0x230703013F000000 = .ok (.fmuli H 3 1 0x3F000000) ∧
    decodeThread 0x2407050102030001 = .ok (.ffma H 5 1 2 3 .rz false false) ∧
    decodeThread 0x2407050102030008 = .ok (.ffma H 5 1 2 3 .rn false true) ∧
    decodeThread 0x2507030102000000 = .ok (.fmin H 3 1 2) ∧
    decodeThread 0x2607030102000000 = .ok (.fmax H 3 1 2) ∧
    decodeThread 0x2707010304020019 = .ok (.fsetp H 1 3 4 2 .ne true .or) ∧
    decodeThread 0x2857030100000000 = .ok (.frcp ⟨5, false, 7⟩ 3 1) ∧
    decodeThread 0x2907030100000000 = .ok (.frsq H 3 1) ∧
    decodeThread 0x2A07030100000000 = .ok (.fex2 H 3 1) ∧
    decodeThread 0x2B07030100000000 = .ok (.flg2 H 3 1) ∧
    decodeThread 0x2C07030100000000 = .ok (.fsin H 3 1) ∧
    decodeThread 0x2D07030100000000 = .ok (.fcos H 3 1) ∧
    decodeThread 0x2E07030100000001 = .ok (.frnd H 3 1 .rz) ∧
    decodeThread 0x2F07030100000000 = .ok (.fclass H 3 1) ∧
    decodeThread 0x3007030102000005 = .ok (.hadd2 H 3 1 2 .rz true) ∧
    decodeThread 0x3107030102000004 = .ok (.hmul2 H 3 1 2 .rn true) ∧
    decodeThread 0x3207030102040002 = .ok (.hfma2 H 3 1 2 4 .ru false) ∧
    decodeThread 0x3307010304020050 = .ok (.hsetp2 H 1 3 4 2 .eq false .or true false) ∧
    decodeThread 0x340703010000004D = .ok (.cvtif H 3 1 .rz .u8 .bf16) ∧
    decodeThread 0x3507030100000027 = .ok (.cvtfi H 3 1 .rd .fp16 .i8) ∧
    decodeThread 0x3607030100000020 = .ok (.cvtff H 3 1 .rn .fp32 .bf16) ∧
    decodeThread 0x3707060700003C00 = .ok (.cvtt H 6 7 0x3C false false) ∧
    decodeThread 0x3707060700000103 = .ok (.cvtt H 6 7 1 true true) ∧
    decodeThread 0x3807030102000002 = .ok (.fscale H 3 1 2 .ru) :=
  ⟨rfl, rfl, rfl, rfl, rfl, rfl, rfl, rfl, rfl, rfl, rfl, rfl, rfl, rfl, rfl, rfl, rfl, rfl, rfl, rfl, rfl, rfl, rfl, rfl, rfl, rfl, rfl⟩
/-- R167, R168, R172-R175. -/
theorem test_words_moves :
    decodeThread 0x4007030100000000 = .ok (.mov H 3 1) ∧
    decodeThread 0x4107030012345678 = .ok (.movi H 3 0x12345678) ∧
    decodeThread 0x4207030102050000 = .ok (.sel H 3 1 2 5) ∧
    decodeThread 0x430703000000001B = .ok (.s2v H 3 0x1B) ∧
    decodeThread 0x440109080A0B0002 = .ok (.lxch ⟨0, false, 1⟩ 9 8 10 11 .hi 0) ∧
    decodeThread 0x440709080A0B0017 = .ok (.lxch H 9 8 10 11 .flip 5) ∧
    decodeThread 0x4507010208000002 = .ok (.pjoin H 1 2 8 .same) ∧
    decodeThread 0x4607030208000000 = .ok (.pmask H 3 2 8) ∧
    decodeThread 0x4707030108000000 = .ok (.leqm H 3 1 8) ∧
    decodeThread 0x48170C080B000004 = .ok (.wscan ⟨1, false, 7⟩ 12 8 11 .add true .i32) ∧
    decodeThread 0x49070C080B000012 = .ok (.wred H 12 8 11 .max .f32) ∧
    decodeThread 0x4A07010203040080 = .ok (.plop H 1 2 3 4 0x80) ∧
    decodeThread 0x4B07030000000000 = .ok (.p2v H 3) ∧
    decodeThread 0x4C07000300000041 = .ok (.v2p H 3 0x41) ∧
    decodeThread 0x4D07000300000000 = .ok (.wsync H 3) :=
  ⟨rfl, rfl, rfl, rfl, rfl, rfl, rfl, rfl, rfl, rfl, rfl, rfl, rfl, rfl, rfl⟩
/-- R80, R260-R264, R281, R284-R286. -/
theorem test_words_memory :
    decodeThread 0x602A080400340010 = .ok (.ld ⟨2, true, 2⟩ 8 4 ⟨false, false, .dflt, false⟩ ⟨3, .b32, .blk, 16⟩) ∧
    decodeThread 0x60070804A8013FFF = .ok (.ld H 8 4 ⟨true, false, .cs, true⟩ ⟨0, .b8, .sys, 0x3FFF⟩) ∧
    decodeThread 0x610740040A06C002 = .ok (.st H 4 10 ⟨false, true, .dflt, false⟩ ⟨0, .b64, .dev, 2⟩) ∧
    decodeThread 0x6207070308020003 = .ok (.lds H 7 3 ⟨false, false, .dflt, true⟩ ⟨0, .b16, .blk, 3⟩) ∧
    decodeThread 0x6307000308F80001 = .ok (.sts H 3 8 ⟨false, false, .dflt, false⟩ ⟨15, .b128, .blk, 1⟩) ∧
    decodeThread 0x64370C060904C9C0 = .ok (.atom ⟨3, false, 7⟩ 12 6 9 ⟨0, .b32, .dev, .max, .signed, true, true⟩) ∧
    decodeThread 0x65070C0308162000 = .ok (.atoms H 12 3 8 ⟨1, .b64, .blk, .dec, .unsigned, false, false⟩) ∧
    decodeThread 0x6607000609250240 = .ok (.red H 6 9 ⟨2, .b32, .sys, .add, .fp32, false, true⟩) ∧
    decodeThread 0x67070C0608048080 = .ok (.acas H 12 6 8 ⟨0, .b32, .die, .add, .unsigned, true, false⟩) ∧
    decodeThread 0x68271E2880060001 = .ok (.rld ⟨2, false, 7⟩ 30 40 ⟨true, false, .dflt, false⟩ ⟨0, .b64, .blk, 1⟩) ∧
    decodeThread 0x690740280A440000 = .ok (.rst H 40 10 ⟨false, true, .dflt, false⟩ ⟨4, .b32, .blk, 0⟩) ∧
    decodeThread 0x6A070C2809041400 = .ok (.ratom H 12 40 9 ⟨0, .b32, .blk, .xor, .unsigned, false, false⟩) ∧
    decodeThread 0x6B07140000000095 = .ok (.spop H 20 true .b16 5) ∧
    decodeThread 0x6C07000401000040 = .ok (.pref H 4 true 0x40) ∧
    decodeThread 0x6D07010400700020 = .ok (.cctl H 4 .wb 7 0x20) ∧
    decodeThread 0x6E07030800000029 = .ok (.xkick H 3 8 2 true 1) :=
  ⟨rfl, rfl, rfl, rfl, rfl, rfl, rfl, rfl, rfl, rfl, rfl, rfl, rfl, rfl, rfl, rfl⟩
/-- R332, R344. -/
theorem test_words_sync :
    decodeThread 0x8007001405000002 = .ok (.binit H 20 5 .die) ∧
    decodeThread 0x81170C1400000000 = .ok (.barv ⟨1, false, 7⟩ 12 20 false) ∧
    decodeThread 0x81070C1400000001 = .ok (.barv H 12 20 true) ∧
    decodeThread 0x8207001406000000 = .ok (.btx H 20 6) ∧
    decodeThread 0x830700140C000000 = .ok (.bwait H 20 12) ∧
    decodeThread 0x840703140C000000 = .ok (.btest H 3 20 12) ∧
    decodeThread 0x8507000000000049 = .ok (.dbar H .job 9) ∧
    decodeThread 0x8607000000030005 = .ok (.fence H .dev 5) ∧
    decodeThread 0x8707000000000082 = .ok (.waitc H .gather 2) ∧
    decodeThread 0x88070A040804CE00 = .ok (.poll H 10 4 8 ⟨0, .b32, .dev, .ne, true, 2⟩) ∧
    decodeThread 0x8907000500008001 = .ok (.gate H 5 0x8001) ∧
    decodeThread 0x8A07051400000003 = .ok (.qmap H 5 20 false 3) ∧
    decodeThread 0x8A07001400000005 = .ok (.qmap H 0 20 true 1) ∧
    decodeThread 0x8B07030500000025 = .ok (.qpush H 3 5 2 true 1) ∧
    decodeThread 0x8C07030000000002 = .ok (.qclose H 3 2) ∧
    decodeThread 0x8D07000000000002 = .ok (.role H 2) ∧
    decodeThread 0x8E07031416000011 = .ok (.trnew H 3 20 22 0x11) ∧
    decodeThread 0x8F071E1405000000 = .ok (.trres H 30 20 5) ∧
    decodeThread 0x9007001416181023 = .ok (.trst H 20 22 24 0x102 .b64) ∧
    decodeThread 0x91171E1416180000 = .ok (.trcommit ⟨1, false, 7⟩ 30 20 22 24) ∧
    decodeThread 0x92071E1400000000 = .ok (.trlen H 30 20) ∧
    decodeThread 0x93071E1416000000 = .ok (.trwait H 30 20 22) ∧
    decodeThread 0x9407201416000007 = .ok (.trfork H 32 20 22 7) ∧
    decodeThread 0x9507031400000000 = .ok (.trrel H 3 20) ∧
    decodeThread 0x96071E140000003F = .ok (.launch H 30 20 0x3F) ∧
    decodeThread 0x9707000900000103 = .ok (.mile H 9 true 3) :=
  ⟨rfl, rfl, rfl, rfl, rfl, rfl, rfl, rfl, rfl, rfl, rfl, rfl, rfl, rfl, rfl, rfl, rfl, rfl, rfl, rfl, rfl, rfl, rfl, rfl, rfl, rfl⟩
/-- R81, R83, R177-R181, R387-R389; codes that are reserved or extensions (R82, R88). -/
theorem test_words_control :
    decodeThread 0xA0070000FFFFFFFB = .ok (.bra H 0xFFFFFFFB) ∧
    decodeThread 0xA107000400000000 = .ok (.brx H 4) ∧
    decodeThread 0xA20700000000000C = .ok (.call H 12) ∧
    decodeThread 0xA307000400000000 = .ok (.callx H 4) ∧
    decodeThread 0xA407000400000000 = .ok (.ret H 4) ∧
    decodeThread 0xA507000000000000 = .ok (.exit H) ∧
    decodeThread 0xA607000000000100 = .ok (.snooze H 0x100) ∧
    decodeThread 0xA707000000000000 = .ok (.nop H) ∧
    decodeThread 0xA807000000001234 = .ok (.trap H 0x1234) ∧
    decodeThread 0xA907000000000042 = .ok (.bkpt H 0x42) ∧
    decodeThread 0xAA07030000008010 = .ok (.sysr H 3 true 0x10) ∧
    decodeThread 0xAB07000500000018 = .ok (.sysw H 5 false 0x18) ∧
    decodeThread 0xAC07000000000000 = .ok (.eret H) ∧
    decodeThread 0xC007030102000001 = .ok (.crcw H 3 1 2 .b) ∧
    decodeThread 0x3A07000000000000 = .ok (.reservedOpcode 0x3A07000000000000) ∧
    decodeThread 0xC507000000000000 = .ok (.extEmulate 0xC507000000000000) :=
  ⟨rfl, rfl, rfl, rfl, rfl, rfl, rfl, rfl, rfl, rfl, rfl, rfl, rfl, rfl, rfl, rfl⟩
/-- R97-R99, R104. -/
theorem test_words_s_slot :
    decodeS 0x0000000000 none = some (.snop) ∧
    decodeS 0x0D0C850000 none = some (.sadd (.sg 2) 3 4 5) ∧
    decodeS 0x100C80FFFF none = some (.saddi .always 3 4 0xFFFF) ∧
    decodeS 0x180C850000 none = some (.ssub .always 3 4 5) ∧
    decodeS 0x200C850000 none = some (.smul .always 3 4 5) ∧
    decodeS 0x280C850000 none = some (.sand .always 3 4 5) ∧
    decodeS 0x300C850000 none = some (.sor .always 3 4 5) ∧
    decodeS 0x380C850000 none = some (.sxor .always 3 4 5) ∧
    decodeS 0x400C850000 none = some (.sshl .always 3 4 5) ∧
    decodeS 0x480C850000 none = some (.sshr .always 3 4 5) ∧
    decodeS 0x500C850000 none = some (.ssar .always 3 4 5) ∧
    decodeS 0x580C800000 none = some (.smov .always 3 4) ∧
    decodeS 0x600FFFFFFF none = some (.smovi .always 3 0x3FFFFFF) ∧
    decodeS 0x680C850004 none = some (.scmp .always 3 4 5 .ltu) ∧
    decodeS 0x700C850006 none = some (.ssel .always 3 4 5 6) ∧
    decodeS 0x780C800010 none = some (.sld .always 3 4 0x10) ∧
    decodeS 0x800C80FFF8 none = some (.sst .always 3 4 0xFFF8) ∧
    decodeS 0x880080FFFE none = some (.sbr .always 4 0xFFFE) ∧
    decodeS 0x9003FFFFFE none = some (.sjmp .always 0x3FFFFFE) ∧
    decodeS 0x980C000005 none = some (.scall .always 3 5) ∧
    decodeS 0xA000800000 none = some (.sret .always 4) ∧
    decodeS 0xA814800008 none = some (.loop .always 5 4 8) ∧
    decodeS 0xB01400FFFF none = some (.lbr .always 5 0xFFFF) ∧
    decodeS 0xB808800040 none = some (.pcfg .always 2 4 0x40) ∧
    decodeS 0xB80C800000 none = some (.pcfg .always 3 4 0) ∧
    decodeS 0xC01C800000 none = some (.fmtw .always 7 4) ∧
    decodeS 0xC000008002 none = some (.fmtwSel .always 2) ∧
    decodeS 0xC8000000C9 none = some (.waite .always .xform 9) ∧
    decodeS 0xD010008001 none = some (.sfence .always .sys 0x8001) ∧
    decodeS 0xD80C000010 none = some (.sysrd .always 3 0x10) ∧
    decodeS 0xE000000077 none = some (.trapt .always 0x77) ∧
    decodeS 0xE800000005 none = some (.rgate .always 0x5) ∧
    decodeS 0x6010000012 (some 0x3456789ABC) = some (.smoviLong .always 4 0x123456789ABC) :=
  ⟨rfl, rfl, rfl, rfl, rfl, rfl, rfl, rfl, rfl, rfl, rfl, rfl, rfl, rfl, rfl, rfl, rfl, rfl, rfl, rfl, rfl, rfl, rfl, rfl, rfl, rfl, rfl, rfl, rfl, rfl, rfl, rfl, rfl⟩
/-- R105. -/
theorem test_words_m_slot :
    decodeM 0x0000000000 = some (.mnop) ∧
    decodeM 0x2148310400 = some (.mnest .always 5 4 3 2 1) ∧
    decodeM 0x40299A0000 = some (.msrc .always (.ring 2) (.tile 3) (.fmt .tf8) (.fmt .tf6) none) ∧
    decodeM 0x4029F8E200 = some (.msrc .always (.ring 2) (.tile 3) .table (.fmt .fp16) (some (.tile 1))) ∧
    decodeM 0x7FFFE00000 = some (.macc (.sg 7) 0x7FF true) ∧
    decodeM 0x8100000000 = some (.mgo .always true) ∧
    decodeM 0xA162800000 = some (.mret .always (.tile 6) (.fmt .bf16) true) :=
  ⟨rfl, rfl, rfl, rfl, rfl, rfl, rfl⟩
/-- R106, R107; the literal of R115's example. -/
theorem test_words_v_slot :
    decodeV 0x00000000000000 none = some (.vnop) ∧
    decodeV 0x08029000000000 none = some (.vmov .always (.w 1) (.pt 2)) ∧
    decodeV 0x100217E0300000 none = some (.vadd .always (.w 1) (.w 2) .wz (.fmt .int32)) ∧
    decodeV 0x18221060000000 none = some (.vsub .always (.pt 1) (.w 2) (.w 3) (.fmt .fp32)) ∧
    decodeV 0x20021060780000 none = some (.vmul .always (.w 1) (.w 2) (.w 3) .table) ∧
    decodeV 0x28021062000000 none = some (.vfma .always (.w 1) (.w 2) (.w 3) (.w 4) (.fmt .fp32)) ∧
    decodeV 0x30021060000000 none = some (.vmax .always (.w 1) (.w 2) (.w 3) (.fmt .fp32)) ∧
    decodeV 0x3C7E1060300000 none = some (.vmin (.sg 0) .wz (.w 2) (.w 3) (.fmt .int32)) ∧
    decodeV 0x40021060000000 none = some (.vexpd .always (.w 1) (.w 2) (.w 3) (.fmt .fp32)) ∧
    decodeV 0x48021000000000 none = some (.vrcp .always (.w 1) (.w 2) (.fmt .fp32)) ∧
    decodeV 0x50021000182000 none = some (.vcvt .always (.w 1) (.w 2) (.fmt .tf8) (.fmt .fp32) .ru) ∧
    decodeV 0x58021000300100 none = some (.vred .always (.w 1) (.w 2) .max (.fmt .int32)) ∧
    decodeV 0x60021000000600 none = some (.vscan .always (.w 1) (.w 2) .min true (.fmt .fp32)) ∧
    decodeV 0x68021060000500 none = some (.vcmp .always (.w 1) (.w 2) (.w 3) .ge (.fmt .fp32)) ∧
    decodeV 0x70021000001E00 none = some (.vmsk .always (.w 1) (.w 2) 30 (.fmt .fp32)) ∧
    decodeV 0x78021062000000 none = some (.vsel .always (.w 1) (.w 2) (.w 3) (.w 4) (.fmt .fp32)) ∧
    decodeV 0x8002100001C000 none = some (.vtopk .always (.w 1) (.w 2) 64 3 (.fmt .fp32)) ∧
    decodeV 0x88341000300000 none = some (.vldix .always 2 (.w 2) (.fmt .int32)) ∧
    decodeV 0x90021060000000 none = some (.vsacc .always (.w 1) (.w 2) (.w 3) (.fmt .fp32)) ∧
    decodeV 0x200207C0000000 (some 0x3F0000) = some (.vmul .always (.w 1) (.w 0) (.lit 0x3F000000) (.fmt .fp32)) :=
  ⟨rfl, rfl, rfl, rfl, rfl, rfl, rfl, rfl, rfl, rfl, rfl, rfl, rfl, rfl, rfl, rfl, rfl, rfl, rfl, rfl⟩
/-- R108-R110, R290, R291, R298. -/
theorem test_words_t_c_x_slots :
    decodeT 0x000000 = some (.tnop) ∧
    decodeT 0x415800 = some (.trn .always 5 6) ∧
    decodeT 0xA55940 = some (.trnc (.sg 1) 5 6 (.fmt .int8)) ∧
    decodeC 0x000000000000 none = some (.cnop) ∧
    decodeC 0x200289036000 none = some (.cld .always ⟨5, .ring 2, 8, 1, true⟩ ⟨false, true, true, none, 0, false, false, 0⟩) ∧
    decodeC 0x41FFC9028000 none = some (.cst .always ⟨0x3FF, .tile 2, 8, 1, false⟩ ⟨true, false, false, none, 0, false, false, 0⟩) ∧
    decodeC 0x600289008AD6 none = some (.cgat .always ⟨5, .ring 2, 8, 0, false⟩ 2 10 53 true) ∧
    decodeC 0x800281000450 none = some (.cpre .always ⟨5, .ring 0, 8, 0, false⟩ ⟨false, false, false, some .tf6, 5, false, false, 0⟩) ∧
    decodeC 0xA00281000000 (some 0x0407) = some (.cmc .always ⟨5, .ring 0, 8, 0, false⟩ ⟨false, false, false, none, 0, false, true, 7⟩) ∧
    decodeC 0xC00281008000 none = some (.csum .always ⟨5, .ring 0, 8, 0, false⟩ ⟨true, false, false, none, 0, false, false, 0⟩) ∧
    decodeC 0xF60024800000 none = some (.cring (.sg 3) 9 4) ∧
    decodeX 0x0000 = some (.xnop) ∧
    decodeX 0x40A4 = some (.xs2t .always 2 5) ∧
    decodeX 0x80A4 = some (.xt2s .always 5 2) :=
  ⟨rfl, rfl, rfl, rfl, rfl, rfl, rfl, rfl, rfl, rfl, rfl, rfl, rfl, rfl⟩

/-! ### Bundles and words that decoding refuses -/

/-- R114's bundle .wm SMOVI s4, 0x123456789ABC | VMUL w1, w0, 0.5 -/
def EXB : BitVec 256 := 0x5200000060100000123456789ABC200207C00000003F00000000000000000000
theorem test_bundle_example :
    decodeBundle EXB = .ok ⟨true, false, .smoviLong .always 4 0x123456789ABC, none, .vmul .always (.w 1) (.w 0) (.lit 0x3F000000) (.fmt .fp32), none, .cnop, some .xnop⟩ := rfl
/-- R114's variants: bit 255; V opcode 19; SUR.T cleared. A bundle of zeros is all NOPs; YLD alone is refused (R96). -/
theorem test_bundle_refused :
    decodeBundle (EXB ||| (1 <<< 255)) = .error .illegalEncoding ∧ decodeBundle (EXB ^^^ ((4 ^^^ 19) <<< 139)) = .error .illegalOpcode ∧
    decodeBundle (EXB ^^^ (1 <<< 252)) = .error .illegalEncoding ∧ decodeBundle 0 = .ok ⟨false, false, .snop, some .mnop, .vnop, some .tnop, .cnop, some .xnop⟩ ∧
    decodeBundle (1 <<< 248) = .error .illegalEncoding ∧ decodeTableWord 256 (2 ^ 248) = some (.bundleDecodeTrap (1 <<< 248)) := ⟨rfl, rfl, rfl, rfl, rfl, rfl⟩
/-- R84's fates: PN with PG = 7; LA on a short opcode; an SC field that IADD leaves unused; a reserved SAT; a V2 field of an odd register; LA 2 and MOD bit 1 of BARV; WSCAN of operation 3. -/
theorem test_words_refused :
    decodeThread 0x000F030102000000 = .error .illegalEncoding ∧ decodeThread 0x0017030102000000 = .error .illegalEncoding ∧
    decodeThread 0x0007030102010000 = .error .illegalEncoding ∧ decodeThread 0x0007030102000003 = .error .illegalEncoding ∧
    decodeThread 0x1C07050204000000 = .error .illegalEncoding ∧ decodeThread 0x81270C1400000002 = .error .illegalEncoding ∧
    decodeThread 0x48170C080B000007 = .error .illegalEncoding := ⟨rfl, rfl, rfl, rfl, rfl, rfl, rfl⟩
/-- The decoder of the table's rows, and the machine that runs one word. -/
theorem test_table_words :
    decodeTableWord 64 0x0007030102000000 = some (.iadd H 3 1 2 .wrap) ∧ decodeTableWord 40 0x0804430000 = some (.sadd .always 1 2 3) ∧
    decodeTableWord 16 0x40A4 = some (.xs2t .always 2 5) ∧ decodeTableWord 64 0x0017030102000000 = none := ⟨rfl, rfl, rfl, rfl⟩

/-! ### Ill-formed terms -/

/-- R84 check 2 and LA; R77's pairs and fours. -/
theorem test_illFormed_kinds :
    (Instr.nop ⟨0, true, 7⟩).wf = false ∧ (Instr.iadd ⟨1, false, 7⟩ 0 0 0 .wrap).wf = false ∧ (Instr.exit ⟨1, false, 7⟩).wf = false ∧ (Instr.frcp ⟨1, false, 7⟩ 0 0).wf = true ∧
    (Instr.iadd64 H 1 0 0).wf = false ∧ (Instr.iadd64 H 254 0 0).wf = false ∧ (Instr.rld H 0 2 ⟨false, false, .dflt, false⟩ ⟨0, .b32, .blk, 0⟩).wf = false := by decide +kernel
/-- The fields of the thread set. -/
theorem test_illFormed_thread :
    ([.s2v H 0 0x1C, .lxch H 0 0 0 0 .abs 6, .ld H 0 0 ⟨false, true, .dflt, false⟩ ⟨0, .b32, .blk, 0⟩, .ld H 0 0 ⟨false, false, .dflt, true⟩ ⟨0, .b32, .blk, 0⟩,
      .ld H 0 0 ⟨false, false, .dflt, false⟩ ⟨0, .b32, .job, 0⟩, .st H 0 0 ⟨true, false, .dflt, false⟩ ⟨0, .b32, .blk, 0⟩, .lds H 0 0 ⟨false, false, .cg, false⟩ ⟨0, .b32, .blk, 0⟩,
      .sts H 0 0 ⟨false, false, .dflt, false⟩ ⟨0, .b32, .quad, 0⟩, .atom H 0 0 0 ⟨0, .b16, .blk, .add, .unsigned, false, false⟩, .atom H 0 0 0 ⟨0, .b64, .blk, .add, .fp32, false, false⟩,
      .atom H 0 0 0 ⟨0, .b32, .blk, .add, .signed, false, false⟩, .atoms H 0 0 0 ⟨0, .b32, .blk, .add, .unsigned, true, false⟩, .red H 0 0 ⟨0, .b32, .blk, .add, .unsigned, true, false⟩,
      .acas H 0 0 0 ⟨0, .b32, .blk, .exch, .unsigned, false, false⟩, .rld H 0 0 ⟨false, false, .cs, false⟩ ⟨0, .b32, .blk, 0⟩, .rst H 0 0 ⟨false, false, .dflt, false⟩ ⟨0, .b32, .sys, 0⟩,
      .ratom H 0 0 0 ⟨0, .b32, .dev, .add, .unsigned, false, false⟩, .spop H 0 true .b32 0, .binit H 0 0 .job, .poll H 0 0 0 ⟨0, .b8, .blk, .eq, false, 0⟩, .qmap H 1 0 true 0,
      .trst H 0 0 0 0 .b16, .mile H 0 false 0, .mile H 1 false 1, .sysr H 0 false 0x12, .sysw H 0 false 0x7FFF, .reservedOpcode 0, .extEmulate 0xC10F000000000000] : List Instr).all (fun i => !i.wf) = true := by
  decide +kernel
/-- The fields of the tile set. -/
theorem test_illFormed_tile :
    ([.sld .always 0 0 4, .sst .always 0 0 1, .pcfg .always 0 0 8, .loop .always 6 0 0, .loop .always 0 0 9, .lbr .always 6 0, .fmtwSel .always 7, .sysrd .always 0 0x12,
      .mnest .always 6 0 0 0 0, .msrc .always (.ring 0) (.ring 1) (.fmt .fp32) (.fmt .fp16) none, .msrc .always (.ring 0) (.ring 1) (.fmt .fp32) (.fmt .fp32) (some (.ring 2)),
      .mret .always (.tile 0) (.fmt .bsw) false, .vmov .always (.lit 0) .wz, .vmov .always .wz (.ix 0), .vadd .always .wz .wz .wz (.fmt .fp16), .vfma .always .wz .wz .wz (.lit 0) (.fmt .fp32),
      .vexpd .always .wz .wz (.lit 0) (.fmt .fp32), .vcvt .always .wz .wz (.fmt .e8) (.fmt .fp32) .rn, .vtopk .always .wz (.w 0) 0 0 (.fmt .fp32), .vtopk .always .wz (.w 0) 65 0 (.fmt .fp32),
      .vtopk .always .wz (.w 15) 1 1 (.fmt .fp32), .vldix .always 0 .wz (.fmt .fp32), .trnc .always 0 0 (.fmt .e8), .cld .always ⟨0, .ring 0, 28, 0, false⟩ ⟨false, false, false, none, 0, false, false, 0⟩,
      .cld .always ⟨0, .ring 0, 0, 0, false⟩ ⟨false, false, false, none, 1, false, false, 0⟩, .cld .always ⟨0, .ring 0, 0, 0, false⟩ ⟨false, false, false, some .tf6, 6, false, false, 0⟩,
      .cst .always ⟨0, .ring 0, 0, 0, false⟩ ⟨false, false, false, none, 0, false, false, 0⟩, .cgat .always ⟨0, .tile 0, 0, 0, false⟩ 0 0 0 false, .cgat .always ⟨0, .ring 0, 0, 0, false⟩ 0 32 32 false,
      .cpre .always ⟨0, .ring 1, 0, 0, false⟩ ⟨false, false, false, none, 0, false, false, 0⟩, .cmc .always ⟨0, .ring 0, 25, 0, false⟩ ⟨false, false, false, none, 0, false, false, 0⟩,
      .csum .always ⟨0, .ring 0, 0, 0, false⟩ ⟨false, true, false, none, 0, false, false, 0⟩] : List Instr).all (fun i => !i.wf) = true := by
  decide +kernel

/-! ### Single steps -/

/-- What a thread instruction leaves in a register of the only thread. -/
def after (i : Instr) (s : State) (r : VReg) : Option Word := match exec i s with | .next t => some (t.rv T0 r) | _ => none
/-- What it leaves in a predicate. -/
def afterP (i : Instr) (s : State) (p : PReg) : Option Bool := match exec i s with | .next t => some (t.pget T0 p) | _ => none
/-- The outcome is the state that the check accepts. -/
def goes (r : Host.Outcome State Fault Refusal) (P : State → Bool) : Bool := match r with | .next s => P s | _ => false
/-- By hand from R158: two wraps, two saturations, a high word, pairs of both signs, the exclusive or of three masks and the AND with a complement. -/
theorem test_integer_values :
    after (.iadd H 3 1 2 .wrap) (regs [(1, 0xFFFFFFFF), (2, 2)]) 3 = some 1 ∧ after (.iadd H 1 1 2 .signed) (regs [(1, 0x7FFFFFFF), (2, 1)]) 1 = some 0x7FFFFFFF ∧
    after (.isub H 3 1 2 .unsigned) (regs [(1, 1), (2, 2)]) 3 = some 0 ∧ after (.isub H 3 1 2 .wrap) (regs [(1, 1), (2, 2)]) 3 = some 0xFFFFFFFF ∧
    after (.imulh H 3 1 2 false) (regs [(1, 0xFFFFFFFF), (2, 2)]) 3 = some 0xFFFFFFFF ∧ after (.imulh H 3 1 2 true) (regs [(1, 0xFFFFFFFF), (2, 2)]) 3 = some 1 ∧
    after (.imadw H 6 1 2 4 false) (regs [(1, 0xFFFFFFFF), (2, 2), (4, 1)]) 7 = some 0xFFFFFFFF ∧ after (.iadd64 H 6 2 4) (regs [(2, 0xFFFFFFFF), (4, 1)]) 7 = some 1 ∧
    after (.tlog H 3 1 2 4 0x96) (regs [(1, 0xAA), (2, 0xCC), (4, 0xF0)]) 3 = some 0x96 ∧ after (.tlogi H 3 1 0xFFFFF0 2) (regs [(1, 0xFF)]) 3 = some 0x0F ∧
    after (.iclamp H 3 1 2 4 false) (regs [(1, 7), (2, 9), (4, 5)]) 3 = some 5 ∧ after (.iabs H 3 1 true) (regs [(1, 0x80000000)]) 3 = some 0x7FFFFFFF ∧
    after (.idot4 H 3 1 2 4 true false false) (regs [(1, 0x000000FF), (2, 0x000000FF), (4, 5)]) 3 = some (BitVec.ofInt 32 (-250)) := by decide +kernel
/-- By hand from R158-R160: shifts by 32 and more, a funnel shift of the high word's side, a field above bit 31, a field that is dropped past bit 31, counts. -/
theorem test_shift_values :
    after (.shl H 3 1 2) (regs [(1, 1), (2, 32)]) 3 = some 0 ∧ after (.sar H 3 1 2) (regs [(1, 0x80000000), (2, 99)]) 3 = some 0xFFFFFFFF ∧
    after (.shr H 3 1 2) (regs [(1, 0x80000000), (2, 31)]) 3 = some 1 ∧ after (.fshf H 3 1 2 4 false) (regs [(1, 0x80000000), (2, 1), (4, 33)]) 3 = some 3 ∧
    after (.fshf H 3 1 2 4 true) (regs [(1, 2), (2, 1), (4, 1)]) 3 = some 0x80000001 ∧ after (.bfx H 3 1 2 true) (regs [(1, 0x80), (2, 0x0404)]) 3 = some 0xFFFFFFF8 ∧
    after (.bfx H 3 1 2 false) (regs [(1, 0xFFFFFFFF), (2, 0x0420)]) 3 = some 0 ∧ after (.bfi H 3 1 2 4) (regs [(1, 0xFF), (2, 0), (4, 0x081C)]) 3 = some 0xF0000000 ∧
    after (.clz H 3 1) (regs []) 3 = some 32 ∧ after (.popc H 3 1) (regs [(1, 0xF0F)]) 3 = some 8 ∧ after (.brev H 3 1) (regs [(1, 1)]) 3 = some 0x80000000 ∧
    after (.lea64 H 6 2 5 true 3) (regs [(2, 0x10), (5, 0xFFFFFFFF)]) 6 = some 8 := by decide +kernel
/-- The discarded register, the hard-wired one and the failed guard (R77, R78). -/
theorem test_v255_and_guards :
    after (.movi H 255 7) W 255 = some 0 ∧ after (.iaddi H 3 255 5) W 3 = some 5 ∧ after (.movi ⟨0, false, 2⟩ 3 7) W 3 = some 0 ∧ after (.movi ⟨0, true, 2⟩ 3 7) W 3 = some 7 := by decide +kernel
/-- By hand from R159, R163, R167: an immediate below every unsigned pattern but its own, a NaN with U, the table of an AND. -/
theorem test_predicate_values :
    afterP (.isetpi H 1 3 0xFFFFFF .lt true) (regs [(3, 0xFFFFFFFE)]) 1 = some true ∧ afterP (.isetpi H 1 3 0xFFFFFF .lt false) (regs [(3, 0)]) 1 = some false ∧
    afterP (.fsetp H 1 3 4 7 .eq true .and) (regs [(3, 0x7FC00000)]) 1 = some true ∧ afterP (.fsetp H 1 3 4 7 .ne false .and) (regs [(3, 0x7FC00000)]) 1 = some false ∧
    afterP (.fsetp H 1 3 4 7 .eq false .and) (regs [(3, 0x80000000)]) 1 = some true ∧ afterP (.plop H 1 7 7 7 0x80) W 1 = some true ∧ afterP (.plop H 1 7 7 2 0x80) W 1 = some false := by decide +kernel
/-- R166's example (0.3 gives 0x62), R181's note (the check value of "123456789"), R161's caution (zero times infinity), and sums by hand. -/
theorem test_float_values :
    after (.cvtt H 6 7 0x3C false false) (regs [(7, 0x3E99999A)]) 6 = some 0x62 ∧
    (do let x ← after (.crcw H 1 1 2 .w) (regs [(1, 0xFFFFFFFF), (2, 0x34333231)]) 1
        let y ← after (.crcw H 1 1 2 .w) (regs [(1, x), (2, 0x38373635)]) 1
        after (.crcw H 1 1 2 .b) (regs [(1, y), (2, 0x39)]) 1) = some 0x1CF96D7C ∧
    after (.ffma H 3 1 2 4 .rn false false) (regs [(2, 0x7F800000)]) 3 = some 0x7FC00000 ∧ after (.fadd H 3 1 2 .rn false) (regs [(1, 0x3F800000), (2, 0x40000000)]) 3 = some 0x40400000 ∧
    after (.fadd H 3 1 2 .rn false) (regs [(1, 0x3F800000), (2, 0x33800000)]) 3 = some 0x3F800000 ∧ after (.fadd H 3 1 2 .ru false) (regs [(1, 0x3F800000), (2, 0x33800000)]) 3 = some 0x3F800001 ∧
    after (.fmul H 3 1 1 .rn) (regs [(1, 0x00800000)]) 3 = some 0 ∧ after (.frnd H 3 1 .rd) (regs [(1, 0xBF000000)]) 3 = some 0xBF800000 ∧ after (.fclass H 3 1) (regs [(1, 0x7F800001)]) 3 = some 0x100 ∧
    after (.hadd2 H 3 1 2 .rn false) (regs [(1, 0x3C004000), (2, 0x3C003C00)]) 3 = some 0x40004200 ∧ after (.cvtif H 3 1 .rz .i32 .fp32) (regs [(1, 0xFFFFFFFF)]) 3 = some 0xBF800000 ∧
    after (.cvtfi H 3 1 .rn .fp32 .u8) (regs [(1, 0x43C80000)]) 3 = some 0xFF ∧ after (.fscale H 3 1 2 .rn) (regs [(1, 0x3F800000), (2, 0xFFFFFFFF)]) 3 = some 0x3F000000 := by decide +kernel
/-- R177: a branch, a call and its link, a return whose target is not aligned (a trap at the return). -/
theorem test_control :
    goes (exec (.bra H 0xFFFFFFFF) (thr fun th => { th with pc := 0x40 })) (fun s => (s.thread? T0).any fun th => th.pc == 0x38) = true ∧
    goes (exec (.call H 12) (thr fun th => { th with pc := 0x40 })) (fun s => (s.thread? T0).any fun th => th.pc == 0xA0 && s.rv T0 250 == 0x48 && s.rv T0 251 == 0) = true ∧
    goes (exec (.ret H 4) (regs [(4, 0x81)])) (fun s => (s.thread? T0).any fun th => th.pc != 0x81 && th.pc != 0x80) = true := by decide +kernel
/-- R266, R315: a store of 8 bytes is little-endian; what follows it stays. -/
theorem test_store : goes (exec (.st H 0 2 ⟨false, false, .dflt, false⟩ ⟨0, .b64, .blk, 1⟩) (regs [(0, 0x100), (2, 0x04030201), (3, 0x08070605)]))
    (fun s => s.seen 0 0x108 8 == 0x0807060504030201) = true := by decide +kernel
/-- A fetch at the PC runs the word that stands there (R76, R84); a bundle's scalar sum lands; an ill-formed bundle traps at its PC. -/
theorem test_steps :
    goes (step (State.reset.withFetchWord 64 0xA707000000000000)) (fun s => (s.thread? T0).any fun th => th.pc == 8) = true ∧
    goes (step (State.reset.withFetchWord 64 0x4107030012345678)) (fun s => s.rv T0 3 == 0x12345678) = true ∧
    goes (step (State.reset.withFetchWord 40 0x100C600001)) (fun s => (s.block? 0 0).any fun b => b.tile.pc == 32) = true := by decide +kernel

end Sys2Proof.Tests
end

namespace Sys2Proof.Machine
open Sys2Proof.Rules

/-! ### Registers: what is read after a write (R411, R448) -/

@[simp] theorem State.reg_setReg_self (s : State) (a : Nat) (v : Dword) : (s.setReg a v).reg a = v := SMap.get_putD_same ..

theorem State.reg_setReg_of_ne (s : State) {a b : Nat} (v : Dword) (h : a ≠ b) : (s.setReg a v).reg b = s.reg b := by
  unfold State.reg State.setReg SMap.putD
  split
  · rw [SMap.get_del, if_neg h]
  · rw [SMap.get_put, if_neg h]

@[simp] theorem State.regN_setReg_self (s : State) (a : Nat) (v : Dword) : (s.setReg a v).regN a = v.toNat := by simp [State.regN]

theorem State.regN_setReg_of_ne (s : State) {a b : Nat} (v : Dword) (h : a ≠ b) : (s.setReg a v).regN b = s.regN b := by
  unfold State.regN; rw [State.reg_setReg_of_ne s v h]

/-! A register's value depends on the registers alone. -/

theorem State.reg_congr {s s' : State} (h : s'.regs = s.regs) (a : Nat) : s'.reg a = s.reg a := by unfold State.reg; rw [h]
theorem State.regN_congr {s s' : State} (h : s'.regs = s.regs) (a : Nat) : s'.regN a = s.regN a := by unfold State.regN; rw [State.reg_congr h]
theorem State.rbState_congr {s s' : State} (h : s'.regs = s.regs) (c : Nat) : s'.rbState c = s.rbState c := by unfold State.rbState; rw [State.regN_congr h]

theorem rbState_setReg_of_ne (s : State) (c : Nat) {a : Nat} (v : Dword) (h : a ≠ ctxReg c 0x928) : (s.setReg a v).rbState c = s.rbState c := by
  unfold State.rbState; rw [State.regN_setReg_of_ne _ _ h]

/-- Two registers at different offsets of a context's window are different registers. -/
theorem ctxReg_ne (c : Nat) {x y : Nat} (h : x ≠ y) : ctxReg c x ≠ ctxReg c y := by unfold ctxReg; omega

theorem devReg_ne {x y : Nat} (h : x ≠ y) : devReg x ≠ devReg y := by unfold devReg; omega

/-! ### Bit fields (R4) -/

theorem bits_eq (x hi lo : Nat) : bits x hi lo = x / 2 ^ lo % 2 ^ (hi + 1 - lo) := by rw [bits, Nat.shiftRight_eq_div_pow]

theorem bit_eq_decide (x k : Nat) : bit x k = decide (x / 2 ^ k % 2 = 1) := by
  rw [bit, Nat.shiftRight_eq_div_pow]; rfl

theorem bit_eq_testBit (x k : Nat) : bit x k = x.testBit k := by rw [bit_eq_decide, Nat.testBit_eq_decide_div_mod_eq]

theorem bit_regN (s : State) (a k : Nat) : bit (s.regN a) k = (s.reg a).getLsbD k := bit_eq_testBit ..

/-- The number of a register with one field replaced: what is above the field, the field, what is below. -/
theorem toNat_setField (x : Dword) {hi lo : Nat} (v : Nat) (hl : lo ≤ hi) (hh : hi < 64) :
    (setField x hi lo v).toNat = x.toNat / 2 ^ (hi + 1) * 2 ^ (hi + 1) + v % 2 ^ (hi + 1 - lo) * 2 ^ lo + x.toNat % 2 ^ lo := by
  have hp : 2 ^ (hi + 1) = 2 ^ lo * 2 ^ (hi + 1 - lo) := by rw [← Nat.pow_add]; congr 1; omega
  have hv : v % 2 ^ (hi + 1 - lo) + 1 ≤ 2 ^ (hi + 1 - lo) := Nat.mod_lt _ (Nat.two_pow_pos _)
  have hlow : x.toNat % 2 ^ lo < 2 ^ lo := Nat.mod_lt _ (Nat.two_pow_pos _)
  have hdecomp : x.toNat = x.toNat / 2 ^ (hi + 1) * 2 ^ (hi + 1) + x.toNat / 2 ^ lo % 2 ^ (hi + 1 - lo) * 2 ^ lo + x.toNat % 2 ^ lo := by
    have h1 := Nat.div_add_mod x.toNat (2 ^ lo)
    have h2 := Nat.div_add_mod (x.toNat / 2 ^ lo) (2 ^ (hi + 1 - lo))
    rw [Nat.div_div_eq_div_mul, ← hp] at h2
    calc x.toNat = 2 ^ lo * (x.toNat / 2 ^ lo) + x.toNat % 2 ^ lo := h1.symm
      _ = 2 ^ lo * (2 ^ (hi + 1 - lo) * (x.toNat / 2 ^ (hi + 1)) + x.toNat / 2 ^ lo % 2 ^ (hi + 1 - lo)) + x.toNat % 2 ^ lo := by rw [h2]
      _ = _ := by rw [hp, Nat.mul_add]; ac_rfl
  have hfield : (v % 2 ^ (hi + 1 - lo)) * 2 ^ lo + x.toNat % 2 ^ lo < 2 ^ (hi + 1) := by
    have := Nat.mul_le_mul_right (2 ^ lo) hv
    rw [hp, Nat.mul_comm (2 ^ lo)]; rw [Nat.add_mul] at this; omega
  have htop : (x.toNat / 2 ^ (hi + 1) + 1) * 2 ^ (hi + 1) ≤ 2 ^ 64 := by
    have h64 : 2 ^ 64 = 2 ^ (63 - hi) * 2 ^ (hi + 1) := by rw [← Nat.pow_add]; congr 1; omega
    rw [h64]
    refine Nat.mul_le_mul_right _ (Nat.div_lt_of_lt_mul ?_)
    rw [Nat.mul_comm, ← h64]; exact x.isLt
  rw [Nat.add_mul] at htop
  rw [setField, BitVec.toNat_ofNat, bits_eq, Nat.shiftLeft_eq, Nat.shiftLeft_eq]
  rw [Nat.mod_eq_of_lt (by omega)]
  omega

end Sys2Proof.Machine

namespace Sys2Proof.Machine
open Sys2Proof.Rules

/-! ### Reset -/

/-- After reset nothing is listed, and every register reads as its reset value. -/
@[simp] theorem reset_reg (a : Nat) : State.reset.reg a = regReset a := rfl

/-- A register of a context's window resets to 0, but for the ring size of FBCFG (3) and the one of the audit log (6). -/
theorem regReset_ctxReg {c off : Nat} (hc : c < 64) (ho : off < 0x100000) :
    regReset (ctxReg c off) = if off = 0x210 then 3 else if ctxReg c off = 0x2B8 then 6 else 0 := by
  have hw : ctxReg c off % 0x100000 = off := by unfold ctxReg; omega
  have hd : ctxReg c off < devReg 0 := by unfold ctxReg devReg; omega
  have ht : ctxReg c off ≠ tsliceKey := by unfold devReg at hd; unfold tsliceKey; omega
  have hf : ¬ fptKey 0 ≤ ctxReg c off := by unfold devReg at hd; unfold fptKey; omega
  simp [regReset, ht, hf, Nat.not_le.2 hd, hw]

theorem regReset_fptKey (c : Nat) : regReset (fptKey c) = 0x100 := by
  have ht : fptKey c ≠ tsliceKey := by unfold fptKey tsliceKey; omega
  have hf : fptKey 0 ≤ fptKey c := by unfold fptKey; omega
  simp [regReset, ht, hf]

/-- Settles O7: the registers that reset leaves are read window by window. -/
theorem resetLeaves : Obligations.ResetLeaves := by
  unfold Obligations.ResetLeaves
  refine ⟨by decide, by decide, by decide, by decide, by decide, by decide, by decide, rfl, rfl, fun c hc => ?_⟩
  have hz : ∀ off, off < 0x100000 → off ≠ 0x210 → off ≠ 0x2B8 → State.reset.reg (ctxReg c off) = 0 := fun off ho h1 h2 => by
    have : ctxReg c off ≠ 0x2B8 := by unfold ctxReg; omega
    rw [reset_reg, regReset_ctxReg hc ho, if_neg h1, if_neg this]
  have hrb : State.reset.rbState c = 0 := by
    rw [State.rbState, State.regN, hz _ (by decide) (by decide) (by decide)]; rfl
  have hfb : State.reset.reg (ctxReg c 0x210) = 3 := by rw [reset_reg, regReset_ctxReg hc (by decide), if_pos rfl]
  exact ⟨hz _ (by decide) (by decide) (by decide), hfb, hz _ (by decide) (by decide) (by decide), hz _ (by decide) (by decide) (by decide),
    regReset_fptKey c, hrb, fun q hq => hz _ (by omega) (by omega) (by omega)⟩

end Sys2Proof.Machine

namespace Sys2Proof.Machine
open Sys2Proof.Rules

section
variable {s : State} {t : TRef} {b : Block} {w : Warp} {th : Thread}

/-! ### Blocks of a task slot, changed twice -/

theorem block?_place {c k : Nat} (h : s.block? c k = some b) : b.core = c ∧ b.slot = k := by
  have := List.find?_some h
  simpa using this

theorem State.modBlock_modBlock (s : State) (c k : Nat) {f : Block → Block} (g : Block → Block) (hf : KeepsPlace f) :
    (s.modBlock c k f).modBlock c k g = s.modBlock c k fun x => g (f x) := by
  simp only [State.modBlock, List.map_map]
  congr 1
  refine List.map_congr_left fun x _ => ?_
  by_cases h : (x.core == c && x.slot == k) = true
  · obtain ⟨h1, h2⟩ := hf x
    simp [Function.comp, h, h1, h2]
  · simp [Function.comp, h]

theorem Block.modThread_modThread (b : Block) (w l : Nat) (f g : Thread → Thread) :
    (b.modThread w l f).modThread w l g = b.modThread w l fun x => g (f x) := by
  simp only [Block.modThread, Block.modWarp, List.modify_modify_eq]
  congr 2
  funext x
  simp [Function.comp, List.modify_modify_eq]
  rfl

/-- The block after one of its threads has gone on at a PC. -/
def Block.wentOn (b : Block) (w l : Nat) (pc : Dword) : Block :=
  b.modThread w l fun th => { th with pc := pc, st := .running, wait := none, taken := [], waited := 0 }

theorem State.adv_eq (s : State) (t : TRef) (pc : Dword) : s.adv t pc = s.modBlock t.core t.slot fun b => b.wentOn t.warp t.lane pc := rfl

/-- An instruction that changes nothing but where its thread stands. -/
theorem went_adv (h : At s t b w th) (pc : Dword) :
    ∃ b1 w1 th1, Went s ((s.countIssue t).adv t pc) t b w th pc b1 w1 th1 ∧ th1.regs = th.regs ∧ th1.pred = th.pred ∧ b1.traps = b.traps :=
  ⟨_, _, _, ⟨(Local.countIssue h).trans (Local.adv h.counted pc), rfl, fun _ => counted_traps ..⟩, rfl, rfl, counted_traps ..⟩

/-- An update of every block but one. -/
def sparing (b0 : Block) (f : Block → Block) (x : Block) : Block := if x = b0 then x else f x

theorem sparing_self (b0 : Block) (f : Block → Block) : sparing b0 f b0 = b0 := if_pos rfl

theorem keepsPlace_sparing (b0 : Block) {f : Block → Block} (hf : KeepsPlace f) : KeepsPlace (sparing b0 f) := fun x => by
  unfold sparing; split
  · exact ⟨rfl, rfl⟩
  · exact hf x

/-- An update that changes every block but the one a lookup finds is local. -/
theorem local_sparing (h : At s t b w th) {f : Block → Block} (hf : KeepsPlace f) : Local s (s.modBlock t.core t.slot (sparing b f)) t b w b w th := by
  have e := sparing_self b f
  have := Local.modBlock h (sparing b f) (keepsPlace_sparing b hf) (by rw [e]) (fun _ _ => by rw [e]) (by rw [e]; exact h.warp) (fun _ _ => by rw [e]) rfl h.thread
    fun _ _ => rfl
  rwa [e] at this

/-- An update f of the block of the issuing thread is an update g of a state in which the instruction has only gone on, where f and g agree on the
block, and g keeps what f has done: blocks that stand behind the thread's in its task slot, which no lookup finds, may already be as f leaves them. -/
theorem went_before (h : At s t b w th) (pc : Dword) {f g : Block → Block} (hf : KeepsPlace f)
    (hb : g (b.counted t.warp t.lane) = f (b.counted t.warp t.lane)) (hgf : ∀ x, g (f x) = f x)
    (hg : ∀ x, g (x.wentOn t.warp t.lane pc) = (g x).wentOn t.warp t.lane pc) :
    ∃ s1 b1 w1 th1, Went s s1 t b w th pc b1 w1 th1 ∧ th1.regs = th.regs ∧ th1.pred = th.pred ∧ b1.traps = b.traps ∧
      s1.modBlock t.core t.slot g = ((s.countIssue t).modBlock t.core t.slot f).adv t pc := by
  have hk := keepsPlace_sparing (b.counted t.warp t.lane) hf
  have l2 := local_sparing h.counted hf
  refine ⟨_, _, _, _, ⟨((Local.countIssue h).trans l2).trans (Local.adv l2.at_ pc), rfl, fun _ => counted_traps ..⟩, rfl, rfl, counted_traps .., ?_⟩
  have hk2 : KeepsPlace fun x => (sparing (b.counted t.warp t.lane) f x).wentOn t.warp t.lane pc := hk
  rw [State.adv_eq, State.adv_eq, State.modBlock_modBlock _ _ _ _ hk, State.modBlock_modBlock _ _ _ _ hk2, State.modBlock_modBlock _ _ _ _ hf]
  congr 1
  funext x
  rw [hg, sparing]
  split
  next he => rw [he, hb]
  next => rw [hgf]

/-! ### What SYSR reads (R228, R389, R390) -/

theorem Block.counted_eq (b : Block) (w l : Nat) : ∃ ws u, b.counted w l = { b with warps := ws, urgent := u } := by
  simp only [Block.counted]; rw [Block.urge_eq]; exact ⟨_, _, rfl⟩

/-- Counting an issue changes no system register of a block. -/
theorem sysRead_counted (s : State) (t : TRef) (b : Block) (n : Nat) : (s.countIssue t).sysRead (b.counted t.warp t.lane) n = s.sysRead b n := by
  obtain ⟨ws, u, e⟩ := b.counted_eq t.warp t.lane
  rw [e]; rfl

theorem Ring.cf_eq (r : Ring) : r.cf = if r.cfg then BitVec.ofNat 64 (r.rbase + r.lsize * 2 ^ 22 + 2 ^ 31) else 0 := by
  rw [Ring.cf, Nat.shiftLeft_eq]
  congr 2; omega

theorem Ring.stw_eq (r : Ring) : r.stw = r.tail ++ r.head := by
  apply BitVec.eq_of_toNat_eq
  have h1 := r.tail.isLt
  have h2 := r.head.isLt
  rw [append_toNat, Ring.stw, BitVec.toNat_ofNat, Nat.shiftLeft_eq]
  omega

theorem sysRead_ringcf (s : State) (b : Block) {n : Nat} (h : 0x120 ≤ n ∧ n ≤ 0x12F) : s.sysRead b n = (b.ring (n - 0x120)).cf := by
  unfold State.sysRead
  iterate 7 rw [if_neg (by simp; omega)]
  rw [if_pos (by simpa using h)]

theorem sysRead_ringst (s : State) (b : Block) {n : Nat} (h : 0x130 ≤ n ∧ n ≤ 0x13F) : s.sysRead b n = (b.ring (n - 0x130)).stw := by
  unfold State.sysRead
  iterate 8 rw [if_neg (by simp; omega)]
  rw [if_pos (by simpa using h)]

/-- The registers of the table of R390 that the thread itself holds, and those that its block reads. -/
theorem sysThread_counted (h : At s t b w th) (n : Nat) : (s.countIssue t).sysThread t n =
    if 0x40 ≤ n ∧ n ≤ 0x47 then SMap.get th.h (n - 0x40) 0
    else if 0x400 ≤ n ∧ n ≤ 0x41F then (SMap.get th.regs (n - 0x400) 0).setWidth 64
    else s.sysRead b n := by
  unfold State.sysThread
  rw [h.counted.block, h.counted.thread?]
  simp only [sysRead_counted, Bool.and_eq_true, decide_eq_true_eq]
  rfl

/-- What a register of the table of R390 holds is what a read of it gives once the instruction counts as issued. -/
theorem sysThread_of_sysRule (h : At s t b w th) {n : Nat} {v : Dword} (hv : sysRule s b th n = some v) : (s.countIssue t).sysThread t n = v := by
  rw [sysThread_counted h]
  unfold sysRule at hv
  split at hv
  next hn => obtain rfl := Option.some.inj hv; subst hn; rfl
  split at hv
  next hn => obtain rfl := Option.some.inj hv; subst hn; rfl
  split at hv
  next hn => obtain rfl := Option.some.inj hv; subst hn; rfl
  split at hv
  next hn => obtain rfl := Option.some.inj hv; subst hn; rfl
  split at hv
  next hn => obtain rfl := Option.some.inj hv; subst hn; rfl
  split at hv
  next hn => obtain rfl := Option.some.inj hv; subst hn; rfl
  split at hv
  next hn => obtain rfl := Option.some.inj hv; exact if_pos hn
  next hh =>
  rw [if_neg hh]
  split at hv
  next hn => obtain rfl := Option.some.inj hv; rw [if_neg (by omega), sysRead_ringcf s b hn]; exact Ring.cf_eq _
  split at hv
  next hn => obtain rfl := Option.some.inj hv; rw [if_neg (by omega), sysRead_ringst s b hn]; exact Ring.stw_eq _
  split at hv
  next hn => obtain rfl := Option.some.inj hv; exact if_pos hn
  next => exact absurd hv (by simp only [reduceCtorEq, not_false_eq_true])

/-! ### What SYSW writes (R148, R389, R390) -/

/-- The low k bits of a register. -/
theorem toNat_keepBits (v : Dword) (k : Nat) (hk : k ≤ 64) : (keepBits v (2 ^ k - 1)).toNat = v.toNat % 2 ^ k := by
  have h : 2 ^ k ≤ 2 ^ 64 := Nat.pow_le_pow_right (by decide) hk
  have h0 : 0 < 2 ^ k := Nat.two_pow_pos k
  rw [keepBits, BitVec.toNat_and, BitVec.toNat_ofNat, Nat.mod_eq_of_lt (by omega), Nat.and_two_pow_sub_one_eq_mod]

theorem toNat_putHalf (hi : Bool) (v : Dword) (x : Word) : (putHalf hi v x).toNat = if hi then x.toNat * 2 ^ 32 + v.toNat % 2 ^ 32 else v.toNat / 2 ^ 32 * 2 ^ 32 + x.toNat := by
  have := v.isLt
  unfold putHalf
  cases hi <;> simp only [Bool.false_eq_true, if_false, if_true] <;> rw [append_toNat, BitVec.extractLsb'_toNat, Nat.shiftRight_eq_div_pow] <;> omega

/-- What the low k bits of a half written become: the half's own, or those that stood. -/
theorem keepBits_putHalf (hi : Bool) (v : Dword) (x : Word) (k : Nat) (hk : k ≤ 32) :
    keepBits (putHalf hi v x) (2 ^ k - 1) = if hi then keepBits v (2 ^ k - 1) else keepBits (x.setWidth 64) (2 ^ k - 1) := by
  apply BitVec.eq_of_toNat_eq
  have hp : 2 ^ 32 = 2 ^ k * 2 ^ (32 - k) := by rw [← Nat.pow_add]; congr 1; omega
  have hx := x.isLt
  have hm : ∀ y z, (y * 2 ^ 32 + z) % 2 ^ k = z % 2 ^ k := fun y z => by rw [hp, ← Nat.mul_assoc, Nat.mul_right_comm, Nat.mul_add_mod_self_right]
  rw [toNat_keepBits _ _ (by omega), toNat_putHalf]
  cases hi
  · simp only [Bool.false_eq_true, if_false]
    rw [hm, toNat_keepBits _ _ (by omega), BitVec.toNat_setWidth, Nat.mod_eq_of_lt (by omega : x.toNat < 2 ^ 64)]
  · simp only [if_true]
    rw [hm, toNat_keepBits _ _ (by omega), Nat.mod_mod_of_dvd _ ⟨_, hp⟩]

end

end Sys2Proof.Machine

namespace Sys2Proof.Machine
open Sys2Proof.Rules

section
variable {s : State} {t : TRef} {b : Block} {w : Warp} {th : Thread} {h : Hdr} {a : VReg} {half : Bool} {n : BitVec 15}

/-- SYSR reads its register as the table of R390 has it, and writes its half to the destination. -/
theorem goesOn_sysr {d : VReg} (hi : Issues (.sysr h d half n) h s t b w th) :
    GoesOn (.sysr h d half n) s t b w th (th.pc + 8) fun s' th' =>
      (d ≠ 255#8 → ∀ v, sysRule s b th n.toNat = some v → s'.rv t d = if half then v.extractLsb' 32 32 else v.extractLsb' 0 32) ∧
      (∀ r, r ≠ d ∨ d = 255#8 → s'.rv t r = s.rv t r) ∧ th'.pred = th.pred :=
  goesOn_wv (P := fun x => ∀ v, sysRule s b th n.toNat = some v → x = if half then v.extractLsb' 32 32 else v.extractLsb' 0 32) hi rfl rfl fun v hv => by
    rw [sysThread_of_sysRule hi.at_ hv]; rfl

/-- SYSW's effect on its thread, as issuing it runs it. -/
def syswEff (a : VReg) (half : Bool) (n : Nat) (s : State) (t : TRef) : Eff :=
  match s.block? t.core t.slot with
  | none => .stay s
  | some b =>
    let x := s.src t 0 a
    let v := putHalf half (s.sysThread t n) x
    if 0x40 ≤ n && n ≤ 0x47 then .done (s.modThread t fun th => { th with h := SMap.put th.h (n - 0x40) v })
    else if 0x400 ≤ n && n ≤ 0x41F then .done (if half then s else s.modThread t fun th => { th with regs := SMap.putD th.regs (n - 0x400) 0 x })
    else .done (s.sysWrite b n v (putHalf half 0 x))

theorem exec_sysw (h : Hdr) (a : VReg) (half : Bool) (n : BitVec 15) (s : State) :
    exec (.sysw h a half n) s = runGuarded (.sysw h a half n) h (syswEff a half n.toNat) s := rfl

/-- SYSW in the state that counts its issue: what it writes is half its source, half what a read of the register gives. -/
theorem syswEff_counted {i : Instr} (ha : Alone i s t b w th) (a : VReg) (half : Bool) (n : Nat) :
    syswEff a half n (s.countIssue t) t =
      if 0x40 ≤ n ∧ n ≤ 0x47 then
        .done ((s.countIssue t).modThread t fun x => { x with h := SMap.put x.h (n - 0x40) (putHalf half (SMap.get th.h (n - 0x40) 0) (s.rv t a)) })
      else if 0x400 ≤ n ∧ n ≤ 0x41F then
        .done (if half then s.countIssue t else (s.countIssue t).modThread t fun x => { x with regs := SMap.putD x.regs (n - 0x400) 0 (s.rv t a) })
      else .done ((s.countIssue t).sysWrite (b.counted t.warp t.lane) n (putHalf half (s.sysRead b n) (s.rv t a)) (putHalf half 0 (s.rv t a))) := by
  unfold syswEff
  rw [ha.at_.counted.block]
  simp only [src_counted ha, sysThread_counted ha.at_, Bool.and_eq_true, decide_eq_true_eq]
  split
  · rfl
  · split <;> rfl

/-- The watchpoint cause that waits at a thread of a block. -/
def Block.watchAt (b : Block) (w l : Nat) : Option (Cause × Bool) := (b.thread? w l).bind Thread.watch

theorem Block.watchAt_modThread (b : Block) (w l : Nat) {f : Thread → Thread} (hf : ∀ x, (f x).watch = x.watch) : (b.modThread w l f).watchAt w l = b.watchAt w l := by
  unfold Block.watchAt
  rw [Block.thread?_modThread, if_pos ⟨rfl, rfl⟩]
  cases b.thread? w l <;> simp [hf]

/-- What the rule of SYSW asks for (R389, R390): the effect on the state in which the thread has gone on is the instruction's answer. -/
def SyswRule (h : Hdr) (a : VReg) (half : Bool) (n : BitVec 15) (s : State) (t : TRef) (b : Block) (w : Warp) (th : Thread) : Prop :=
  ∃ s1 b1 w1 th1, Went s s1 t b w th (th.pc + 8) b1 w1 th1 ∧ th1.regs = th.regs ∧ th1.pred = th.pred ∧ b1.traps = b.traps ∧
    (sysEffect t b n.toNat half (s.rv t a) s1).map Host.Outcome.next = some (exec (.sysw h a half n) s)

/-- SYSW answers the state that its effect leaves, with its thread gone on, where the rule's effect on a state before it is that state. -/
theorem sysw_done {s2 : State} (hi : Issues (.sysw h a half n) h s t b w th)
    (he : syswEff a half n.toNat (s.countIssue t) t = .done s2)
    (hw : (s2.block? t.core t.slot).bind (fun x => x.watchAt t.warp t.lane) = none)
    (hs : ∃ s1 b1 w1 th1, Went s s1 t b w th (th.pc + 8) b1 w1 th1 ∧ th1.regs = th.regs ∧ th1.pred = th.pred ∧ b1.traps = b.traps ∧
      sysEffect t b n.toNat half (s.rv t a) s1 = some (s2.adv t (th.pc + 8))) :
    SyswRule h a half n s t b w th := by
  obtain ⟨s1, b1, w1, th1, hgo, hregs, hpred, htraps, heff⟩ := hs
  have hfin : (s2.adv t (th.pc + 8)).finishWatch t = s2.adv t (th.pc + 8) := by
    unfold State.finishWatch State.adv
    rw [State.thread?_modThread_same, State.thread?_eq]
    cases hb : s2.block? t.core t.slot with
    | none => rfl
    | some x =>
      have hx : (x.thread? t.warp t.lane).bind Thread.watch = none := by simpa [hb, Block.watchAt] using hw
      cases ht : x.thread? t.warp t.lane with
      | none => simp [ht]
      | some y =>
        have hy : y.watch = none := by simpa [ht] using hx
        simp [ht, hy]
  refine ⟨s1, b1, w1, th1, hgo, hregs, hpred, htraps, ?_⟩
  rw [heff, exec_sysw, runGuarded_alone hi.toAlone hi.guard, he]
  simp only [effOver, hfin, Option.map_some]

/-- No watchpoint cause waits at a thread that issues. -/
theorem watchAt_counted {i : Instr} (ha : Alone i s t b w th) : (b.counted t.warp t.lane).watchAt t.warp t.lane = none := by
  unfold Block.watchAt
  rw [ha.at_.counted.block_thread]
  show th.watch = none
  exact ready_watch ha.at_ ha.ready

/-- A SYSW whose effect changes its block alone. -/
theorem sysw_block {f g : Block → Block} (hi : Issues (.sysw h a half n) h s t b w th)
    (he : syswEff a half n.toNat (s.countIssue t) t = .done ((s.countIssue t).modBlock t.core t.slot f)) (hf : KeepsPlace f)
    (hw : ∀ x, (f x).watchAt t.warp t.lane = x.watchAt t.warp t.lane) (hb : g (b.counted t.warp t.lane) = f (b.counted t.warp t.lane)) (hgf : ∀ x, g (f x) = f x)
    (hg : ∀ x, g (x.wentOn t.warp t.lane (th.pc + 8)) = (g x).wentOn t.warp t.lane (th.pc + 8))
    (hs : ∀ s1, sysEffect t b n.toNat half (s.rv t a) s1 = some (s1.modBlock t.core t.slot g)) :
    SyswRule h a half n s t b w th := by
  obtain ⟨s1, b1, w1, th1, hgo, hregs, hpred, htraps, heff⟩ := went_before hi.at_ (th.pc + 8) hf hb hgf hg
  refine sysw_done hi he ?_ ⟨s1, b1, w1, th1, hgo, hregs, hpred, htraps, by rw [hs, heff]⟩
  rw [State.block?_modBlock _ _ _ _ _ _ hf, if_pos ⟨rfl, rfl⟩, hi.at_.counted.block]
  exact (hw _).trans (watchAt_counted hi.toAlone)

/-- A SYSW whose effect changes no block. -/
theorem sysw_outside {u : State → State} (hi : Issues (.sysw h a half n) h s t b w th)
    (he : syswEff a half n.toNat (s.countIssue t) t = .done (u (s.countIssue t))) (hb : ∀ x : State, (u x).blocks = x.blocks)
    (hu : ∀ x : State, (u x).adv t (th.pc + 8) = u (x.adv t (th.pc + 8)))
    (hs : ∀ s1 : State, s1.regs = s.regs → sysEffect t b n.toNat half (s.rv t a) s1 = some (u s1)) :
    SyswRule h a half n s t b w th := by
  obtain ⟨b1, w1, th1, hgo, hregs, hpred, htraps⟩ := went_adv hi.at_ (th.pc + 8)
  refine sysw_done hi he ?_ ⟨_, b1, w1, th1, hgo, hregs, hpred, htraps, by rw [hu]; exact hs _ rfl⟩
  unfold State.block?
  rw [hb]
  have := hi.at_.counted.block
  unfold State.block? at this
  rw [this]
  exact watchAt_counted hi.toAlone

/-! ### SYSW, register by register -/

theorem SMap.put_put {α : Type} (m : SMap α) (i : Nat) (v v' : α) : SMap.put (SMap.put m i v) i v' = SMap.put m i v' := by
  induction m with
  | nil => simp [SMap.put]
  | cons x m ih =>
    obtain ⟨k, y⟩ := x
    simp only [SMap.put]
    split
    · simp only [SMap.put, Nat.lt_irrefl, if_false, beq_self_eq_true, if_true]
    · split
      · simp only [SMap.put, Nat.lt_irrefl, if_false, beq_self_eq_true, if_true]
      · next h1 h2 => simp only [SMap.put, h1, h2, if_false, Bool.false_eq_true, ih]

theorem SMap.del_del {α : Type} (m : SMap α) (i : Nat) : SMap.del (SMap.del m i) i = SMap.del m i := by
  induction m with
  | nil => rfl
  | cons x m ih =>
    obtain ⟨k, y⟩ := x
    by_cases h : (k == i) = true <;> simp [SMap.del, h, ih]

theorem SMap.putD_putD {α : Type} [DecidableEq α] (m : SMap α) (i : Nat) (d v : α) : SMap.putD (SMap.putD m i d v) i d v = SMap.putD m i d v := by
  unfold SMap.putD
  split
  · exact SMap.del_del ..
  · exact SMap.put_put ..

theorem putHalf_putHalf (half : Bool) (v : Dword) (x : Word) : putHalf half (putHalf half v x) x = putHalf half v x := by
  have := v.isLt
  have := x.isLt
  apply BitVec.eq_of_toNat_eq
  rw [toNat_putHalf, toNat_putHalf]
  cases half <;> simp only [Bool.false_eq_true, if_false, if_true] <;> omega

theorem modify_congr {α : Type} {l : List α} {i : Nat} {x : α} {f g : α → α} (hx : l[i]? = some x) (h : f x = g x) : l.modify i f = l.modify i g := by
  apply List.ext_getElem?
  intro j
  rw [List.getElem?_modify, List.getElem?_modify]
  by_cases hj : i = j
  · subst hj; simp [hx, h]
  · simp [hj]

/-- Updates of a thread that agree on it give the same block. -/
theorem Block.modThread_congr (hw : b.warps[t.warp]? = some w) (ht : w.threads[t.lane]? = some th) {f g : Thread → Thread} (h : f th = g th) :
    b.modThread t.warp t.lane f = b.modThread t.warp t.lane g := by
  unfold Block.modThread Block.modWarp
  rw [modify_congr hw]
  rw [modify_congr ht h]

/-- A SYSW whose effect changes its thread alone. -/
theorem sysw_thread {f g : Thread → Thread} (hi : Issues (.sysw h a half n) h s t b w th)
    (he : syswEff a half n.toNat (s.countIssue t) t = .done ((s.countIssue t).modThread t f)) (hw : ∀ x, (f x).watch = x.watch)
    (hb : g th.counted = f th.counted) (hgf : ∀ x, g (f x) = f x)
    (hg : ∀ x : Thread, g { x with pc := th.pc + 8, st := .running, wait := none, taken := [], waited := 0 } =
      { g x with pc := th.pc + 8, st := .running, wait := none, taken := [], waited := 0 })
    (hs : ∀ s1, sysEffect t b n.toNat half (s.rv t a) s1 = some (s1.modThread t g)) :
    SyswRule h a half n s t b w th := by
  refine sysw_block (g := fun x => x.modThread t.warp t.lane g) hi he (keepsPlace_modThread _ _ _) (fun x => Block.watchAt_modThread _ _ _ hw)
    (Block.modThread_congr hi.at_.counted.warp hi.at_.counted.thread hb) (fun x => ?_) (fun x => ?_) hs
  · simp only [Block.modThread_modThread, hgf]
  · unfold Block.wentOn
    simp only [Block.modThread_modThread, hg]

end
end Sys2Proof.Machine

namespace Sys2Proof.Machine
open Sys2Proof.Rules

/-! ### The registers of a block and of the device that SYSW writes (R390) -/

@[simp] theorem sysWrite_tslice (s : State) (b : Block) (v p : Dword) : s.sysWrite b 0x20 v p = s.setReg tsliceKey (keepBits v 0xFFFFFFFF) := rfl
@[simp] theorem sysWrite_tstat (s : State) (b : Block) (v p : Dword) :
    s.sysWrite b 0x30 v p = s.modBlock b.core b.slot fun x => { x with tstat := x.tstat &&& ~~~(keepBits p 0x1F) } := rfl
@[simp] theorem sysWrite_fpte (s : State) (b : Block) (v p : Dword) : s.sysWrite b 0x31 v p = s.modBlock b.core b.slot fun x => { x with fpte := keepBits v 7 } := rfl
@[simp] theorem sysWrite_fpt (s : State) (b : Block) (v p : Dword) : s.sysWrite b 0x32 v p = s.setReg (fptKey b.ctx) (keepBits v 0xFFFFFFFF) := rfl

/-- Below the debug registers, those four are all that a write changes. -/
theorem sysWrite_readOnly (s : State) (b : Block) (v p : Dword) {n : Nat} (hn : n < 0x200) (h : n ∉ [0x20, 0x30, 0x31, 0x32]) : s.sysWrite b n v p = s := by
  simp only [List.mem_cons, List.not_mem_nil, or_false, not_or] at h
  unfold State.sysWrite
  iterate 10 rw [if_neg (by simp; omega)]

/-- R390: TSLICE and FPT take 32 bits, half of which a write replaces. -/
theorem keepBits_word (half : Bool) (v : Dword) (x : Word) :
    keepBits (putHalf half v x) 0xFFFFFFFF = if half then (v.setWidth 32).setWidth 64 else x.setWidth 64 := by
  rw [show (0xFFFFFFFF : Nat) = 2 ^ 32 - 1 from rfl, keepBits_putHalf half v x 32 (by decide)]
  have hx := x.isLt
  split
  all_goals
    apply BitVec.eq_of_toNat_eq
    rw [toNat_keepBits _ 32 (by decide)]
    simp only [BitVec.toNat_setWidth]
    omega

/-- R148: TSTAT loses those of its low five bits that the low half has as 1. -/
theorem tstat_clear (half : Bool) (v : Dword) (x : Word) :
    v &&& ~~~(keepBits (putHalf half 0 x) 0x1F) = if half then v else v &&& ~~~(x.setWidth 64 &&& 0x1F) := by
  rw [show (0x1F : Nat) = 2 ^ 5 - 1 from rfl, keepBits_putHalf half 0 x 5 (by decide)]
  cases half
  · rfl
  · show v &&& ~~~(keepBits 0 31) = v
    rw [show ~~~(keepBits 0 31) = BitVec.allOnes 64 by decide, BitVec.and_allOnes]

/-- R145: FPTE holds its low three bits. -/
theorem fpte_keep (half : Bool) (v : Dword) (x : Word) : keepBits (putHalf half v x) 7 = if half then v &&& 7 else x.setWidth 64 &&& 7 := by
  rw [show (7 : Nat) = 2 ^ 3 - 1 from rfl, keepBits_putHalf half v x 3 (by decide)]; rfl

section
variable {s : State} {t : TRef} {b : Block} {w : Warp} {th : Thread} {h : Hdr} {a : VReg} {half : Bool} {n : BitVec 15}

/-- The instruction's effect on a register that no thread holds. -/
theorem syswEff_sysWrite (hi : Issues (.sysw h a half n) h s t b w th) {k : Nat} (hk : n.toNat = k) (h1 : ¬ (0x40 ≤ k ∧ k ≤ 0x47)) (h2 : ¬ (0x400 ≤ k ∧ k ≤ 0x41F)) :
    syswEff a half n.toNat (s.countIssue t) t =
      .done ((s.countIssue t).sysWrite (b.counted t.warp t.lane) k (putHalf half (s.sysRead b k) (s.rv t a)) (putHalf half 0 (s.rv t a))) := by
  rw [syswEff_counted hi.toAlone, hk, if_neg h1, if_neg h2]

theorem counted_place (hi : Issues (.sysw h a half n) h s t b w th) (f : Block → Block) :
    (s.countIssue t).modBlock (b.counted t.warp t.lane).core (b.counted t.warp t.lane).slot f = (s.countIssue t).modBlock t.core t.slot f := by
  obtain ⟨hc, hs⟩ := block?_place hi.at_.counted.block
  rw [hc, hs]

theorem sysw_tstat (hi : Issues (.sysw h a half n) h s t b w th) (hn : n.toNat = 0x30) : SyswRule h a half n s t b w th := by
  refine sysw_block (f := fun x => { x with tstat := x.tstat &&& ~~~(keepBits (putHalf half 0 (s.rv t a)) 0x1F) })
    (g := fun x => { x with tstat := if half then x.tstat else x.tstat &&& ~~~((s.rv t a).setWidth 64 &&& 0x1F) })
    hi ?_ (fun _ => ⟨rfl, rfl⟩) (fun _ => rfl) ?_ (fun x => ?_) (fun _ => rfl) fun s1 => ?_
  · rw [syswEff_sysWrite hi hn (by decide) (by decide), sysWrite_tstat, counted_place hi]
  · simp only [tstat_clear]
  · simp only [tstat_clear]; cases half <;> simp [BitVec.and_assoc]
  · rw [sysEffect, if_pos hn]

theorem sysw_fpte (hi : Issues (.sysw h a half n) h s t b w th) (hn : n.toNat = 0x31) : SyswRule h a half n s t b w th := by
  obtain ⟨ws, u, hcnt⟩ := b.counted_eq t.warp t.lane
  refine sysw_block (f := fun x => { x with fpte := keepBits (putHalf half b.fpte (s.rv t a)) 7 })
    (g := fun x => { x with fpte := if half then x.fpte &&& 7 else (s.rv t a).setWidth 64 &&& 7 })
    hi ?_ (fun _ => ⟨rfl, rfl⟩) (fun _ => rfl) ?_ (fun x => ?_) (fun _ => rfl) fun s1 => ?_
  · rw [syswEff_sysWrite hi hn (by decide) (by decide), sysWrite_fpte, counted_place hi]; rfl
  · simp only [fpte_keep, hcnt]
  · simp only [fpte_keep]; cases half <;> simp [BitVec.and_assoc]
  · rw [sysEffect, if_neg (by omega), if_pos hn]

theorem sysw_tslice (hi : Issues (.sysw h a half n) h s t b w th) (hn : n.toNat = 0x20) : SyswRule h a half n s t b w th := by
  refine sysw_outside (u := fun x => x.setReg tsliceKey (keepBits (putHalf half (s.reg tsliceKey) (s.rv t a)) 0xFFFFFFFF)) hi ?_ (fun _ => rfl) (fun _ => rfl) fun s1 hr => ?_
  · rw [syswEff_sysWrite hi hn (by decide) (by decide), sysWrite_tslice]; rfl
  · rw [sysEffect, if_neg (by omega), if_neg (by omega), if_pos hn, keepBits_word, show s1.reg tsliceKey = s.reg tsliceKey by unfold State.reg; rw [hr]]

theorem sysw_fpt (hi : Issues (.sysw h a half n) h s t b w th) (hn : n.toNat = 0x32) : SyswRule h a half n s t b w th := by
  obtain ⟨ws, u, hcnt⟩ := b.counted_eq t.warp t.lane
  refine sysw_outside (u := fun x => x.setReg (fptKey b.ctx) (keepBits (putHalf half (s.reg (fptKey b.ctx)) (s.rv t a)) 0xFFFFFFFF)) hi ?_ (fun _ => rfl) (fun _ => rfl) fun s1 hr => ?_
  · rw [syswEff_sysWrite hi hn (by decide) (by decide), sysWrite_fpt, hcnt]; rfl
  · rw [sysEffect, if_neg (by omega), if_neg (by omega), if_neg (by omega), if_pos hn, keepBits_word,
      show s1.reg (fptKey b.ctx) = s.reg (fptKey b.ctx) by unfold State.reg; rw [hr]]

/-- h0-h7 (R385, R390). -/
theorem sysw_handler (hi : Issues (.sysw h a half n) h s t b w th) (hn : 0x40 ≤ n.toNat ∧ n.toNat ≤ 0x47) : SyswRule h a half n s t b w th := by
  refine sysw_thread (f := fun x => { x with h := SMap.put x.h (n.toNat - 0x40) (putHalf half (SMap.get th.h (n.toNat - 0x40) 0) (s.rv t a)) })
    (g := fun x => { x with h := SMap.put x.h (n.toNat - 0x40) (putHalf half (SMap.get x.h (n.toNat - 0x40) 0) (s.rv t a)) })
    hi ?_ (fun _ => rfl) rfl (fun x => ?_) (fun _ => rfl) fun s1 => ?_
  · rw [syswEff_counted hi.toAlone, if_pos hn]
  · simp only [SMap.get_put_same, putHalf_putHalf, SMap.put_put]
  · rw [sysEffect, if_neg (by omega), if_neg (by omega), if_neg (by omega), if_neg (by omega), if_pos hn]

/-- The thread's own v0-v31 (R389, R390): the high half has no place. -/
theorem sysw_ureg (hi : Issues (.sysw h a half n) h s t b w th) (hn : 0x400 ≤ n.toNat ∧ n.toNat ≤ 0x41F) : SyswRule h a half n s t b w th := by
  have hrule : ∀ s1, sysEffect t b n.toNat half (s.rv t a) s1 =
      some (if half then s1 else s1.modThread t fun x => { x with regs := SMap.putD x.regs (n.toNat - 0x400) 0 (s.rv t a) }) := fun s1 => by
    rw [sysEffect, if_neg (by omega), if_neg (by omega), if_neg (by omega), if_neg (by omega), if_neg (by omega), if_pos hn]
  have heff := syswEff_counted hi.toAlone a half n.toNat
  rw [if_neg (by omega), if_pos hn] at heff
  cases half
  · refine sysw_thread (g := fun x => { x with regs := SMap.putD x.regs (n.toNat - 0x400) 0 (s.rv t a) }) hi heff (fun _ => rfl) rfl (fun x => ?_) (fun _ => rfl) hrule
    simp only [SMap.putD_putD]
  · exact sysw_outside (u := id) hi heff (fun _ => rfl) (fun _ => rfl) fun s1 _ => hrule s1

/-- A read-only register ignores the write (R6, R390). -/
theorem sysw_readOnly (hi : Issues (.sysw h a half n) h s t b w th) (hn : n.toNat < 0x200) (hh : ¬ (0x40 ≤ n.toNat ∧ n.toNat ≤ 0x47))
    (hl : n.toNat ∉ [0x20, 0x30, 0x31, 0x32]) : SyswRule h a half n s t b w th := by
  refine sysw_outside (u := id) hi ?_ (fun _ => rfl) (fun _ => rfl) fun s1 _ => ?_
  · rw [syswEff_sysWrite hi rfl hh (by omega), sysWrite_readOnly _ _ _ _ hn hl]; rfl
  · simp only [List.mem_cons, List.not_mem_nil, or_false, not_or] at hl
    rw [sysEffect, if_neg (by omega), if_neg (by omega), if_neg (by omega), if_neg (by omega), if_neg hh, if_neg (by omega), if_pos hn]; rfl

/-- R389, R390: what SYSW does to each register of the table. -/
theorem sysw_rule (hi : Issues (.sysw h a half n) h s t b w th) (hs : (sysEffect t b n.toNat half (s.rv t a) s).isSome) : SyswRule h a half n s t b w th := by
  by_cases h1 : n.toNat = 0x30
  · exact sysw_tstat hi h1
  by_cases h2 : n.toNat = 0x31
  · exact sysw_fpte hi h2
  by_cases h3 : n.toNat = 0x20
  · exact sysw_tslice hi h3
  by_cases h4 : n.toNat = 0x32
  · exact sysw_fpt hi h4
  by_cases h5 : 0x40 ≤ n.toNat ∧ n.toNat ≤ 0x47
  · exact sysw_handler hi h5
  by_cases h6 : 0x400 ≤ n.toNat ∧ n.toNat ≤ 0x41F
  · exact sysw_ureg hi h6
  have h7 : n.toNat < 0x200 := by
    refine Decidable.byContradiction fun hc => ?_
    rw [sysEffect, if_neg h1, if_neg h2, if_neg h3, if_neg h4, if_neg h5, if_neg h6, if_neg hc] at hs
    exact absurd hs (by decide)
  exact sysw_readOnly hi h7 h5 (by simp [h1, h2, h3, h4])

/-! ### PRIVILEGE (R72, R84, R383) -/

/-- Check 5 of R84: a thread of the convoy that may not name the register takes PRIVILEGE, whether or not its guard holds. -/
theorem runGuarded_privBad {i : Instr} {eff : State → TRef → Eff} (ha : At s t b w th) (hc : s.cur.threads = [t]) (hf : s.cur.again = none)
    (hr : s.ready t i.laClass = true) (hcl : s.clear t i = true) (hst : th.st = .running) (hp : s.privBad b.ctx th i = true) :
    runGuarded i h eff s = .next (s.deliver t (wordCause i cPrivilege th) false) := by
  have hgo : s.goes t i = true := by simp [State.goes, hr, hcl]
  have hissue : ∀ joins e, s.issue i h joins e t = s.deliver t (wordCause i cPrivilege th) false := fun joins e => by
    unfold State.issue
    simp only [ha.block, ha.warp, ha.thread, hf, hst, hp, Option.isSome_none, Bool.false_eq_true, if_false, bne_self_eq_false, if_true]
  unfold runGuarded runThreads
  rw [hc]
  simp only [runOver, List.filter_cons, hgo, if_true, List.filter_nil, List.map_cons, List.map_nil, List.foldl_cons, List.foldl_nil, beq_self_eq_true, hissue]

theorem privBad_sysr {d : VReg} (hn : 0x40 ≤ n.toNat ∧ n.toNat ≤ 0x47 ∨ 0x400 ≤ n.toNat ∧ n.toNat ≤ 0x41F) (hm : th.hmode = false) (c : Nat) :
    s.privBad c th (.sysr h d half n) = true := by
  simp [State.privBad, sysHandler, hn, hm]

theorem privBad_sysw_handler (hn : 0x40 ≤ n.toNat ∧ n.toNat ≤ 0x47 ∨ 0x400 ≤ n.toNat ∧ n.toNat ≤ 0x41F) (hm : th.hmode = false) (c : Nat) :
    s.privBad c th (.sysw h a half n) = true := by
  simp [State.privBad, sysHandler, hn, hm]

theorem privBad_sysw_privileged (hn : n = 0x20 ∨ n = 0x32 ∨ 0x200 ≤ n.toNat ∧ n.toNat ≤ 0x217 ∨ n = 0x220 ∨ n = 0x221) {c : Nat}
    (hm : th.hmode = false ∨ bit (s.regN (ctxReg c 0x260)) 1 = false) : s.privBad c th (.sysw h a half n) = true := by
  have hpriv : sysPrivileged n.toNat = true := by
    unfold sysPrivileged
    rcases hn with rfl | rfl | h | rfl | rfl
    · decide
    · decide
    · simp [h]
    · decide
    · decide
  have hun : s.privileged c th = false := by
    unfold State.privileged
    rcases hm with hm | hm <;> simp [hm]
  simp [State.privBad, hpriv, hun]

end

/-- Settles O22: the clause of SYSR is `goesOn_sysr`, that of SYSW goes register by register (`sysw_rule`), and check 5 of R84 comes before the guard. -/
theorem systemRegisters : Obligations.SystemRegisters := by
  unfold Obligations.SystemRegisters
  refine ⟨fun h d half n s t b w th hi => goesOn_sysr hi, fun h a half n s t b w th hi hs => sysw_rule hi hs, fun i s t b w th n hbad ha hc hf hr hcl hst => ?_⟩
  rcases hbad with ⟨h, d, half, rfl, hn, hm⟩ | ⟨h, a, half, rfl, ⟨hn, hm⟩ | ⟨hn, hm⟩⟩
  · exact runGuarded_privBad ha hc hf hr hcl hst (privBad_sysr hn hm _)
  · exact runGuarded_privBad ha hc hf hr hcl hst (privBad_sysw_handler hn hm _)
  · exact runGuarded_privBad ha hc hf hr hcl hst (privBad_sysw_privileged hn hm)

end Sys2Proof.Machine

namespace Sys2Proof.Machine
open Sys2Proof.Rules

/-! ### Writes of BAR0 (R6, R448, R449) -/

/-- A register write of a context's window, by the function that owns the context, once the bring-up is complete. -/
structure OwnWrite (s : State) (fn c off : Nat) : Prop where
  ctx : c < 64
  window : off < 0x100000
  aligned : off % 8 = 0
  up : s.stage = 3
  fn_le : fn ≤ 16
  owns : s.owner c = fn

/-- The offsets of a window that are the physical function's own registers: the audit ring, the compression windows and the slices' watchpoints (R306, R414, R445). -/
def pfOnly (off : Nat) : Bool := off == 0x2A8 || off == 0x2B0 || off == 0x2B8 || (inArray off 0x2000 32 16).isSome || (inArray off 0x40000 16 8192).isSome

theorem registerWrite_own {s : State} {fn c off : Nat} (h : OwnWrite s fn c off) (hp : pfOnly off = false) (v : Dword) :
    exec (.registerWrite fn (c * 0x100000 + off) v) s = .next (s.ctxWrite (fn == 0) c off v) := by
  obtain ⟨hc, ho, ha, hs, hf, hown⟩ := h
  have hdiv : (c * 0x100000 + off) / 0x100000 = c := by omega
  have hmod : (c * 0x100000 + off) % 0x100000 = off := by omega
  have hal : (c * 0x100000 + off) % 8 = 0 := by omega
  have hdev : ¬ devReg 0 ≤ c * 0x100000 + off := by unfold devReg; omega
  show execRegisterWrite fn (c * 0x100000 + off) v s = _
  unfold execRegisterWrite
  simp only [hdiv, hmod, hal, hs, hown, hdev, Nat.not_lt.2 hf, bne_self_eq_false, decide_false, Bool.or_false, Bool.false_eq_true, if_false, beq_self_eq_true, if_true]
  rw [if_neg]
  simp only [pfOnly] at hp
  simp [hp]

/-- R448, R463: BAR0 ignores the write before the bring-up is complete, by a function above the last, and of no multiple of 8; R449: a function's own
writes reach its own contexts alone. -/
theorem registerWrite_ignored {s : State} {fn off : Nat} (h : s.stage ≠ 3 ∨ 16 < fn ∨ off % 8 ≠ 0 ∨ (0 < fn ∧ (devReg 0 ≤ off ∨ s.owner (off / 0x100000) ≠ fn))) (v : Dword) :
    exec (.registerWrite fn off v) s = .next s := by
  show execRegisterWrite fn off v s = _
  unfold execRegisterWrite
  by_cases h1 : (s.stage != 3 || decide (16 < fn) || off % 8 != 0) = true
  · simp only [h1, if_true]
  · have h2 : 0 < fn ∧ (devReg 0 ≤ off ∨ s.owner (off / 0x100000) ≠ fn) := by
      simp only [Bool.or_eq_true, bne_iff_ne, decide_eq_true_eq, not_or, ne_eq, Decidable.not_not] at h1
      obtain ⟨⟨hs, hf⟩, ha⟩ := h1
      rcases h with h | h | h | h
      · exact absurd hs h
      · exact absurd h hf
      · exact absurd ha h
      · exact h
    obtain ⟨hpos, hout⟩ := h2
    have hfn : (fn == 0) = false := by simpa using Nat.ne_of_gt hpos
    simp only [h1, hfn, if_false, Bool.false_and, Bool.false_eq_true]
    by_cases h3 : devReg 0 ≤ off
    · rw [if_pos h3]
    · have h4 : (s.owner (off / 0x100000) == fn) = false := by simpa using hout.resolve_left h3
      rw [if_neg h3, h4, if_neg (by decide)]

/-! ### Registers whose write is a step of its own (R33-R36, R255-R258, R311, R403, R424, R447) -/

/-- A step that answers a next state in every state: a write of its register does what it does. -/
def Answers (r : Res) : Prop := ∃ t, r = .next t

theorem answers_next (t : State) : Answers (.next t) := ⟨t, rfl⟩
theorem answers_ite {c : Prop} [Decidable c] {r r' : Res} (h : Answers r) (h' : Answers r') : Answers (if c then r else r') := by split <;> assumption

theorem Answers.next_resOr {r : Res} (h : Answers r) (s : State) : (.next (resOr r s) : Res) = r := by
  obtain ⟨t, rfl⟩ := h; rfl

theorem answers_fspill (c : Nat) (v : Dword) (s : State) : Answers (execFspill c v s) := by
  unfold execFspill
  refine answers_ite (answers_next _) ?_
  split <;> exact answers_next _

/-- What a write of such a register does, in the state's own terms. -/
theorem ctxWrite_ownStep {c off : Nat} {v : Dword} {i : Instr} (h : OwnStep c off v i) (pf : Bool) (s : State) :
    s.ctxWrite pf c off v = resOr (exec i s) s ∧ Answers (exec i s) ∧ pfOnly off = false := by
  have hrb : ∀ k, v.toNat % 4 = k → s.rbCtl c v = (match k with
      | 1 => resOr (execResume c (bits v.toNat 63 32) s) s | 2 => resOr (execStep c s) s | 3 => resOr (execTrigger c s) s | _ => s) := by
    rintro k rfl; rfl
  unfold OwnStep at h
  rcases h with ⟨rfl, rfl⟩ | ⟨rfl, rfl⟩ | ⟨rfl, rfl⟩ | ⟨rfl, rfl⟩ | ⟨rfl, ⟨hm, rfl⟩ | ⟨hm, rfl⟩⟩ | ⟨rfl, rfl⟩ | ⟨rfl, rfl⟩ | ⟨rfl, rfl⟩ | ⟨rfl, rfl⟩ |
    ⟨rfl, ⟨hm, rfl⟩ | ⟨hm, rfl⟩ | ⟨hm, rfl⟩⟩
  · exact ⟨rfl, answers_next _, by decide⟩
  · exact ⟨rfl, answers_next _, by decide⟩
  · exact ⟨rfl, answers_ite (answers_next _) (answers_next _), by decide⟩
  · exact ⟨rfl, answers_next _, by decide⟩
  · refine ⟨?_, answers_ite (answers_next _) (answers_next _), by decide⟩
    simp only [State.ctxWrite, hm]; rfl
  · refine ⟨?_, answers_ite (answers_next _) (answers_next _), by decide⟩
    simp only [State.ctxWrite, hm]; rfl
  · exact ⟨rfl, answers_fspill _ _ _, by decide⟩
  · exact ⟨rfl, answers_next _, by decide⟩
  · exact ⟨rfl, answers_ite (answers_next _) (answers_next _), by decide⟩
  · exact ⟨rfl, answers_ite (answers_next _) (answers_ite (answers_next _) (answers_next _)), by decide⟩
  · refine ⟨(hrb 1 hm).trans ?_, answers_next _, by decide⟩
    have hw : bits v.toNat 63 32 = v.toNat / 2 ^ 32 := by
      have := v.isLt
      rw [bits_eq, Nat.mod_eq_of_lt (by omega)]
    rw [hw]; rfl
  · exact ⟨hrb 2 hm, answers_ite (answers_next _) (answers_next _), by decide⟩
  · exact ⟨hrb 3 hm, answers_next _, by decide⟩

theorem registerWrite_ownStep {s : State} {fn c off : Nat} {v : Dword} {i : Instr} (hw : OwnWrite s fn c off) (hi : OwnStep c off v i) :
    exec (.registerWrite fn (c * 0x100000 + off) v) s = exec i s := by
  obtain ⟨hdo, hans, hpf⟩ := ctxWrite_ownStep hi (fn == 0) s
  rw [registerWrite_own hw hpf, hdo, hans.next_resOr]

/-! ### PTROOT, TLBINVA and XRCTL (R255, R258, R311) -/

theorem ctxWrite_ptroot (pf : Bool) (c : Nat) (v : Dword) (s : State) : s.ctxWrite pf c 0x200 v = s.setReg (ctxReg c 0x200) (v &&& 0x0000FFFFFFFFF001#64) := rfl
theorem ctxWrite_tlbinva (pf : Bool) (c : Nat) (v : Dword) (s : State) : s.ctxWrite pf c 0x240 v = s.setReg (ctxReg c 0x240) (v &&& 0x000FFFFFFFFFFFFF#64) := rfl

/-- ERR of XRCTL as a write leaves it: cleared by a 1 (R311). -/
def xrErr (old x : Nat) : Nat := if x.testBit 1 then 0 else old / 2 % 2 * 2

/-- R311: while EN is 0 a write of XRCTL takes its fields; with EN it needs a ring of 16 to 4,096 blocks and some quarter, and else sets ERR. -/
theorem xrEnable_disabled (c k : Nat) (v : Dword) (s : State) (h : s.regN (xrReg c k 1) % 2 = 0) :
    exec (.xrEnable c k v) s = .next (s.setReg (xrReg c k 1) (BitVec.ofNat 64 (v.toNat / 2 ^ 8 % 2 ^ 8 * 2 ^ 8 +
      (if v.toNat % 2 = 1 ∧ (v.toNat / 2 ^ 12 % 16 = 0 ∨ v.toNat / 2 ^ 8 % 16 < 4 ∨ 12 < v.toNat / 2 ^ 8 % 16) then 2
        else xrErr (s.regN (xrReg c k 1)) v.toNat + v.toNat % 2)))) := by
  show execXrEnable c k v s = _
  unfold execXrEnable xrErr
  simp only [bits_eq, bit_eq_decide, Nat.shiftLeft_eq, Nat.testBit_eq_decide_div_mod_eq, Nat.pow_zero, Nat.div_one, h]
  simp

/-- R311: while EN is 1 only EN and the clearing of ERR are taken. -/
theorem xrEnable_enabled (c k : Nat) (v : Dword) (s : State) (h : s.regN (xrReg c k 1) % 2 = 1) :
    exec (.xrEnable c k v) s = .next (s.setReg (xrReg c k 1) (BitVec.ofNat 64 (s.regN (xrReg c k 1) / 2 ^ 8 % 2 ^ 8 * 2 ^ 8 +
      xrErr (s.regN (xrReg c k 1)) v.toNat + v.toNat % 2))) := by
  show execXrEnable c k v s = _
  unfold execXrEnable xrErr
  simp only [bits_eq, bit_eq_decide, Nat.shiftLeft_eq, Nat.testBit_eq_decide_div_mod_eq, Nat.pow_zero, Nat.div_one, h]
  simp

/-- Settles O56: a write by the owner reaches the context's window (`registerWrite_own`), where a register with a step of its own takes it. -/
theorem registersAreWritten : Obligations.RegistersAreWritten := by
  unfold Obligations.RegistersAreWritten
  refine ⟨fun fn c off v s hc ho ha hs hf hown => ?_, fun fn off v s h => registerWrite_ignored h v,
    fun c k v s => ⟨xrEnable_enabled c k v s, xrEnable_disabled c k v s⟩⟩
  have hw : OwnWrite s fn c off := ⟨hc, ho, ha, hs, hf, hown⟩
  refine ⟨fun i hi => registerWrite_ownStep hw hi, ?_, ?_⟩
  · rintro rfl; rw [registerWrite_own hw (by decide), ctxWrite_ptroot]
  · rintro rfl; rw [registerWrite_own hw (by decide), ctxWrite_tlbinva]

end Sys2Proof.Machine

namespace Sys2Proof.Machine
open Sys2Proof.Rules

/-! ### The trace ring (R425, R426) -/

theorem memOnly_ctxW (k : Nat) : ∀ (s : State) (ctx va n v : Nat), MemOnly s (s.ctxW ctx va n v k) := by
  induction k with
  | zero => intro s ctx va n v; exact MemOnly.refl _
  | succ k ih =>
    intro s ctx va n v
    simp only [State.ctxW]
    split
    · exact MemOnly.refl _
    · have ht := memOnly_translate s (.l2 0) ctx va .write
      refine MemOnly.trans ?_ (ih ..)
      split
      next e => rw [e] at ht; exact ht.trans (memOnly_pwrite ..)
      next e => rw [e] at ht; exact ht

/-- Equal register files may be put into both states. -/
theorem MemOnly.withRegs {s s' : State} (h : MemOnly s s') (r : SMap Dword) : MemOnly { s with regs := r } { s' with regs := r } :=
  ⟨by have := h.rest; grind, h.core⟩

/-- Nothing changed but memory, its caches, and the trace rings' NEXT and OVF. -/
structure Traced (s s' : State) : Prop where
  rest : MemOnly { s with regs := s'.regs } s'
  reg : ∀ r, r % 0x100000 ≠ 0xC28 → s'.reg r = s.reg r

theorem Traced.refl (s : State) : Traced s s := ⟨MemOnly.refl _, fun _ _ => rfl⟩
theorem Traced.trans {s s' s'' : State} (h1 : Traced s s') (h2 : Traced s' s'') : Traced s s'' :=
  ⟨(h1.rest.withRegs s''.regs).trans h2.rest, fun r hr => (h2.reg r hr).trans (h1.reg r hr)⟩
theorem MemOnly.traced {s s' : State} (h : MemOnly s s') : Traced s s' := by
  refine ⟨?_, fun r _ => ?_⟩
  · rw [h.regs]; exact h
  · unfold State.reg; rw [h.regs]
theorem Traced.blocks {s s' : State} (h : Traced s s') : s'.blocks = s.blocks := h.rest.blocks
theorem Traced.swHits {s s' : State} (h : Traced s s') : s'.swHits = s.swHits := by have := h.rest.rest; grind
theorem Traced.sampleSlot {s s' : State} (h : Traced s s') (c : Nat) : (s'.core c).sampleSlot = (s.core c).sampleSlot := by
  have := congrArg CoreSt.sampleSlot (h.rest.core c); exact this
theorem Traced.foldl {α : Type} (f : State → α → State) (hf : ∀ s a, Traced s (f s a)) : ∀ (l : List α) (s : State), Traced s (l.foldl f s)
  | [], s => Traced.refl s
  | a :: l, s => (hf s a).trans (Traced.foldl f hf l (f s a))

theorem ctxReg_mod {c off : Nat} (h : off < 0x100000) : ctxReg c off % 0x100000 = off := by unfold ctxReg; omega

theorem traced_setReg (s : State) {a : Nat} (ha : a % 0x100000 = 0xC28) (v : Dword) : Traced s (s.setReg a v) :=
  ⟨MemOnly.refl (s.setReg a v), fun _ hr => State.reg_setReg_of_ne _ _ fun e => hr (e ▸ ha)⟩

theorem traced_traceRec (s : State) (core slot ctx kind stall scyc : Nat) : Traced s (s.traceRec core slot ctx kind stall scyc) := by
  unfold State.traceRec
  dsimp only
  split
  · exact Traced.refl _
  · split
    · exact traced_setReg _ (ctxReg_mod (by decide)) _
    · exact (memOnly_ctxW ..).traced.trans (traced_setReg _ (ctxReg_mod (by decide)) _)

theorem traced_traceTile (s : State) (b : Block) (kind : Nat) : Traced s (s.traceTile b kind) := traced_traceRec ..
theorem traced_traceThread (s : State) (t : TRef) (kind : Nat) : Traced s (s.traceThread t kind) := by
  unfold State.traceThread
  split
  · exact Traced.refl _
  · exact traced_traceRec ..

/-! ### The freeze of a context (R417, R418) -/

/-- Freezing a context's slots traces them, and changes blocks. -/
theorem freezeCtx_traced (s : State) (ctx : Nat) :
    ∃ s1, Traced s s1 ∧ s.freezeCtx ctx = { s1 with blocks := s1.blocks.map fun b => if b.ctx == ctx then b.freeze .roadblock else b } := by
  refine ⟨_, Traced.foldl _ (fun s b => ?_) _ s, rfl⟩
  split
  · exact traced_traceTile ..
  · split
    · exact traced_traceThread ..
    · exact Traced.refl _

theorem reg_freezeCtx (s : State) (ctx : Nat) {r : Nat} (hr : r % 0x100000 ≠ 0xC28) : (s.freezeCtx ctx).reg r = s.reg r := by
  obtain ⟨s1, h1, e⟩ := freezeCtx_traced s ctx
  rw [e]; exact h1.reg r hr

theorem swHits_freezeCtx (s : State) (ctx : Nat) : (s.freezeCtx ctx).swHits = s.swHits := by
  obtain ⟨s1, h1, e⟩ := freezeCtx_traced s ctx
  rw [e]; exact h1.swHits

/-- Every block of a context is frozen after its slots have frozen. -/
theorem frozen_freezeCtx (s : State) (ctx : Nat) : ∀ b ∈ (s.freezeCtx ctx).blocks, b.ctx = ctx → b.state = .frozen := by
  obtain ⟨s1, -, e⟩ := freezeCtx_traced s ctx
  rw [e]
  intro b hb hc
  obtain ⟨x, -, rfl⟩ := List.mem_map.1 hb
  by_cases hx : x.ctx = ctx
  · simp only [hx, beq_self_eq_true, if_true]; rfl
  · simp only [beq_eq_false_iff_ne.2 hx, Bool.false_eq_true, if_false] at hc
    exact absurd hc hx

/-- RB_STATE with its field STATE set. -/
theorem setField_rbState (x : Dword) (n : Nat) : (setField x 2 0 n).toNat % 8 = n % 8 := by
  rw [toNat_setField x n (by decide) (by decide)]
  omega

/-- A context whose RB_STATE reads 1 and whose slots then freeze is frozen. -/
theorem frozen_of_freezing {s : State} {ctx : Nat} (h : s.rbState ctx = 1) : Frozen (s.freezeCtx ctx) ctx := by
  refine ⟨?_, frozen_freezeCtx s ctx⟩
  rw [← h]
  unfold State.rbState State.regN
  rw [reg_freezeCtx s ctx (by rw [ctxReg_mod (by decide)]; decide)]

theorem rbState_setReg (s : State) (ctx : Nat) (v : Dword) : (s.setReg (ctxReg ctx 0x928) v).rbState ctx = v.toNat % 8 := by
  rw [State.rbState, State.regN_setReg_self]

/-- R412, R417: a cause that starts a wave in a context that holds none writes the RB registers and RB_STATE, freezes the slots, and sends flits. -/
theorem roadblock_eq {s : State} {ctx : Nat} (h : s.rbState ctx = 0) (code tslot core engid : Nat) (info : Dword) :
    ∃ cause aux st os, s.roadblock ctx code tslot core engid info =
      { ((s.rbRegs ctx cause aux info).setReg (ctxReg ctx 0x928) (setField st 2 0 1)).freezeCtx ctx with outs := os } := by
  have hst : (s.regN (ctxReg ctx 0x928) % 8 != 0) = false := by simpa [State.rbState] using h
  unfold State.roadblock
  simp only [hst, Bool.false_eq_true, if_false]
  exact ⟨_, _, _, _, rfl⟩

theorem frozen_roadblock {s : State} {ctx : Nat} (h : s.rbState ctx = 0) (code tslot core engid : Nat) (info : Dword) :
    Frozen (s.roadblock ctx code tslot core engid info) ctx := by
  obtain ⟨cause, aux, st, os, e⟩ := roadblock_eq h code tslot core engid info
  rw [e]
  exact frozen_of_freezing (by rw [rbState_setReg, setField_rbState])

theorem swHits_roadblock {s : State} {ctx : Nat} (h : s.rbState ctx = 0) (code tslot core engid : Nat) (info : Dword) :
    (s.roadblock ctx code tslot core engid info).swHits = s.swHits := by
  obtain ⟨cause, aux, st, os, e⟩ := roadblock_eq h code tslot core engid info
  rw [e]
  show (State.freezeCtx _ ctx).swHits = _
  rw [swHits_freezeCtx, State.setReg_swHits, State.rbRegs, State.setReg_swHits, State.setReg_swHits, State.setReg_swHits]

end Sys2Proof.Machine

namespace Sys2Proof.Machine
open Sys2Proof.Rules

/-! ### Register writes that complete (R255, R311, R403) -/

/-- R255: PTROOT takes its writable bits. -/
theorem registerWrite_ptroot (fn c : Nat) (v : Dword) (s : State) (hc : c < 64) (hs : s.stage = 3) (hf : fn ≤ 16) (ho : s.owner c = fn) :
    ∃ t, exec (.registerWrite fn (c * 0x100000 + 0x200) v) s = .next t ∧ t.reg (ctxReg c 0x200) = v &&& 0x0000FFFFFFFFF001#64 ∧ t.blocks = s.blocks :=
  ⟨_, by rw [registerWrite_own ⟨hc, by decide, by decide, hs, hf, ho⟩ (by decide), ctxWrite_ptroot], State.reg_setReg_self .., State.setReg_blocks ..⟩

theorem xrErr_cases (old x : Nat) : xrErr old x = 0 ∨ xrErr old x = 2 := by
  unfold xrErr; split <;> omega

/-- R311: a ring of 16 to 4,096 blocks with some quarter is enabled. -/
theorem xrEnable_enables (c k : Nat) (v : Dword) (s : State) (h : s.regN (xrReg c k 1) % 2 = 0) (hen : v.toNat % 2 = 1) (hq : v.toNat / 2 ^ 12 % 16 ≠ 0)
    (hlo : 4 ≤ v.toNat / 2 ^ 8 % 16) (hhi : v.toNat / 2 ^ 8 % 16 ≤ 12) :
    ∃ t, exec (.xrEnable c k v) s = .next t ∧ t.regN (xrReg c k 1) % 2 = 1 ∧ t.regN (xrReg c k 1) / 2 ^ 8 % 2 ^ 8 = v.toNat / 2 ^ 8 % 2 ^ 8 := by
  refine ⟨_, xrEnable_disabled c k v s h, ?_⟩
  rw [if_neg (by omega), State.regN_setReg_self, BitVec.toNat_ofNat]
  rcases xrErr_cases (s.regN (xrReg c k 1)) v.toNat with e | e <;> rw [e] <;> omega

/-- R403: the rows of a frame that no command writes are spilled. -/
theorem fspill_spills (c : Nat) (v : Dword) (s s1 : State) (hb : (s.reg (ctxReg c 0x288)).getLsbD 0 = false)
    (hs : s.spillFrame c (v.toNat / 2 ^ 12 % 2 ^ 40 * 2 ^ 12) = some s1) :
    ∃ t, exec (.fspill c v) s = .next t ∧ t.reg (ctxReg c 0x288) = 0 ∧ t.mem = s1.mem ∧ t.blocks = s1.blocks := by
  refine ⟨s1.setReg (ctxReg c 0x288) 0, ?_, State.reg_setReg_self .., State.setReg_mem .., State.setReg_blocks ..⟩
  have ha : s.spillFrame c (bits v.toNat 51 12 * 4096) = some s1 := by rw [bits_eq]; exact hs
  show execFspill c v s = _
  unfold execFspill
  simp only [bit_regN, hb, ha, Bool.false_and, Bool.false_eq_true, if_false]

/-! ### Waves, resumes and steps (R412-R424) -/

/-- R414: a halting hit freezes its context. -/
theorem sliceWatchLatch_freezes (h : SwHit) (hs : List SwHit) (s : State) (he : s.swHits = h :: hs) (hh : h.halt = true) (hr : s.rbState h.w.ctx = 0)
    (ha : s.halts h.w.ctx 0x11 true = true) : ∃ t, exec .sliceWatchLatch s = .next t ∧ t.swHits = hs ∧ Frozen t h.w.ctx := by
  have hr1 : ({ s with swHits := hs } : State).rbState h.w.ctx = 0 := hr
  have ha1 : ({ s with swHits := hs } : State).halts h.w.ctx cWatchpoint true = true := ha
  refine ⟨State.roadblock { s with swHits := hs } h.w.ctx cWatchpoint 0xFF 0xFF h.w.engid h.va, ?_, swHits_roadblock hr1 .., frozen_roadblock hr1 ..⟩
  show execSliceWatchLatch s = _
  unfold execSliceWatchLatch
  rw [he]
  simp only [hh, ha1, Bool.and_true, if_true]

/-- R417: a context without a wave that meets a newer one writes its RB registers, freezes its slots, and forwards the flit. -/
theorem meetWave_eq {s : State} {c w : Nat} (h : s.rbState c = 0) (hw : SMap.get s.lastWave c 0 < w) (l j o : Nat) (ca au ad : Dword) :
    ∃ st os, s.meetWave c l w j o ca au ad = { ((s.rbRegs c ca au ad).setReg (ctxReg c 0x928) (setField st 2 0 1)).freezeCtx c with outs := os } := by
  have hst : ((s.reg (ctxReg c 0x928)).toNat % 8 == 0) = true := by simpa [State.rbState, State.regN] using h
  unfold State.meetWave
  simp only [hst, if_true, Nat.not_le.2 hw, if_false]
  exact ⟨_, _, rfl⟩

theorem reg_rbRegs_cause (s : State) (c : Nat) (ca au ad : Dword) : (s.rbRegs c ca au ad).reg (ctxReg c 0x910) = ca := by
  rw [State.rbRegs, State.reg_setReg_of_ne _ _ (ctxReg_ne c (by decide)), State.reg_setReg_of_ne _ _ (ctxReg_ne c (by decide)), State.reg_setReg_self]

/-- A context that meets a wave is frozen, and RB_CAUSE is the wave's. -/
theorem frozen_meetWave {s : State} {c w : Nat} (h : s.rbState c = 0) (hw : SMap.get s.lastWave c 0 < w) (l j o : Nat) (ca au ad : Dword) :
    Frozen (s.meetWave c l w j o ca au ad) c ∧ (s.meetWave c l w j o ca au ad).reg (ctxReg c 0x910) = ca := by
  obtain ⟨st, os, e⟩ := meetWave_eq h hw l j o ca au ad
  rw [e]
  refine ⟨frozen_of_freezing (by rw [rbState_setReg, setField_rbState]), ?_⟩
  show (State.freezeCtx _ c).reg _ = _
  rw [reg_freezeCtx _ _ (by rw [ctxReg_mod (by decide)]; decide), State.reg_setReg_of_ne _ _ (ctxReg_ne c (by decide)), reg_rbRegs_cause]

theorem roadblockFlit_freezes (l w j o : Nat) (ca au ad : Dword) (s : State) (c : Nat) (hj : s.jobCtxs j = [c]) (h : s.rbState c = 0) (hw : SMap.get s.lastWave c 0 < w) :
    ∃ t, exec (.roadblockFlit l w j o ca au ad) s = .next t ∧ Frozen t c ∧ t.reg (ctxReg c 0x910) = ca := by
  refine ⟨s.meetWave c l w j o ca au ad, ?_, frozen_meetWave h hw l j o ca au ad⟩
  show execRoadblockFlit l w j o ca au ad s = _
  unfold execRoadblockFlit
  rw [hj]; rfl

/-- R421: a flit of a frozen context waits. -/
theorem heldFlit_waits (l : Nat) (f : Flit) (c : Nat) (s : State) (hc : s.flitCtx f = some c) (hr : s.rbState c ≠ 0) (hl : s.heldQ.length < 16384) :
    ∃ t, exec (.heldFlit l f) s = .next t ∧ t.heldQ = s.heldQ ++ [(l, f)] ∧ t.blocks = s.blocks := by
  have hz : (s.rbState c == 0) = false := by simpa using hr
  have hroom : s.heldRoom = true := by simpa [State.heldRoom] using hl
  have he : exec (.heldFlit l f) s = .next (State.setReg { s with heldQ := s.heldQ ++ [(l, f)] } (ctxReg c 0x928)
      (setField (s.reg (ctxReg c 0x928)) 47 32 (min (bits (s.regN (ctxReg c 0x928)) 47 32 + 1) 0xFFFF))) := by
    show execHeldFlit l f s = _
    unfold execHeldFlit
    simp only [hc, hz, hroom, Bool.not_true, Bool.or_false, Bool.false_eq_true, if_false]
  exact ⟨_, he, State.setReg_heldQ .., State.setReg_blocks ..⟩

theorem unwatchCtx_eq {s : State} (h : s.remIn = []) (c : Nat) : ∃ cs xs, s.unwatchCtx c = { s with cores := cs, xreqs := xs } := by
  unfold State.unwatchCtx
  simp only [h, List.filter_nil, List.foldl_nil]
  exact ⟨_, _, rfl⟩

/-- R424: a context with nothing held and no blocks resumes. -/
theorem resumeCtx_quiet {s : State} {c : Nat} (w : Nat) (hq : s.heldQ = []) (hi : s.remIn = []) (hb : ∀ b ∈ s.blocks, b.ctx ≠ c) :
    (s.resumeCtx c w).rbState c = 0 ∧ SMap.get (s.resumeCtx c w).lastWave c 0 = w := by
  unfold State.resumeCtx
  generalize hst : ctxReg c 0x928 = st
  generalize hsp : ctxReg c 0xC10 = sp
  extract_lets job mine s1 s2 s3 s4 s5
  have hs1 : s1.rbState c = 0 := by rw [State.rbState, hst, State.regN_setReg_self]; rfl
  have hl1 : s1.lastWave = SMap.put s.lastWave c w := State.setReg_lastWave _ st 0
  have hi1 : s1.remIn = [] := (State.setReg_remIn _ st 0).trans hi
  have hb1 : s1.blocks = s.blocks := State.setReg_blocks _ st 0
  clear_value s1
  have e2 : s2 = { s1 with heldQ := [] } := by simp only [s2, hq, List.filter_nil, List.foldl_nil]
  have e3 : s3 = s2 := by
    have : s2.remIn = [] := by rw [e2]; exact hi1
    simp only [s3, this, List.length_nil]; rfl
  have e4 : s4 = { s1 with heldQ := [], outs := s4.outs, outbound := s4.outbound } := by simp only [s4, e3, e2]
  clear_value s2 s3 s4
  have hi4 : s4.remIn = [] := by rw [e4]; exact hi1
  obtain ⟨cs, xs, e5⟩ := unwatchCtx_eq hi4 c
  have hs5 : s5.blocks = s.blocks := (State.setReg_blocks _ sp 0).trans (by rw [e5, ← hb1, e4])
  have hblk : s5.blocks.filter (fun b => b.ctx == c && b.why.contains .roadblock) = [] := by
    rw [List.filter_eq_nil_iff, hs5]
    intro b hb'
    simp [hb b hb']
  rw [hblk, List.foldl_nil]
  refine ⟨?_, ?_⟩
  · have hne : sp ≠ ctxReg c 0x928 := by rw [← hsp]; exact ctxReg_ne c (by decide)
    show (State.setReg (s4.unwatchCtx c) sp 0).rbState c = 0
    have hr : (s4.unwatchCtx c).regs = s1.regs := by rw [e5, e4]
    rw [rbState_setReg_of_ne _ _ _ hne, State.rbState_congr hr, hs1]
  · have hl5 : s5.lastWave = s1.lastWave := (State.setReg_lastWave _ sp 0).trans (by rw [e5, e4])
    rw [hl5, hl1, SMap.get_put_same]

/-- What stands in the upper half of a register. -/
theorem bits_upper (s : State) (a : Nat) : bits (s.regN a) 63 32 = s.regN a / 2 ^ 32 := by
  have := (s.reg a).isLt
  rw [bits_eq, Nat.mod_eq_of_lt (by unfold State.regN; omega)]

theorem resumes_of {s : State} {c w : Nat} (hr : s.rbState c = 2) (hw : s.regN (ctxReg c 0x910) / 2 ^ 32 = w) : s.resumes c w = true := by
  rw [State.resumes, hr, bits_upper, hw]; simp

/-- R424: a resume of the wave, written or as a flit, ends the freeze of a context with nothing held and no blocks. -/
theorem resume_ends (c w : Nat) (s : State) (hr : s.rbState c = 2) (hw : s.regN (ctxReg c 0x910) / 2 ^ 32 = w) (hq : s.heldQ = []) (hi : s.remIn = [])
    (hb : ∀ b ∈ s.blocks, b.ctx ≠ c) :
    (∃ t, exec (.resume c w) s = .next t ∧ t.rbState c = 0 ∧ SMap.get t.lastWave c 0 = w) ∧
      ∀ l j, s.jobCtxs j = [c] → ∃ t, exec (.resumeFlit l w j) s = .next t ∧ t.rbState c = 0 ∧ SMap.get t.lastWave c 0 = w := by
  have hs := resumes_of hr hw
  have hquiet := resumeCtx_quiet w hq hi hb
  refine ⟨⟨s.resumeCtx c w, ?_, hquiet⟩, fun l j hj => ⟨s.resumeCtx c w, ?_, hquiet⟩⟩
  · show execResume c w s = _
    rw [execResume, if_pos hs]
  · show execResumeFlit l w j s = _
    rw [execResumeFlit, hj, List.foldl_cons, List.foldl_nil, if_pos hs]

/-- R423: a frozen context's unit is asked to step. -/
theorem step_asks (c : Nat) (s : State) (hr : s.rbState c = 2) (hst : s.regN (ctxReg c 0xC10) % 4 ≠ 1) (hu : s.regN (ctxReg c 0xC08) / 2 ^ 30 % 4 ≠ 3) :
    ∃ t, exec (.step c) s = .next t ∧ t.regN (ctxReg c 0xC10) % 4 = 1 ∧ t.blocks = s.blocks := by
  have hs : ((s.reg (ctxReg c 0xC10)).toNat % 4 == 1) = false := by simpa [State.regN] using hst
  have hunit : (bits (s.regN (ctxReg c 0xC08)) 31 30 == 3) = false := by rw [bits_eq]; simpa using hu
  refine ⟨s.setReg (ctxReg c 0xC10) (setField (s.reg (ctxReg c 0xC10)) 1 0 1), ?_, ?_, State.setReg_blocks ..⟩
  · show execStep c s = _
    unfold execStep
    simp only [hs, hunit, hr, Bool.false_eq_true, if_false, beq_self_eq_true, Bool.true_or, Bool.not_true, Bool.or_false]
  · rw [State.regN_setReg_self, toNat_setField _ 1 (by decide) (by decide)]
    omega

/-- R424: a trigger freezes a context that holds no wave. -/
theorem trigger_freezes (c : Nat) (s : State) (h : s.rbState c = 0) : ∃ t, exec (.trigger c) s = .next t ∧ Frozen t c := by
  refine ⟨s.roadblock c cBreakpoint 0xFF 0xFF 0 0, ?_, frozen_roadblock h ..⟩
  show execTrigger c s = _
  rw [execTrigger, if_pos (by simpa using h)]

/-! ### Samples, dumps and log heads (R426, R429, R445, R447) -/

/-- R426: a sample moves a core to its next occupied slot, and changes no block. -/
theorem traceSample_moves (c : Nat) (s : State) (b : Block) (hb : s.sampleSlot c = some b) :
    ∃ t, exec (.traceSample c) s = .next t ∧ t.blocks = s.blocks ∧ (t.core c).sampleSlot = (b.slot + 1) % 8 := by
  have hcore : ((s.modCore c fun x => { x with sampleSlot := (b.slot + 1) % 8 }).core c).sampleSlot = (b.slot + 1) % 8 := by rw [core_modCore]
  have hdone : ∀ t, Traced (s.modCore c fun x => { x with sampleSlot := (b.slot + 1) % 8 }) t → t.blocks = s.blocks ∧ (t.core c).sampleSlot = (b.slot + 1) % 8 := fun t ht =>
    ⟨ht.blocks, (ht.sampleSlot c).trans hcore⟩
  have he : exec (.traceSample c) s = execTraceSample c s := rfl
  rw [he]
  unfold execTraceSample
  rw [hb]
  dsimp only
  split
  · exact ⟨_, rfl, hdone _ (traced_traceRec ..)⟩
  · split
    · exact ⟨_, rfl, hdone _ (Traced.refl _)⟩
    · exact ⟨_, rfl, hdone _ (traced_traceRec ..)⟩

/-- A context without blocks has none that a dump freezes, or settles. -/
theorem map_blocks_of_no_ctx {bs : List Block} {c : Nat} (hb : ∀ b ∈ bs, b.ctx ≠ c) (p : Block → Bool) (f : Block → Block) :
    bs.map (fun b => if b.ctx == c && p b then f b else b) = bs := by
  refine (List.map_congr_left fun b hm => ?_).trans (List.map_id _)
  simp [hb b hm]

theorem dumpBlocks_of_no_ctx {s : State} {c : Nat} (hb : ∀ b ∈ s.blocks, b.ctx ≠ c) : s.dumpBlocks c = [] := by
  rw [State.dumpBlocks, List.filter_eq_nil_iff]
  intro b hm
  simp [hb b hm]

/-- What leaves of a context without blocks: its RB registers, its trace ring, and the record that closes the dump. -/
theorem dumpOut_of_no_ctx {s : State} {c : Nat} (hb : ∀ b ∈ s.blocks, b.ctx ≠ c) :
    ∃ x y z, (s.dumpOut c).outs = s.outs ++ [.sideband x, .sideband y, .sideband z] ∧ (s.dumpOut c).blocks = s.blocks := by
  unfold State.dumpOut
  extract_lets s1 frames rb s2
  have h1 : s1.blocks = s.blocks := map_blocks_of_no_ctx hb _ _
  have hd : s1.dumpBlocks c = [] := dumpBlocks_of_no_ctx (h1 ▸ hb)
  have hf : frames = [] := by simp only [frames, hd, List.filterMap_nil]
  have ho : s2.outs = s.outs ++ (frames ++ [rb, dumpRecord 4 c (s1.traceRing c), dumpRecord 5 c []]).map Out.sideband := rfl
  rw [hd, List.foldl_nil]
  exact ⟨_, _, _, by rw [ho, hf]; rfl, h1⟩

/-- R429: a dump of a context without blocks leaves at once. -/
theorem dumpRequest_leaves (c : Nat) (s : State) (hb : ∀ b ∈ s.blocks, b.ctx ≠ c) :
    ∃ t x y z, exec (.dumpRequest c) s = .next t ∧ t.outs = s.outs ++ [.sideband x, .sideband y, .sideband z] ∧ t.blocks = s.blocks := by
  have he : exec (.dumpRequest c) s = .next (s.dumpOut c) := by
    have hready : s.dumpReady c = true := by rw [State.dumpReady, dumpBlocks_of_no_ctx hb, List.all_nil]
    show execDumpRequest c s = _
    unfold execDumpRequest
    simp only [map_blocks_of_no_ctx hb, hready, if_true]
  obtain ⟨x, y, z, ho, hblk⟩ := dumpOut_of_no_ctx hb
  exact ⟨_, x, y, z, he, ho, hblk⟩

/-- A head may move to its tail. -/
theorem headMoves_tail (h t : Nat) : headMoves h t t = true := decide_eq_true (Nat.le_refl _)

theorem toNat_ofNat_upper (s : State) (a : Nat) : (BitVec.ofNat 64 (s.regN a / 2 ^ 32)).toNat = s.regN a / 2 ^ 32 := by
  have := (s.reg a).isLt
  rw [BitVec.toNat_ofNat, Nat.mod_eq_of_lt (by unfold State.regN; omega)]

/-- R445: the audit ring's head moves to its tail. -/
theorem audheadWrite_moves (v : Dword) (s : State) (h : v.toNat % 2 ^ 32 = s.regN 0x2B8 / 2 ^ 32) :
    ∃ t, exec (.audheadWrite v) s = .next t ∧ t.regN 0x2A8 = s.regN 0x2B8 / 2 ^ 32 ∧ t.blocks = s.blocks := by
  have he : exec (.audheadWrite v) s = .next (s.setReg 0x2A8 (BitVec.ofNat 64 (s.regN 0x2B8 / 2 ^ 32))) := by
    show execAudheadWrite v s = _
    simp only [execAudheadWrite, h, bits_upper, headMoves_tail, if_true]
  exact ⟨_, he, (State.regN_setReg_self ..).trans (toNat_ofNat_upper ..), State.setReg_blocks ..⟩

/-- R447: a profile ring's head moves to its tail. -/
theorem profheadWrite_moves (c : Nat) (v : Dword) (s : State) (h : v.toNat % 2 ^ 32 = s.regN (ctxReg c 0x298) / 2 ^ 32) :
    ∃ t, exec (.profheadWrite c v) s = .next t ∧ t.regN (ctxReg c 0x2A0) = s.regN (ctxReg c 0x298) / 2 ^ 32 ∧ t.blocks = s.blocks := by
  have he : exec (.profheadWrite c v) s = .next (s.setReg (ctxReg c 0x2A0) (BitVec.ofNat 64 (s.regN (ctxReg c 0x298) / 2 ^ 32))) := by
    show execProfheadWrite c v s = _
    simp only [execProfheadWrite, h, bits_upper, headMoves_tail, if_true]
  exact ⟨_, he, (State.regN_setReg_self ..).trans (toNat_ofNat_upper ..), State.setReg_blocks ..⟩

end Sys2Proof.Machine

namespace Sys2Proof.Machine
open Sys2Proof.Rules

/-! ### The host's window and its partitions (R448, R450) -/

/-- What pwrite leaves in memory where no line is compressed: the bytes, and every other byte as it was. -/
theorem pwrite_bytes {s : State} (hc : s.hasCw = false) (ctx a : Nat) (d : List Byte) (attr : BitVec 10) :
    (∀ k < d.length, Mem.get (s.pwrite ctx a (leNat d) d.length attr).mem (a + k) = d.getD k 0) ∧
      KeptOutside s.mem (s.pwrite ctx a (leNat d) d.length attr).mem a d.length := by
  rw [mem_pwrite hc]
  refine ⟨fun k hk => ?_, fun x hx => Mem.get_writeN_other _ _ _ _ _ (by omega)⟩
  have hp : 256 ^ k = 2 ^ (8 * k) := by rw [Nat.pow_mul]
  rw [Mem.get_writeN _ _ _ _ _ hk, hp, ← Nat.shiftRight_eq_div_pow]
  exact leNat_byte d k hk

/-- R448: the host writes device memory through BAR2. -/
theorem hostBarAccess_writes (fn addr : Nat) (d : List Byte) (s : State) (a : Nat) (hf : fn ≤ 16) (h : BarReaches s fn addr d.length a) :
    ∃ t, exec (.hostBarAccess fn true addr d) s = .next t ∧ (∀ k < d.length, Mem.get t.mem (a + k) = d.getD k 0) ∧ KeptOutside s.mem t.mem a d.length ∧
      t.blocks = s.blocks := by
  obtain ⟨ha, hc, -⟩ := h
  obtain ⟨hbytes, hkept⟩ := pwrite_bytes hc 64 a d 0
  have he : exec (.hostBarAccess fn true addr d) s =
      .next { s.pwrite 64 a (leNat d) d.length 0 with outs := (s.pwrite 64 a (leNat d) d.length 0).outs ++ [.bar fn 0 []] } := by
    show execHostBarAccess fn true addr d s = _
    unfold execHostBarAccess
    simp only [Nat.not_le.2 (Nat.lt_succ_of_le hf), if_false, ha, if_true]
  exact ⟨_, he, hbytes, hkept, (memOnly_pwrite ..).blocks⟩

/-- A move that waits: the quads in force stand in the low half of VFPART, below the flag. -/
theorem vfWants_pending {s : State} {f : Nat} (h : bit (s.regN (devReg (8 * f))) 32 = true) : s.vfWants f = s.regN (vfNextKey f) := by
  rw [State.vfWants, if_pos h]

/-- VFPART and the mask that waits, after both are written. -/
theorem regN_vfpart (s : State) (f : Nat) (x y : Dword) :
    ((s.setReg (devReg (8 * f)) x).setReg (vfNextKey f) y).regN (devReg (8 * f)) = x.toNat ∧
      ((s.setReg (devReg (8 * f)) x).setReg (vfNextKey f) y).regN (vfNextKey f) = y.toNat := by
  refine ⟨?_, State.regN_setReg_self ..⟩
  rw [State.regN_setReg_of_ne _ _ (by unfold vfNextKey; exact devReg_ne (by omega)), State.regN_setReg_self]

/-- R450: a mask that names no quad of another VF, and not the one in force, waits. -/
theorem vfpartWrite_waits (f : Nat) (v : Dword) (s : State) (h1 : 1 ≤ f) (h16 : f ≤ 16) (ho : ∀ k, 1 ≤ k → k ≤ 16 → k ≠ f → s.vfHas k = 0 ∧ s.vfWants k = 0)
    (hv : v.toNat % 2 ^ 32 ≠ s.vfHas f) : ∃ t, exec (.vfpartWrite f v) s = .next t ∧ t.vfHas f = s.vfHas f ∧ t.vfWants f = v.toNat % 2 ^ 32 := by
  have hfree : ((List.range 17).any fun k => k != 0 && k != f && (v.toNat % 2 ^ 32 &&& (s.vfHas k ||| s.vfWants k)) != 0) = false := by
    rw [List.any_eq_false]
    intro k hk
    rw [List.mem_range] at hk
    by_cases h0 : k = 0
    · simp [h0]
    · by_cases hkf : k = f
      · simp [hkf]
      · obtain ⟨hh, hw⟩ := ho k (by omega) (by omega) hkf
        simp [hh, hw]
  have he : exec (.vfpartWrite f v) s = .next ((s.setReg (devReg (8 * f)) (BitVec.ofNat 64 (s.vfHas f + 2 ^ 32))).setReg (vfNextKey f) (BitVec.ofNat 64 (v.toNat % 2 ^ 32))) := by
    have hf0 : (f == 0) = false := beq_false_of_ne (by omega)
    show execVfpartWrite f v s = _
    unfold execVfpartWrite
    simp only [hfree, hf0, decide_eq_false (Nat.not_lt.2 h16), Bool.or_false, Bool.false_eq_true, if_false, beq_eq_false_iff_ne.2 hv]
  obtain ⟨hhas, hnext⟩ := regN_vfpart s f (BitVec.ofNat 64 (s.vfHas f + 2 ^ 32)) (BitVec.ofNat 64 (v.toNat % 2 ^ 32))
  have hlt : s.vfHas f < 2 ^ 32 := Nat.mod_lt _ (by decide)
  have hx : (BitVec.ofNat 64 (s.vfHas f + 2 ^ 32)).toNat = s.vfHas f + 2 ^ 32 := by rw [BitVec.toNat_ofNat]; omega
  have hy : (BitVec.ofNat 64 (v.toNat % 2 ^ 32)).toNat = v.toNat % 2 ^ 32 := by rw [BitVec.toNat_ofNat]; omega
  rw [hx] at hhas
  rw [hy] at hnext
  refine ⟨_, he, ?_, ?_⟩
  · rw [State.vfHas, hhas]; omega
  · rw [vfWants_pending (by rw [hhas, bit_eq_decide, decide_eq_true_iff]; omega), hnext]

/-- R450: a move that can take effect does. -/
theorem vfpartMoveDone_moves (f : Nat) (s : State) (hm : s.moveNow f = true) (hw : s.vfWants f < 2 ^ 32) :
    ∃ t, exec (.vfpartMoveDone f) s = .next t ∧ t.vfHas f = s.vfWants f ∧ t.blocks = s.blocks := by
  have he : exec (.vfpartMoveDone f) s = .next ((s.setReg (devReg (8 * f)) (BitVec.ofNat 64 (s.vfWants f))).setReg (vfNextKey f) 0) := by
    show execVfpartMoveDone f s = _
    simp only [execVfpartMoveDone, hm, Bool.not_true, Bool.false_eq_true, if_false]
  refine ⟨_, he, ?_, (State.setReg_blocks ..).trans (State.setReg_blocks ..)⟩
  rw [State.vfHas, (regN_vfpart ..).1, BitVec.toNat_ofNat]
  omega

/-! ### Translations of host memory (R453) -/

theorem SMap.get?_map {α : Type} (f : α → α) (m : SMap α) (i : Nat) : SMap.get? (m.map fun c => (c.1, f c.2)) i = (SMap.get? m i).map f := by
  induction m with
  | nil => rfl
  | cons x m ih =>
    simp only [List.map_cons, SMap.get?, ih]
    split <;> rfl

/-- A core's buffer after a filter of every buffer. -/
theorem tlb_tlbFilter (s : State) (keep : TlbEnt → Bool) (k : Nat) : ((s.tlbFilter keep).core k).tlb = (s.core k).tlb.filter keep := by
  have hc : (s.tlbFilter keep).cores = s.cores.map fun c => (c.1, { c.2 with tlb := c.2.tlb.filter keep }) := rfl
  unfold State.core SMap.get
  rw [hc, SMap.get?_map fun x : CoreSt => { x with tlb := x.tlb.filter keep }]
  cases SMap.get? s.cores k with
  | none => rfl
  | some x => rfl

/-- R453: translations that reach the host's pages leave the cores' buffers. -/
theorem atsInvalidate_removes (pa n : Nat) (s : State) :
    ∃ t, exec (.atsInvalidate pa n) s = .next t ∧ t.atsPend = true ∧ t.mem = s.mem ∧
      ∀ k, ∀ e ∈ (t.core k).tlb, ¬ (e.pbase < 0x800000000000 + pa + n ∧ 0x800000000000 + pa < e.pbase + 2 ^ e.lg) := by
  refine ⟨_, rfl, rfl, rfl, fun k e he => ?_⟩
  have hm : e ∈ ((s.tlbFilter fun e => !(decide (e.pbase < 0x800000000000 + pa + n) && decide (0x800000000000 + pa < e.pbase + 2 ^ e.lg))).core k).tlb := he
  rw [tlb_tlbFilter, List.mem_filter] at hm
  obtain ⟨-, hk⟩ := hm
  simp only [Bool.not_eq_true', Bool.and_eq_false_iff, decide_eq_false_iff_not] at hk
  exact fun ⟨h1, h2⟩ => hk.elim (fun h => h h1) (fun h => h h2)

/-- R453: the invalidation is answered. -/
theorem atsInvalidateComplete_answers (s : State) (h : s.atsPend = true) :
    ∃ t, exec .atsInvalidateComplete s = .next t ∧ t.atsPend = false ∧ t.outs = s.outs ++ [.atsDone] ∧ t.blocks = s.blocks := by
  refine ⟨{ s with atsPend := false, outs := s.outs ++ [.atsDone] }, ?_, rfl, rfl, rfl⟩
  show execAtsInvalidateComplete s = _
  simp only [execAtsInvalidateComplete, h, Bool.not_true, Bool.false_eq_true, if_false]

/-! ### Links (R455, R456) -/

theorem bit_zero_of_odd {x : Nat} (h : x % 2 = 1) : bit x 0 = true := by
  rw [bit_eq_decide, decide_eq_true_iff]; omega

/-- HELDOUT's field changes bit 0 of no register. -/
theorem regN_setHeldOut_low (s : State) (a r n : Nat) : (s.setReg a (setField (s.reg a) 31 16 n)).regN r % 2 = s.regN r % 2 := by
  by_cases e : a = r
  · subst e
    rw [State.regN_setReg_self, toNat_setField _ _ (by decide) (by decide), State.regN]
    omega
  · rw [State.regN_setReg_of_ne _ _ e]

/-- HELDOUT stands above bit 0 of its register: a count of what waits changes bit 0 of no register, and no block. -/
theorem heldOutSync_low (ctxs : List Nat) : ∀ (s : State) (r : Nat), (s.heldOutSync ctxs).regN r % 2 = s.regN r % 2 ∧ (s.heldOutSync ctxs).blocks = s.blocks := by
  induction ctxs with
  | nil => exact fun _ _ => ⟨rfl, rfl⟩
  | cons c cs ih =>
    intro s r
    have hcons : s.heldOutSync (c :: cs) =
        (s.setReg (ctxReg c 0x928) (setField (s.reg (ctxReg c 0x928)) 31 16 (min (s.outbound.filter fun o => o.1 == c).length 0xFFFF))).heldOutSync cs := List.foldl_cons ..
    rw [hcons, (ih _ r).1, (ih _ r).2, regN_setHeldOut_low, State.setReg_blocks]
    exact ⟨rfl, rfl⟩

/-- R456: a link with no operation outstanding goes down. -/
theorem linkDown_downs (l : Nat) (s : State) (hup : s.regN (lkReg l) % 2 = 1) (ho : ∀ o ∈ s.remOut, o.link ≠ l) :
    ∃ t, exec (.linkDown l) s = .next t ∧ t.regN (lkReg l) % 2 = 0 ∧ t.blocks = s.blocks := by
  have hnone : s.remOut.filter (fun o => o.link == l) = [] := by
    rw [List.filter_eq_nil_iff]
    intro o hm
    simpa using ho o hm
  have he : ∃ (s1 : State) (cs : List Nat), s1.blocks = s.blocks ∧ exec (.linkDown l) s = .next ((s1.setReg (lkReg l) (setField (s.reg (lkReg l)) 0 0 0)).heldOutSync cs) := by
    refine ⟨{ s with outbound := s.outbound.filter fun o => o.2.1 != l }, ((s.outbound.filter fun o => o.2.1 == l).map fun o => o.1).eraseDups, rfl, ?_⟩
    show execLinkDown l s = _
    unfold execLinkDown
    simp only [bit_zero_of_odd hup, hnone, Bool.not_true, Bool.false_eq_true, if_false, List.foldl_nil]
  obtain ⟨s1, cs, hb, he⟩ := he
  obtain ⟨hlow, hblk⟩ := heldOutSync_low cs (s1.setReg (lkReg l) (setField (s.reg (lkReg l)) 0 0 0)) (lkReg l)
  refine ⟨_, he, ?_, hblk.trans ((State.setReg_blocks ..).trans hb)⟩
  rw [hlow, State.regN_setReg_self, toNat_setField _ 0 (by decide) (by decide)]
  omega

/-- R456: a trained link is up, with its latency. -/
theorem linkTrained_ups (l lat : Nat) (d : Bool) (s : State) (hl : l < 16) :
    ∃ t, exec (.linkTrained l lat d) s = .next t ∧ t.regN (lkReg l) % 2 = 1 ∧ t.regN (lkReg l) / 2 ^ 32 = lat % 2 ^ 16 ∧ t.blocks = s.blocks := by
  have he : exec (.linkTrained l lat d) s = .next (s.setReg (lkReg l) (BitVec.ofNat 64 ((lat % 65536) <<< 32 + 2 * b2n d + 1))) := by
    show execLinkTrained l lat d s = _
    simp only [execLinkTrained, if_neg (Nat.not_le.2 hl)]
  have hd : b2n d ≤ 1 := by cases d <;> decide
  have hv : (BitVec.ofNat 64 ((lat % 65536) <<< 32 + 2 * b2n d + 1)).toNat = lat % 2 ^ 16 * 2 ^ 32 + 2 * b2n d + 1 := by
    rw [BitVec.toNat_ofNat, Nat.shiftLeft_eq]; omega
  refine ⟨_, he, ?_, ?_, State.setReg_blocks ..⟩
  · rw [State.regN_setReg_self, hv]; omega
  · rw [State.regN_setReg_self, hv]; omega

/-- R456: a flit with a bad CRC is asked for again, and counted. -/
theorem flitReceive_counts (l : Nat) (f : Flit) (s : State) (hup : s.regN (lkReg l) % 2 = 1) :
    ∃ t, exec (.flitReceive l f false) s = .next t ∧ t.regN (lkReg l) / 2 ^ 16 % 2 ^ 16 = min (s.regN (lkReg l) / 2 ^ 16 % 2 ^ 16 + 1) 0xFFFF ∧ t.blocks = s.blocks := by
  have he : exec (.flitReceive l f false) s =
      .next (s.setReg (lkReg l) (setField (s.reg (lkReg l)) 31 16 (min (bits (s.regN (lkReg l)) 31 16 + 1) 0xFFFF))) := by
    show execFlitReceive l f false s = _
    unfold execFlitReceive
    simp only [bit_zero_of_odd hup, Bool.not_true, Bool.not_false, Bool.false_eq_true, if_false, if_true]
  refine ⟨_, he, ?_, State.setReg_blocks ..⟩
  rw [State.regN_setReg_self, toNat_setField _ _ (by decide) (by decide), bits_eq]
  omega

/-! ### Clocks and power (R457-R459) -/

/-- One more clk that was stretched or lowered moves a count in CLKST, where the deterministic mode asks for it. -/
theorem stretched_eq (s : State) : s.stretched = s ∨ ∃ v, s.stretched = s.setReg (devReg 0x408) v := by
  unfold State.stretched
  dsimp only
  split
  · exact .inl rfl
  · exact .inr ⟨_, rfl⟩

theorem stretched_blocks (s : State) : s.stretched.blocks = s.blocks := by
  rcases stretched_eq s with e | ⟨v, e⟩ <;> rw [e]
  exact State.setReg_blocks ..
theorem stretched_mem (s : State) : s.stretched.mem = s.mem := by
  rcases stretched_eq s with e | ⟨v, e⟩ <;> rw [e]
  exact State.setReg_mem ..
theorem stretched_fw (s : State) : s.stretched.fw = s.fw := by
  rcases stretched_eq s with e | ⟨v, e⟩ <;> rw [e]
  exact State.setReg_fw ..

/-- R457: a droop stretches its domain's clock. -/
theorem supplyDroop_stretches (d : Nat) (s : State) (hd : d < 40) (hl : s.locked = false) (hn : d ∉ s.fw.droop) :
    ∃ t, exec (.supplyDroop d) s = .next t ∧ t.fw.droop = d :: s.fw.droop ∧ t.blocks = s.blocks ∧ t.mem = s.mem := by
  have he : exec (.supplyDroop d) s = .next ({ s with fw := { s.fw with droop := d :: s.fw.droop } } : State).stretched := by
    have hc : s.fw.droop.contains d = false := by simpa using hn
    show execSupplyDroop d s = _
    unfold execSupplyDroop
    simp only [if_neg (Nat.not_le.2 hd), hl, hc, Bool.or_false, Bool.false_eq_true, if_false]
  exact ⟨_, he, congrArg FwSt.droop (stretched_fw _), stretched_blocks _, stretched_mem _⟩

/-- R457: a droop passes. -/
theorem droopPassed_ends (d : Nat) (s : State) (hd : d ∈ s.fw.droop) : ∃ t, exec (.droopPassed d) s = .next t ∧ d ∉ t.fw.droop ∧ t.blocks = s.blocks := by
  refine ⟨{ s with fw := { s.fw with droop := s.fw.droop.filter fun x => x != d } }, ?_, ?_, rfl⟩
  · have hc : s.fw.droop.contains d = true := by simpa using hd
    show execDroopPassed d s = _
    simp only [execDroopPassed, hc, Bool.not_true, Bool.false_eq_true, if_false]
  · simp

/-- R459: where the deterministic mode asks for it, a lowered clk counts. -/
theorem powerLimit_counts (s : State) (hl : s.locked = false) (hb : (s.reg (devReg 0x400)).getLsbD 2 = true) :
    ∃ t, exec .powerLimit s = .next t ∧ t.regN (devReg 0x408) / 2 ^ 32 = min (s.regN (devReg 0x408) / 2 ^ 32 + 1) 0xFFFFFFFF ∧ t.blocks = s.blocks := by
  have he : exec .powerLimit s =
      .next (s.setReg (devReg 0x408) (setField (BitVec.ofNat 64 (s.regN (devReg 0x408))) 63 32 (min (bits (s.regN (devReg 0x408)) 63 32 + 1) 0xFFFFFFFF))) := by
    show execPowerLimit s = _
    simp only [execPowerLimit, State.stretched, hl, bit_regN, hb, Bool.not_true, Bool.false_eq_true, if_false]
  refine ⟨_, he, ?_, State.setReg_blocks ..⟩
  have hx := (BitVec.ofNat 64 (s.regN (devReg 0x408))).isLt
  rw [State.regN_setReg_self, toNat_setField _ _ (by decide) (by decide), bits_upper]
  omega

/-- R458: a value written to CLKCTL waits. -/
theorem clkctlWrite_waits (v : Dword) (s : State) : ∃ t, exec (.clkctlWrite v) s = .next t ∧ t.regN (devReg 0x400) = v.toNat % 8 + 8 ∧ t.blocks = s.blocks := by
  refine ⟨s.setReg (devReg 0x400) (BitVec.ofNat 64 (v.toNat % 8 + 8)), rfl, ?_, State.setReg_blocks ..⟩
  rw [State.regN_setReg_self, BitVec.toNat_ofNat]
  omega

/-- R458: the value that waits stands once no grid runs. -/
theorem clockChange_stands (s : State) (hw : (s.reg (devReg 0x400)).getLsbD 3 = true) (hg : s.grids = []) :
    ∃ t, exec .clockChange s = .next t ∧ t.regN (devReg 0x400) = s.regN (devReg 0x400) % 8 ∧ t.blocks = s.blocks := by
  have hnow : s.clockNow = true := by rw [State.clockNow, bit_regN, hw, hg]; rfl
  have he : ∃ x, exec .clockChange s = .next ((s.setReg (devReg 0x400) (BitVec.ofNat 64 (s.regN (devReg 0x400) % 8))).setReg (devReg 0x408) x) := by
    have hx : exec .clockChange s = execClockChange s := rfl
    rw [hx, execClockChange, hnow]
    exact ⟨_, rfl⟩
  obtain ⟨x, he⟩ := he
  refine ⟨_, he, ?_, (State.setReg_blocks ..).trans (State.setReg_blocks ..)⟩
  rw [State.regN_setReg_of_ne _ _ (devReg_ne (by decide)), State.regN_setReg_self, BitVec.toNat_ofNat]
  omega

/-- R459: a lost lock shows, and is reported. -/
theorem lockLost_shows (s : State) (hl : s.locked = true) :
    ∃ t, exec .lockLost s = .next t ∧ t.locked = false ∧ (t.reg (devReg 0x408)).getLsbD 1 = true ∧ t.outs = s.outs ++ [.msix 0 0] := by
  have he : exec .lockLost s = .next { s.setReg (devReg 0x408) (setField (s.reg (devReg 0x408)) 1 0 2) with outs := s.outs ++ [.msix 0 0] } := by
    show execLockLost s = _
    simp only [execLockLost, hl, Bool.not_true, Bool.false_eq_true, if_false]
  have hr : ({ s.setReg (devReg 0x408) (setField (s.reg (devReg 0x408)) 1 0 2) with outs := s.outs ++ [.msix 0 0] } : State).regs =
      (s.setReg (devReg 0x408) (setField (s.reg (devReg 0x408)) 1 0 2)).regs := rfl
  refine ⟨_, he, ?_, ?_, rfl⟩
  · rw [State.locked, State.regN_congr hr, State.regN_setReg_self, toNat_setField _ 2 (by decide) (by decide), bit_eq_decide, decide_eq_false_iff_not]
    omega
  · rw [← bit_regN, State.regN_congr hr, State.regN_setReg_self, toNat_setField _ 2 (by decide) (by decide), bit_eq_decide, decide_eq_true_iff]
    omega

/-! ### Soft errors (R465) -/

/-- R465: a corrected error counts in its level's register, and a write clears it. -/
theorem softError_counts (l pa : Nat) (s : State) (hl : l < 8) :
    (∃ t, exec (.softError l true pa) s = .next t ∧ t.regN (devReg (0x600 + 8 * l)) % 2 ^ 32 = min (s.regN (devReg (0x600 + 8 * l)) % 2 ^ 32 + 1) 0xFFFFFFFF ∧
      t.blocks = s.blocks) ∧ ∃ t, exec (.serrcntClear l) s = .next t ∧ t.reg (devReg (0x600 + 8 * l)) = 0 ∧ t.blocks = s.blocks := by
  have he : exec (.softError l true pa) s = .next (s.setReg (seReg l)
      (BitVec.ofNat 64 (min (bits (s.regN (seReg l)) 63 32 + 0) 0xFFFFFFFF <<< 32 + min (bits (s.regN (seReg l)) 31 0 + 1) 0xFFFFFFFF))) := by
    show execSoftError l true pa s = _
    unfold execSoftError
    rw [if_neg (Nat.not_le.2 hl)]
    rfl
  have hc : exec (.serrcntClear l) s = .next (s.setReg (seReg l) 0) := by
    show execSerrcntClear l s = _
    rw [execSerrcntClear, if_pos hl]
  have hr : devReg (0x600 + 8 * l) = seReg l := rfl
  rw [hr]
  refine ⟨⟨_, he, ?_, State.setReg_blocks ..⟩, _, hc, State.reg_setReg_self .., State.setReg_blocks ..⟩
  rw [State.regN_setReg_self, BitVec.toNat_ofNat, Nat.shiftLeft_eq, bits_eq, bits_eq]
  omega

end Sys2Proof.Machine

namespace Sys2Proof.Machine
open Sys2Proof.Rules

/-! ### The checkpoint (R460-R462) -/

theorem setReg_ckptState (s : State) (v : Dword) : (s.setReg ckptSt v).ckptState = v.toNat % 8 := by rw [State.ckptState, State.regN_setReg_self]

/-- A checkpoint that starts stops every block. -/
theorem ckptStart_stops (s : State) (halt : Bool) (cause : Nat) :
    (s.ckptStart halt cause).ckptState = 1 ∧ (s.ckptStart halt cause).fw.ckptHalted = halt ∧ ∀ b ∈ (s.ckptStart halt cause).blocks, b.state = .frozen := by
  unfold State.ckptStart
  refine ⟨?_, congrArg FwSt.ckptHalted (State.setReg_fw ..), ?_⟩
  · rw [setReg_ckptState, setField_rbState]
  · intro b hb
    rw [State.setReg_blocks] at hb
    obtain ⟨x, -, rfl⟩ := List.mem_map.1 hb
    rfl

/-- R462: while no checkpoint runs, one starts, or the image is discarded. -/
theorem ckptCommands_take (s : State) (h : s.ckptState = 0) :
    (∃ t, exec .ckptHalt s = .next t ∧ t.ckptState = 1 ∧ t.fw.ckptHalted = true ∧ ∀ b ∈ t.blocks, b.state = .frozen) ∧
      (∃ t, exec .ckptContinue s = .next t ∧ t.ckptState = 1 ∧ t.fw.ckptHalted = false ∧ ∀ b ∈ t.blocks, b.state = .frozen) ∧
      ∃ t, exec .ckptDiscard s = .next t ∧ (t.reg (devReg 0x508)).getLsbD 3 = false := by
  have hz : (s.ckptState == 0) = true := beq_iff_eq.2 h
  have hhalt : exec .ckptHalt s = .next (s.ckptStart true 0) := by
    show execCkptHalt s = _
    rw [execCkptHalt, if_pos hz]
  have hcont : exec .ckptContinue s = .next (s.ckptStart false 0) := by
    show execCkptContinue s = _
    rw [execCkptContinue, if_pos hz]
  have hdisc : exec .ckptDiscard s = .next (State.setReg { s with mem := Mem.writeN s.mem (imgHead + 40) 0 8 } ckptSt (setField (s.reg ckptSt) 3 3 0)) := by
    show execCkptDiscard s = _
    rw [execCkptDiscard, if_pos hz]
  refine ⟨⟨_, hhalt, ckptStart_stops ..⟩, ⟨_, hcont, ckptStart_stops ..⟩, _, hdisc, ?_⟩
  have hr : devReg 0x508 = ckptSt := rfl
  rw [hr, ← bit_regN, State.regN_setReg_self, toNat_setField _ 0 (by decide) (by decide), bit_eq_decide, decide_eq_false_iff_not]
  omega

/-- An operation ends in the rows that count it: none where no block stands and none is saved. -/
theorem opDone_of_no_rows {s : State} (hb : s.blocks = []) (hv : s.saved = []) (id : Nat) (e : Eng) (err : Option Cause) : s.opDone id e err = s := by
  unfold State.opDone
  obtain ⟨⟩ := s
  subst hb hv
  rfl

theorem modThread_of_no_blocks {s : State} (hb : s.blocks = []) (t : TRef) (f : Thread → Thread) : s.modThread t f = s := by
  unfold State.modThread State.modBlock
  obtain ⟨⟩ := s
  subst hb
  rfl

/-- A fold whose every step leaves the state as it is. -/
theorem foldl_of_fixed {α : Type} {f : State → α → State} {s : State} (h : ∀ a, f s a = s) : ∀ l : List α, l.foldl f s = s
  | [] => rfl
  | a :: l => by rw [List.foldl_cons, h, foldl_of_fixed h l]

/-- R461: what started ends where it stands. -/
theorem checkpointCut_cuts (s : State) (hst : s.ckptState = 1) (hcut : s.fw.ckptCut = false) (hb : s.blocks = []) (hv : s.saved = []) :
    ∃ t, exec .checkpointCut s = .next t ∧ t.fw.ckptCut = true ∧ t.remOut = [] ∧ ∀ r ∈ t.xreqs, r.started = false := by
  refine ⟨{ s with
      fw := { s.fw with ckptCut := true }
      cores := s.cores.map fun c => (c.1, { c.2 with cq := c.2.cq.filter fun m => m.st == CmdSt.queued })
      xreqs := s.xreqs.filter fun r => !r.started
      remOut := [] }, ?_, rfl, rfl, fun r hr => ?_⟩
  · show execCheckpointCut s = _
    unfold execCheckpointCut
    rw [if_neg (by simp [hst, hcut])]
    extract_lets cmds fw s1 s2 s3
    have hdone : ∀ id e err, s1.opDone id e err = s1 := opDone_of_no_rows hb hv
    have hthr : ∀ t f, s1.modThread t f = s1 := modThread_of_no_blocks hb
    have e2 : s2 = s1 := foldl_of_fixed (fun m => hdone ..) _
    have e3 : s3 = s1 := by
      simp only [s3, e2]
      exact foldl_of_fixed (fun r => by rw [hdone, ite_self]) _
    rw [e3]
    refine congrArg _ (foldl_of_fixed (fun o => ?_) _)
    dsimp only
    rw [hdone, ite_self, hthr]
  · simpa using (List.mem_filter.1 hr).2

/-- R460: the image's header is written; CKPTST says VALID and no longer RUNNING. -/
theorem writeImage_eq (s : State) (us : Nat) : ∃ (s1 : State) (seq : Nat),
    s.writeImage us = s1.setReg ckptSt (BitVec.ofNat 64 ((us % 2 ^ 32) <<< 32 + seq <<< 8 + 8)) ∧ s1.blocks = s.blocks ∧ s1.grids = s.grids := by
  unfold State.writeImage
  exact ⟨_, _, rfl, rfl, rfl⟩

/-- R461, R462: a checkpoint whose work is done completes, and its image is valid. -/
theorem checkpointComplete_completes (us : Nat) (s : State) (hd : s.ckptDone = true) (hp : s.fw.power = true) (hr : s.fw.resetPend = false)
    (hb : s.blocks = []) (hg : s.grids = []) :
    ∃ t, exec (.checkpointComplete us) s = .next t ∧ t.ckptState = 0 ∧ (t.reg (devReg 0x508)).getLsbD 3 = true := by
  obtain ⟨s1, seq, e, hb1, hg1⟩ := writeImage_eq s us
  have hblk : (s.writeImage us).blocks = [] := by rw [e, State.setReg_blocks, hb1, hb]
  have hgrd : (s.writeImage us).grids = [] := by rw [e, State.setReg_grids, hg1, hg]
  have he : exec (.checkpointComplete us) s = .next (s.writeImage us) := by
    show execCheckpointComplete us s = _
    unfold execCheckpointComplete
    simp only [hd, hp, hr, hblk, hgrd, List.foldl_nil, ite_self, Bool.not_true, Bool.or_false, Bool.false_eq_true, if_false]
  have hv : (BitVec.ofNat 64 ((us % 2 ^ 32) <<< 32 + seq <<< 8 + 8)).toNat % 16 = 8 := by
    rw [BitVec.toNat_ofNat, Nat.shiftLeft_eq, Nat.shiftLeft_eq]; omega
  have hreg : devReg 0x508 = ckptSt := rfl
  refine ⟨_, he, ?_, ?_⟩
  · rw [e, setReg_ckptState]; omega
  · rw [e, hreg, ← bit_regN, State.regN_setReg_self, bit_eq_decide, decide_eq_true_iff]; omega

/-- R462: a valid image is restored while no queue is enabled. -/
theorem ckptRestore_starts (s : State) (hst : s.ckptState = 0) (hv : (s.reg (devReg 0x508)).getLsbD 3 = true)
    (hq : ∀ c < 64, ∀ q < 64, (s.reg (lqReg c q 1)).getLsbD 0 = false) : ∃ t, exec .ckptRestore s = .next t ∧ t.ckptState = 2 ∧ t.mem = s.mem := by
  have hnone : ((List.range 64).any fun c => (List.range 64).any fun q => bit (s.lqCtl c q) 0) = false := by
    simp only [List.any_eq_false, List.mem_range, Bool.not_eq_true]
    exact fun c hc q hq' => by rw [State.lqCtl, bit_regN, hq c hc q hq']
  have hvalid : bit (s.regN ckptSt) 3 = true := by rw [bit_regN]; exact hv
  have he : exec .ckptRestore s = .next (s.setReg ckptSt (setField (s.reg ckptSt) 2 0 2)) := by
    show execCkptRestore s = _
    unfold execCkptRestore
    simp only [hnone, hvalid, hst, beq_self_eq_true, Bool.not_false, Bool.and_true, if_true]
  exact ⟨_, he, by rw [setReg_ckptState, setField_rbState], State.setReg_mem ..⟩

/-- R462: a restore completes. -/
theorem restoreComplete_ends (s : State) (hst : s.ckptState = 2) : ∃ t, exec .restoreComplete s = .next t ∧ t.ckptState = 0 ∧ t.blocks = s.blocks := by
  have he : ∃ s1 : State, exec .restoreComplete s = .next (s1.setReg ckptSt (setField (s.reg ckptSt) 2 0 0)) ∧ s1.blocks = s.blocks := by
    have hx : exec .restoreComplete s = execRestoreComplete s := rfl
    rw [hx, execRestoreComplete, if_neg (by simp [hst])]
    exact ⟨_, rfl, rfl⟩
  obtain ⟨s1, he, hb⟩ := he
  exact ⟨_, he, by rw [setReg_ckptState, setField_rbState], (State.setReg_blocks ..).trans hb⟩

/-! ### Power, reset and the bring-up (R460, R462-R464) -/

/-- R460: without an armed checkpoint, a loss of power stops the device. -/
theorem mainPowerLoss_stops (s : State) (h1 : s.ckptState ≠ 1) (h : s.ckptState ≠ 0 ∨ (s.reg (devReg 0x500)).getLsbD 8 = false) :
    ∃ t, exec .mainPowerLoss s = .next t ∧ t.blocks = [] ∧ t.grids = [] ∧ t.regs = State.reset.regs ∧ t.fw.power = false := by
  have harm : (s.ckptState == 0 && bit (s.regN (devReg 0x500)) 8) = false := by
    rw [bit_regN]
    rcases h with h | h
    · rw [beq_false_of_ne h, Bool.false_and]
    · rw [h, Bool.and_false]
  have he : exec .mainPowerLoss s = .next ({ s with fw := { s.fw with power := false } } : State).cold := by
    show execMainPowerLoss s = _
    unfold execMainPowerLoss
    simp only [beq_eq_false_iff_ne.2 h1, harm, Bool.false_eq_true, if_false]
  exact ⟨_, he, rfl, rfl, rfl, rfl⟩

/-- R462: while no checkpoint runs, a host reset resets the device. -/
theorem hostReset_resets (s : State) (h : s.ckptState ≠ 1) :
    ∃ t, exec .hostReset s = .next t ∧ t.blocks = [] ∧ t.grids = [] ∧ t.regs = State.reset.regs ∧ t.fw.flash = s.fw.flash := by
  have he : exec .hostReset s = .next s.cold := by
    show execHostReset s = _
    simp only [execHostReset, beq_eq_false_iff_ne.2 h, Bool.false_eq_true, if_false]
  exact ⟨_, he, rfl, rfl, rfl, rfl⟩

theorem setReg_stage (s : State) (v : Dword) : (s.setReg bootSt v).stage = v.toNat % 16 := by rw [State.stage, State.regN_setReg_self]

/-- R463: the device boots stage by stage. -/
theorem boot_advances (s : State) : (s.stage = 0 → s.imageOk = true → ∃ t, exec .boot s = .next t ∧ t.stage = 1 ∧ t.fw.digest = sha3_512 s.fw.flash) ∧
    (s.stage = 1 → ∃ t, exec .boot s = .next t ∧ t.stage = 2) ∧ (s.stage = 2 → ∃ t, exec .boot s = .next t ∧ t.stage = 3) := by
  have hx : exec .boot s = execBoot s := rfl
  rw [hx]
  refine ⟨fun h0 hok => ?_, fun h1 => ?_, fun h2 => ?_⟩
  · have he : execBoot s = .next (State.setReg { s with fw := { s.fw with power := true, digest := sha3_512 s.fw.flash, key := Config.deriveKey s.fw.secret (sha3_512 s.fw.flash) } } bootSt 1) := by
      simp only [execBoot, h0, hok, if_true]
    exact ⟨_, he, setReg_stage .., congrArg FwSt.digest (State.setReg_fw ..)⟩
  · have he : ∃ v, execBoot s = .next ((s.setReg bootSt 2).setReg ckptSt v) := by
      rw [execBoot, h1]
      exact ⟨_, rfl⟩
    obtain ⟨v, he⟩ := he
    refine ⟨_, he, ?_⟩
    have hne : ckptSt ≠ bootSt := devReg_ne (by decide)
    rw [State.stage, State.regN_setReg_of_ne _ _ hne]
    exact setReg_stage ..
  · have he : execBoot s = .next (s.setReg bootSt 3) := by simp only [execBoot, h2]
    exact ⟨_, he, setReg_stage ..⟩

/-- R463: in recovery, a new image is taken and the boot ROM starts again. -/
theorem recoveryImageWrite_takes (img : List Byte) (s : State) (h : s.stage = 15) :
    ∃ t, exec (.recoveryImageWrite img) s = .next t ∧ t.stage = 0 ∧ t.fw.flash = img := by
  have he : exec (.recoveryImageWrite img) s = .next (State.setReg { s with fw := { s.fw with flash := img } } bootSt 0) := by
    show execRecoveryImageWrite img s = _
    rw [execRecoveryImageWrite, if_neg (by simp [h])]
  exact ⟨_, he, setReg_stage .., congrArg FwSt.flash (State.setReg_fw ..)⟩

/-- R464: there are four measurements. -/
theorem measure_some (s : State) {k : Nat} (h1 : 1 ≤ k) (h4 : k ≤ 4) : ∃ d, s.measure k = some d := by
  obtain rfl | rfl | rfl | rfl : k = 1 ∨ k = 2 ∨ k = 3 ∨ k = 4 := by omega
  all_goals exact ⟨_, rfl⟩

/-- R464: once the firmware runs, a measurement is reported. -/
theorem spdmMeasurement_reports (k : Nat) (s : State) (h1 : 1 ≤ k) (h4 : k ≤ 4) (h0 : s.stage ≠ 0) (h15 : s.stage ≠ 15) :
    ∃ t d g, exec (.spdmMeasurement k) s = .next t ∧ t.outs = s.outs ++ [.spdm k d g] ∧ t.blocks = s.blocks := by
  obtain ⟨d, hd⟩ := measure_some s h1 h4
  refine ⟨{ s with outs := s.outs ++ [.spdm k d (Config.mldsaSign s.fw.key (leBytes k 8 ++ d))] }, d, _, ?_, rfl, rfl⟩
  show execSpdmMeasurement k s = _
  unfold execSpdmMeasurement
  simp only [hd, beq_eq_false_iff_ne.2 h0, beq_eq_false_iff_ne.2 h15, Bool.or_false, Bool.false_eq_true, if_false]

/-- Settles O60: each event's own theorem, in the order of the statement. -/
theorem hostAndDeviceEventsComplete : Obligations.HostAndDeviceEventsComplete := by
  unfold Obligations.HostAndDeviceEventsComplete
  refine ⟨⟨registerWrite_ptroot, xrEnable_enables, fspill_spills, fun h hs s he hh _ hr ha => sliceWatchLatch_freezes h hs s he hh hr ha, roadblockFlit_freezes,
    heldFlit_waits, fun c w s hr hw hq hi _ hb => resume_ends c w s hr hw hq hi hb, step_asks, fun c s _ h => trigger_freezes c s h, traceSample_moves,
    dumpRequest_leaves, audheadWrite_moves, profheadWrite_moves⟩, ?_, ?_⟩
  · exact ⟨hostBarAccess_writes, vfpartWrite_waits, vfpartMoveDone_moves, atsInvalidate_removes, atsInvalidateComplete_answers, linkDown_downs, linkTrained_ups,
      flitReceive_counts, supplyDroop_stretches, droopPassed_ends, powerLimit_counts, clkctlWrite_waits, clockChange_stands, lockLost_shows, softError_counts⟩
  · exact ⟨ckptCommands_take, checkpointCut_cuts, checkpointComplete_completes, ckptRestore_starts, restoreComplete_ends, mainPowerLoss_stops, hostReset_resets,
      boot_advances, recoveryImageWrite_takes, spdmMeasurement_reports⟩

end Sys2Proof.Machine

namespace Sys2Proof.Machine
open Sys2Proof.Rules

section
variable {s s' : State} {t u : TRef} {b b' : Block} {w w' : Warp} {th th' : Thread}

/-! ### The threads of a block after a local change -/

/-- A local change keeps the block's grid. -/
theorem Local.grid (l : Local s s' t b w b' w' th') : b'.grid = b.grid := (congrArg Block.grid l.block :)
/-- A local change keeps the block's variant. -/
theorem Local.variant (l : Local s s' t b w b' w' th') : b'.variant = b.variant := (congrArg Block.variant l.block :)
/-- A local change keeps the block's size class. -/
theorem Local.sclass (l : Local s s' t b w b' w' th') : b'.sclass = b.sclass := (congrArg Block.sclass l.block :)
/-- A local change keeps the block's core and task slot. -/
theorem Local.place (l : Local s s' t b w b' w' th') : b'.core = b.core ∧ b'.slot = b.slot :=
  ⟨(congrArg Block.core l.block :), (congrArg Block.slot l.block :)⟩
/-- A local change keeps the grids. -/
theorem Local.grids (l : Local s s' t b w b' w' th') : s'.grids = s.grids := (congrArg State.grids l.rest :)

theorem Local.gridOf (l : Local s s' t b w b' w' th') : s'.gridOf b' = s.gridOf b := by
  simp only [State.gridOf, State.grid?, l.grid, l.grids]

theorem Local.varOf (l : Local s s' t b w b' w' th') : s'.varOf b' = s.varOf b := by
  simp only [State.varOf, l.gridOf, l.variant]

theorem length_eq_of_isSome_getElem? {α : Type} {l l' : List α} (h : ∀ i : Nat, l[i]?.isSome = l'[i]?.isSome) : l.length = l'.length := by
  have h1 := h l.length
  have h2 := h l'.length
  grind

theorem Local.warps_length (l : Local s s' t b w b' w' th') (h : At s t b w th) : b'.warps.length = b.warps.length :=
  length_eq_of_isSome_getElem? fun k => by
    by_cases hk : k = t.warp
    · subst hk; rw [l.at_.warp, h.warp]; rfl
    · rw [l.warps k hk]

theorem Local.threads_length (l : Local s s' t b w b' w' th') (h : At s t b w th) : w'.threads.length = w.threads.length :=
  length_eq_of_isSome_getElem? fun k => by
    by_cases hk : k = t.lane
    · subst hk; rw [l.at_.thread, h.thread]; rfl
    · rw [l.lanes k hk]

/-- A local change keeps the block's thread references. -/
theorem Local.refs (l : Local s s' t b w b' w' th') (h : At s t b w th) : b'.refs = b.refs := by
  have hw : b'.warpRefs = b.warpRefs := funext fun k => by
    obtain ⟨hc, hs⟩ := l.place
    unfold Block.warpRefs
    by_cases hk : k = t.warp
    · subst hk; simp only [l.at_.warp, h.warp, l.threads_length h, hc, hs]
    · simp only [l.warps k hk, hc, hs]
  rw [Block.refs, Block.refs, l.warps_length h, hw]

/-- A local change keeps the block's other threads. -/
theorem Local.thread?_other (l : Local s s' t b w b' w' th') (h : At s t b w th) {k j : Nat} (hn : ¬ (k = t.warp ∧ j = t.lane)) :
    b'.thread? k j = b.thread? k j := by
  unfold Block.thread?
  by_cases hk : k = t.warp
  · subst hk
    have hj : j ≠ t.lane := fun e => hn ⟨rfl, e⟩
    simp only [l.at_.warp, h.warp, Option.bind_some, l.lanes j hj]
  · rw [l.warps k hk]

/-- A local change by which its thread does not exit keeps the block's live threads. -/
theorem Local.live (l : Local s s' t b w b' w' th') (h : At s t b w th) (he : th'.st ≠ .exited) (he0 : th.st ≠ .exited) : b'.live = b.live := by
  unfold Block.live
  rw [l.refs h]
  refine List.filter_congr fun u _ => ?_
  by_cases hu : u.warp = t.warp ∧ u.lane = t.lane
  · obtain ⟨h1, h2⟩ := hu
    rw [h1, h2, l.at_.block_thread, h.block_thread]
    simp only [bne_iff_ne.2 he, bne_iff_ne.2 he0]
  · rw [l.thread?_other h hu]

/-- A live thread stands in its block's task slot, and the block holds it. -/
theorem Block.of_mem_live (hu : u ∈ b.live) : (u.core = b.core ∧ u.slot = b.slot) ∧ ∃ y, b.thread? u.warp u.lane = some y := by
  obtain ⟨hr, ht⟩ := List.mem_filter.1 hu
  refine ⟨?_, ?_⟩
  · obtain ⟨k, -, hk⟩ := List.mem_flatMap.1 hr
    unfold Block.warpRefs at hk
    split at hk
    · obtain ⟨j, -, rfl⟩ := List.mem_map.1 hk
      exact ⟨rfl, rfl⟩
    · cases hk
  · split at ht
    next y hy => exact ⟨y, hy⟩
    next => cases ht

/-! ### Arriving at a wait (R169, R352, R364) -/

/-- An instruction whose thread arrives is local, and leaves the thread waiting. -/
theorem exists_local_arriveAt (h : At s t b w th) (x : Wait) :
    ∃ b' w', Local s ((s.countIssue t).arriveAt t x) t b w b' w' (waits th .arrived x) ∧ b'.traps = b.traps :=
  ⟨_, _, (Local.countIssue h).trans (Local.modThread h.counted fun y => { y with st := .arrived, wait := some x }), counted_traps ..⟩

end

end Sys2Proof.Machine

namespace Sys2Proof.Machine
open Sys2Proof.Rules

section
variable {s s' : State} {t : TRef} {b b' : Block} {w w' : Warp} {th th' : Thread} {g : Grid} {v : VarE} {x : Wait}

/-! ### ROLE (R352) -/

/-- The numbers that the warps of a role hold in a block, but warp k. -/
def Block.roleTaken (b : Block) (k r : Nat) : List Nat :=
  (List.range b.warps.length).filterMap fun j =>
    match b.warps[j]? with | some x => if j != k && x.role == r then some x.rwarp else none | none => none

/-- The number that warp k takes in a role. -/
def Block.roleNumber (b : Block) (k r : Nat) : Nat := ((List.range 64).find? fun n => !(b.roleTaken k r).contains n).getD 0

/-- A thread that goes on at a role's entry, unless it has exited. -/
def Thread.entered (th : Thread) (entry : Dword) : Thread :=
  if th.st == .exited then th else { th with st := .running, wait := none, pc := entry, taken := [], waited := 0 }

/-- The block whose warp k has moved to a role. -/
def Block.movedRole (b : Block) (k r alloc : Nat) (entry : Dword) : Block :=
  b.modWarp k fun w => { w with role := r, rwarp := b.roleNumber k r, alloc := alloc, threads := w.threads.map fun th => th.entered entry }

theorem State.moveRole_eq (s : State) (t : TRef) (r alloc : Nat) (entry : Dword) :
    s.moveRole t r alloc entry = s.modBlock t.core t.slot fun b => b.movedRole t.warp r alloc entry := rfl

theorem keepsPlace_movedRole (k r alloc : Nat) (entry : Dword) : KeepsPlace fun b => b.movedRole k r alloc entry := fun _ => ⟨rfl, rfl⟩

theorem Block.mem_roleTaken {k r n : Nat} : n ∈ b.roleTaken k r ↔ ∃ j y, j ≠ k ∧ b.warps[j]? = some y ∧ y.role = r ∧ y.rwarp = n := by
  simp only [Block.roleTaken, List.mem_filterMap, List.mem_range]
  constructor
  · rintro ⟨j, -, hj⟩
    split at hj
    next y hy =>
      split at hj
      next hc =>
        simp only [Bool.and_eq_true, bne_iff_ne, beq_iff_eq] at hc
        exact ⟨j, y, hc.1, hy, hc.2, Option.some.inj hj⟩
      next => cases hj
    next => cases hj
  · rintro ⟨j, y, hj, hy, hr, hn⟩
    exact ⟨j, (List.getElem?_eq_some_iff.1 hy).1, by simp [hy, hj, hr, hn]⟩

/-- A local change keeps the numbers that the other warps hold. -/
theorem Local.mem_roleTaken (l : Local s s' t b w b' w' th') {r n : Nat} : n ∈ b'.roleTaken t.warp r ↔ n ∈ b.roleTaken t.warp r := by
  simp only [Block.mem_roleTaken]
  constructor
  · rintro ⟨j, y, hj, hy, hr⟩; exact ⟨j, y, hj, l.warps j hj ▸ hy, hr⟩
  · rintro ⟨j, y, hj, hy, hr⟩; exact ⟨j, y, hj, (l.warps j hj).trans hy, hr⟩

/-- The number that a warp takes is the lowest that no other holds, while one below 64 is free. -/
theorem Block.roleNumber_lowest {k r n : Nat} (hn : n < 64) (hfree : n ∉ b.roleTaken k r) :
    b.roleNumber k r ∉ b.roleTaken k r ∧ ∀ m < b.roleNumber k r, m ∈ b.roleTaken k r := by
  obtain ⟨i, hi⟩ : ∃ i, (List.range 64).find? (fun n => !(b.roleTaken k r).contains n) = some i := by
    rw [← Option.isSome_iff_exists, List.find?_isSome]
    exact ⟨n, List.mem_range.2 hn, by simpa using hfree⟩
  have hnum : b.roleNumber k r = i := by rw [Block.roleNumber, hi]; rfl
  rw [hnum]
  simpa using List.find?_range_eq_some.1 hi |>.imp_right And.right

/-- What a move of the thread's warp to a role leaves of the warp and the thread. -/
theorem At.moveRole (h : At s t b w th) (r alloc : Nat) (entry : Dword) :
    At (s.moveRole t r alloc entry) t (b.movedRole t.warp r alloc entry)
      { w with role := r, rwarp := b.roleNumber t.warp r, alloc := alloc, threads := w.threads.map fun th => th.entered entry } (th.entered entry) where
  block := by rw [State.moveRole_eq, State.block?_modBlock _ _ _ _ _ _ (keepsPlace_movedRole _ _ _ _), if_pos ⟨rfl, rfl⟩, h.block]; rfl
  warp := by rw [Block.movedRole, Block.modWarp_warps, if_pos rfl, h.warp]; rfl
  thread := by simp [h.thread]

/-- A wait at ROLE is over when no operation is counted and each thread of the warp has exited or arrived at it. -/
theorem waitOver_role (hk : x.kind = .role) (hops : w.ops = [])
    (hth : ∀ (k : Nat) (y : Thread), w.threads[k]? = some y → y.st = .exited ∨ y.st = .arrived ∧ y.wait = some x) : w.waitOver x = true := by
  unfold Warp.waitOver
  simp only [hk, hops, List.all_nil, Bool.true_and, List.all_eq_true, Bool.or_eq_true, Bool.and_eq_true, beq_iff_eq]
  intro y hy
  obtain ⟨k, hk'⟩ := List.mem_iff_getElem?.1 hy
  refine (hth k y hk').imp_right fun ⟨hst, hwait⟩ => ⟨hst, ?_⟩
  simp [hwait, hk]

/-- A thread that arrives at ROLE in a warp without counted operations, whose other threads have exited, ends the wait. -/
theorem Local.waitOver_role (l : Local s s' t b w b' w' (waits th .arrived x)) (hk : x.kind = .role) (hops : w.ops = [])
    (hexit : ∀ k y, k ≠ t.lane → w.threads[k]? = some y → y.st = .exited) : w'.waitOver x = true := by
  refine Machine.waitOver_role hk ((congrArg Warp.ops l.warp :).trans hops) fun k y hy => ?_
  by_cases hlane : k = t.lane
  · subst hlane
    obtain rfl := Option.some.inj (l.at_.thread.symm.trans hy)
    exact .inr ⟨rfl, rfl⟩
  · exact .inl (hexit k y hlane ((l.lanes k hlane).symm.trans hy))

/-- What ROLE leaves a thread to wait for: the role, with every lane of its warp as its effective mask (R352). -/
def roleWait (pc : Dword) (r : BitVec 2) : Wait := ⟨.role, 2 ^ 32 - 1, pc, 0x8D, BitVec.ofNat 64 r.toNat⟩

/-- R352: a role that is absent, or that has more rows than the warp holds, takes BOUNDS. -/
theorem exec_role_bounds {h : Hdr} {r : BitVec 2} (hi : Issues (.role h r) h s t b w th) (hg : s.gridOf b = some g) (hv : s.varOf b = some v)
    (hbad : v.entry.getD r.toNat 0xFFFFFFFF = 0xFFFFFFFF ∨ w.rows < v.rows.getD r.toNat 0) :
    exec (.role h r) s = .next ((s.countIssue t).deliver t (causeOf 0x07 r.toNat th.pc) false) := by
  have l := Local.countIssue hi.at_
  show execRole h r s = _
  unfold execRole
  rw [runThreads_alone hi.toAlone hi.guard]
  have hpc : th.counted.pc = th.pc := rfl
  have hrows : (w.counted t.lane).rows = w.rows := rfl
  simp only [l.at_.block, l.at_.warp?, l.at_.pcOf, l.gridOf, l.varOf, hg, hv, hrows, hpc]
  rw [if_pos (by simpa using hbad)]
  rfl

/-- R352: when the thread is the last to arrive, its warp moves to the role. -/
theorem exec_role_moves {h : Hdr} {r : BitVec 2} (hi : Issues (.role h r) h s t b w th) (hg : s.gridOf b = some g) (hv : s.varOf b = some v)
    (hentry : v.entry.getD r.toNat 0xFFFFFFFF ≠ 0xFFFFFFFF) (hrows : v.rows.getD r.toNat 0 ≤ w.rows) (hops : w.ops = [])
    (hexit : ∀ k y, k ≠ t.lane → w.threads[k]? = some y → y.st = .exited) :
    exec (.role h r) s = .next (((s.countIssue t).arriveAt t (roleWait th.pc r)).moveRole t r.toNat
      (v.rows.getD r.toNat 0) (g.img.codeVa (v.entry.getD r.toNat 0xFFFFFFFF))) := by
  have l := Local.countIssue hi.at_
  obtain ⟨b1, w1, l1, -⟩ := exists_local_arriveAt hi.at_ (roleWait th.pc r)
  have hops1 : w1.ops = [] := (congrArg Warp.ops l1.warp :).trans hops
  have hover := l1.waitOver_role rfl hops hexit
  show execRole h r s = _
  unfold execRole
  rw [runThreads_alone hi.toAlone hi.guard]
  have hpc : th.counted.pc = th.pc := rfl
  have hrows1 : (w.counted t.lane).rows = w.rows := rfl
  simp only [l.at_.block, l.at_.warp?, l.at_.pcOf, l.gridOf, l.varOf, hg, hv, hrows1, hpc]
  rw [if_neg (by simpa using ⟨hentry, hrows⟩), ← roleWait]
  simp only [l1.at_.warp?, hover, hops1, Bool.not_true, Bool.false_eq_true, if_false, List.findSome?_nil]
  rfl

end

end Sys2Proof.Machine

namespace Sys2Proof.Machine
open Sys2Proof.Rules

section
variable {s : State} {t u : TRef} {b : Block} {w : Warp} {th : Thread} {g : Grid} {v : VarE} {x : Wait}

/-! ### MILE (R63, R364) -/

/-- While a live thread of a block has not arrived, the block is at no milestone. -/
theorem Block.mileAt_eq_none {y : Thread} (hu : u ∈ b.live) (hy : b.thread? u.warp u.lane = some y) (hst : y.st ≠ .arrived) : b.mileAt = none := by
  have hall : ∀ m, b.allAt .mile m = false := fun m => by
    refine List.all_eq_false.2 ⟨u, hu, ?_⟩
    simp [hy, Thread.at, hst]
  simp [Block.mileAt, hall]

/-- A block whose only live thread has arrived at a milestone is there. -/
theorem Block.mileAt_of_live_eq (hl : b.live = [t]) (hy : b.thread? t.warp t.lane = some th) (hst : th.st = .arrived) (hx : th.wait = some x)
    (hk : x.kind = .mile) : b.mileAt = some x.mask := by
  simp [Block.mileAt, Block.allAt, Thread.at, Option.filter, hl, hy, hst, hx, hk]

/-- The size of a milestone is what the only live thread names, else the launch's (R364). -/
theorem Block.milePrime_of_live_eq (hl : b.live = [t]) (hy : b.thread? t.warp t.lane = some th) (hst : th.st = .arrived) (hx : th.wait = some x)
    (hk : x.kind = .mile) : b.milePrime g x.mask = if 2 ^ 32 ≤ x.arg.toNat then x.arg.toNat % 2 ^ 32 else bits g.raw.toNat 191 160 := by
  simp [Block.milePrime, Option.filter, hl, hy, hst, hx, hk]

/-- What MILE leaves a thread to wait for: the milestone, and the size that it names (R364). -/
def mileWait (sz : Bool) (n : Word) (id : Nat) : Wait := ⟨.mile, id, 0, 0x97, if sz then BitVec.ofNat 64 (2 ^ 32 + n.toNat) else 0⟩

/-- The size of a milestone that an arrival gives is what MILE names, else the launch's (R364). -/
theorem mileWait_size (sz : Bool) (n : Word) (id d : Nat) :
    (if 2 ^ 32 ≤ (mileWait sz n id).arg.toNat then (mileWait sz n id).arg.toNat % 2 ^ 32 else d) = if sz then n.toNat else d := by
  have hn := n.isLt
  cases sz
  · rfl
  · have ha : (mileWait true n id).arg.toNat = 2 ^ 32 + n.toNat := by
      show (BitVec.ofNat 64 (2 ^ 32 + n.toNat)).toNat = _
      rw [BitVec.toNat_ofNat]; omega
    simp only [if_true, ha, Nat.le_add_right]
    omega

/-- A check of a milestone that not every live thread has reached changes nothing. -/
theorem mileCheck_of_mileAt_eq_none {c k : Nat} (hb : s.block? c k = some b) (hm : b.mileAt = none) : s.mileCheck c k = s := by
  simp only [State.mileCheck, hb, hm]

/-- A check of a size of the block's own class changes nothing. -/
theorem mileCheck_of_class {c k m : Nat} (hb : s.block? c k = some b) (hg : s.gridOf b = some g) (hm : b.mileAt = some m)
    (hc : g.img.classOf (b.milePrime g m) = some b.sclass) : s.mileCheck c k = s := by
  simp [State.mileCheck, hb, hg, hm, hc]

/-- R364: a milestone that the variant lacks takes BOUNDS. -/
theorem exec_mile_bounds {h : Hdr} {a : VReg} {sz : Bool} {id : BitVec 8} (hi : Issues (.mile h a sz id) h s t b w th) (hg : s.gridOf b = some g)
    (hv : s.varOf b = some v) (hms : g.img.msOf v id.toNat = none) :
    exec (.mile h a sz id) s = .next ((s.countIssue t).deliver t (causeOf 0x07 id.toNat th.pc) false) := by
  have l := Local.countIssue hi.at_
  show execMile h a sz id s = _
  unfold execMile
  rw [runThreads_alone hi.toAlone hi.guard]
  simp only [l.at_.block, l.at_.thread?, l.gridOf, l.varOf, hg, hv, hms, Option.isNone_none, Bool.true_or, if_true]
  rfl

/-- R364: a thread without a queue binding arrives at a milestone that the variant lists, and the size is checked. -/
theorem exec_mile_arrives {h : Hdr} {a : VReg} {sz : Bool} {id : BitVec 8} (hi : Issues (.mile h a sz id) h s t b w th) (hg : s.gridOf b = some g)
    (hv : s.varOf b = some v) (hms : g.img.msOf v id.toNat ≠ none) :
    exec (.mile h a sz id) s = .next (((s.countIssue t).arriveAt t (mileWait sz (s.rv t a) id.toNat)).mileCheck t.core t.slot) := by
  have l := Local.countIssue hi.at_
  have hbinds : th.counted.binds = [] := hi.unbound
  show execMile h a sz id s = _
  unfold execMile
  rw [runThreads_alone hi.toAlone hi.guard]
  simp only [l.at_.block, l.at_.thread?, l.gridOf, l.varOf, hg, hv, Option.isNone_eq_false_iff.2 (Option.isSome_iff_ne_none.2 hms), hbinds,
    List.isEmpty_nil, Bool.not_true, Bool.or_false, Bool.false_eq_true, if_false, src_counted hi.toAlone]
  rfl

/-- R364: the check after the arrival changes nothing while another live thread has not arrived, or with a size of the block's own class. -/
theorem mileCheck_arriveAt {sz : Bool} {n : Word} {id : Nat} (h : At s t b w th) (hrun : th.st = .running) (hg : s.gridOf b = some g)
    (hsize : (∃ u ∈ b.live, u ≠ t ∧ ∀ y, s.thread? u = some y → y.st ≠ .arrived) ∨
      b.live = [t] ∧ g.img.classOf (if sz then n.toNat else bits g.raw.toNat 191 160) = some b.sclass) :
    ((s.countIssue t).arriveAt t (mileWait sz n id)).mileCheck t.core t.slot = (s.countIssue t).arriveAt t (mileWait sz n id) := by
  obtain ⟨b1, w1, l, -⟩ := exists_local_arriveAt h (mileWait sz n id)
  have hlive : b1.live = b.live := l.live h (by simp [waits]) (by simp [hrun])
  rcases hsize with ⟨u, hu, hne, hst⟩ | ⟨honly, hclass⟩
  · obtain ⟨⟨hcore, hslot⟩, y, hy⟩ := Block.of_mem_live hu
    obtain ⟨hbc, hbs⟩ := block?_place h.block
    have hplace : u.core = t.core ∧ u.slot = t.slot := ⟨hcore.trans hbc, hslot.trans hbs⟩
    have hother : ¬ (u.warp = t.warp ∧ u.lane = t.lane) := fun e => hne (by cases u; cases t; simp_all)
    have hyst : y.st ≠ .arrived := hst y (by rw [State.thread?_eq, hplace.1, hplace.2, h.block]; exact hy)
    exact mileCheck_of_mileAt_eq_none l.at_.block (Block.mileAt_eq_none (hlive ▸ hu) ((l.thread?_other h hother).trans hy) hyst)
  · have honly1 : b1.live = [t] := hlive.trans honly
    have hat := l.at_.block_thread
    refine mileCheck_of_class l.at_.block (l.gridOf.trans hg) (Block.mileAt_of_live_eq honly1 hat rfl rfl rfl) ?_
    rw [Block.milePrime_of_live_eq honly1 hat rfl rfl rfl, l.sclass, mileWait_size, hclass]

end

/-- Settles O32: ROLE either takes BOUNDS or moves the warp, whose new number is `Block.roleNumber`; MILE either takes BOUNDS or arrives, and the check
of the size after the arrival changes nothing. The registers that ROLE keeps are all of the thread's, also those above the new range (log 109). -/
theorem rolesAndMilestones : Obligations.RolesAndMilestones := by
  unfold Obligations.RolesAndMilestones
  refine ⟨fun h r s t b w th g v hi hg hv => ⟨exec_role_bounds hi hg hv, fun hentry hrows hops hexit ⟨n, hn, hfree⟩ => ?_⟩,
    fun h a sz id s t b w th g v hi hg hv => ⟨exec_mile_bounds hi hg hv, fun hms hsize => ?_⟩⟩
  · obtain ⟨b1, w1, l, -⟩ := exists_local_arriveAt hi.at_ (roleWait th.pc r)
    have hm := l.at_.moveRole r.toNat (v.rows.getD r.toNat 0) (g.img.codeVa (v.entry.getD r.toNat 0xFFFFFFFF))
    have hfree1 : n ∉ b1.roleTaken t.warp r.toNat := fun hmem => by
      obtain ⟨j, y, hj, hy, hr, he⟩ := Block.mem_roleTaken.1 (l.mem_roleTaken.1 hmem)
      exact hfree j y hj hy hr he
    obtain ⟨hnew, hlow⟩ := Block.roleNumber_lowest hn hfree1
    exact ⟨_, _, _, exec_role_moves hi hg hv hentry hrows hops hexit, rfl, hm.warp?, hm.thread?, rfl, rfl, (congrArg Warp.rows l.warp :),
      fun j y hj hy hr he => hnew (l.mem_roleTaken.2 (Block.mem_roleTaken.2 ⟨j, y, hj, hy, hr, he.symm ▸ rfl⟩)),
      fun k hk => Block.mem_roleTaken.1 (l.mem_roleTaken.1 (hlow k hk)), rfl, rfl, rfl, rfl, rfl⟩
  · obtain ⟨b1, w1, l, htraps⟩ := exists_local_arriveAt hi.at_ (mileWait sz (s.rv t a) id.toNat)
    refine ⟨_, b1, w1, ?_, l, htraps⟩
    rw [exec_mile_arrives hi hg hv hms, mileCheck_arriveAt hi.at_ hi.running hg hsize]

end Sys2Proof.Machine
